-- ==== Sys2Proof/Word.lean ====
section
/-!
DEFINITION. The words of the device, its plainest containers, and the names of its agents
(spec 00 R1, R2; 03 R56; 06 R127).
-/
namespace Sys2Proof

/-- A 64-bit word: an x register, a control register, an address while it is computed. -/
abbrev Word := BitVec 64

/-- One byte of memory or stash. -/
abbrev Byte := BitVec 8

/-- A sparse map in canonical form (keys strictly rising, no entry equal to the default):
the one container for memory, stashes, register files and tables. Its operations stand in
Machine/Map.lean. -/
abbrev SMap (α : Type) := List (Nat × α)

/-- A physical cluster: die 0-3, cluster 0-24 within the die (R1). -/
structure ClusId where
  die : Nat
  clus : Nat
  deriving DecidableEq, Repr, Inhabited

/-- A control core: a cluster and a rank 0-3 (R153). -/
structure CoreId where
  die : Nat
  clus : Nat
  rank : Nat
  deriving DecidableEq, Repr, Inhabited

/-- The three contexts of a core (R127). -/
inductive CtxKind where
  | load
  | exec
  | store
  deriving DecidableEq, Repr, Inhabited

/-- One hardware context. -/
structure CtxId where
  core : CoreId
  kind : CtxKind
  deriving DecidableEq, Repr, Inhabited

/-- The six engines of a core, in the order of their codes 0-5 (R56). -/
inductive Eng where
  | ld
  | st
  | mx
  | vx
  | rw
  | cp
  deriving DecidableEq, Repr, Inhabited

/-- Where an error is found: the stores of R345, the links, and the checked arithmetic of R344 (`context` of a
context, `engine` of an engine, `sliceOp` of a home slice on an operation of a context, `sliceDrain` on a row of an accumulating
drain, `peRow` of the array). `homeLine` is a copy in a home slice; `words` are a queue, its parameter stack and its window; `link` is
that of two dies; `beyond` an error in a store with more bits or symbols wrong than its code detects. -/
inductive Site where
  | hbm (addr : Nat)
  | stash (core : CoreId) (addr : Nat)
  | xreg (ctx : CtxId) (n : Nat)
  | vreg (core : CoreId) (reg i j : Nat)
  | rbuf (core : CoreId) (i j : Nat)
  | ring (core : CoreId) (ring idx : Nat)
  | bank (clus : ClusId) (bank i j : Nat)
  | cached (core : CoreId) (addr : Nat)
  | unit (core : CoreId)
  | churn (queue slot : Nat)
  | peRow (clus : ClusId) (row : Nat)
  | link (die n : Nat)
  | hostLink
  | peerPort (port : Nat)
  | context (ctx : CtxId)
  | engine (core : CoreId) (eng : Eng)
  | sliceOp (ctx : CtxId) (addr : Nat)
  | sliceDrain (core : CoreId) (addr : Nat)
  | homeLine (addr : Nat)
  | words (core : CoreId) (eng : Eng)
  | beyond (site : Site)
  deriving DecidableEq, Repr, Inhabited

end Sys2Proof
end

