-- ==== Sys2Proof/Syntax.lean ====
section
/-!
DEFINITION. The instructions of the device: one constructor per row of the opcode table.
The first 154 rows are the 32-bit scalar instructions (03 R55-R62); their arguments are the
fields of the encoding, the guard g last. The next 93 rows are the 16-bit engine words
(R63-R65); the argument f of a launch word is its six flags PU PD SU SD PR TS in bits 5..0.
The last rows carry no bits: they are the steps the device's own agents and the outside
world take between instructions (95), with the agent, object or value each names. The eight control
words without an operand stand at the end.
-/
namespace Sys2Proof

/-- Every operation and event of the device. -/
inductive Instr where
  /-- R92: Adds xA and xB modulo 2^64 into xD. -/
  | add (d : BitVec 5) (a : BitVec 5) (b : BitVec 5) (g : BitVec 3)
  /-- R92: Subtracts xB from xA modulo 2^64 into xD. -/
  | sub (d : BitVec 5) (a : BitVec 5) (b : BitVec 5) (g : BitVec 3)
  /-- R92: Bitwise AND of xA and xB into xD. -/
  | and (d : BitVec 5) (a : BitVec 5) (b : BitVec 5) (g : BitVec 3)
  /-- R92: Bitwise OR of xA and xB into xD. -/
  | or (d : BitVec 5) (a : BitVec 5) (b : BitVec 5) (g : BitVec 3)
  /-- R92: Bitwise XOR of xA and xB into xD. -/
  | xor (d : BitVec 5) (a : BitVec 5) (b : BitVec 5) (g : BitVec 3)
  /-- R92: xA AND NOT xB into xD. -/
  | andn (d : BitVec 5) (a : BitVec 5) (b : BitVec 5) (g : BitVec 3)
  /-- R92: Shifts xA left by xB[5:0] into xD. -/
  | shl (d : BitVec 5) (a : BitVec 5) (b : BitVec 5) (g : BitVec 3)
  /-- R92: Logical right shift of xA by xB[5:0] into xD. -/
  | shr (d : BitVec 5) (a : BitVec 5) (b : BitVec 5) (g : BitVec 3)
  /-- R92: Arithmetic right shift of xA by xB[5:0] into xD. -/
  | sar (d : BitVec 5) (a : BitVec 5) (b : BitVec 5) (g : BitVec 3)
  /-- R92: Rotates xA left by xB[5:0] into xD. -/
  | rol (d : BitVec 5) (a : BitVec 5) (b : BitVec 5) (g : BitVec 3)
  /-- R92: Signed minimum of xA and xB into xD. -/
  | min (d : BitVec 5) (a : BitVec 5) (b : BitVec 5) (g : BitVec 3)
  /-- R92: Signed maximum of xA and xB into xD. -/
  | max (d : BitVec 5) (a : BitVec 5) (b : BitVec 5) (g : BitVec 3)
  /-- R92: Unsigned minimum of xA and xB into xD. -/
  | minu (d : BitVec 5) (a : BitVec 5) (b : BitVec 5) (g : BitVec 3)
  /-- R92: Unsigned maximum of xA and xB into xD. -/
  | maxu (d : BitVec 5) (a : BitVec 5) (b : BitVec 5) (g : BitVec 3)
  /-- R92: Counts leading zero bits of xA into xD. -/
  | clz (d : BitVec 5) (a : BitVec 5) (g : BitVec 3)
  /-- R92: Counts trailing zero bits of xA into xD. -/
  | ctz (d : BitVec 5) (a : BitVec 5) (g : BitVec 3)
  /-- R92: Counts one bits of xA into xD. -/
  | popc (d : BitVec 5) (a : BitVec 5) (g : BitVec 3)
  /-- R92: Sign-extends xA[7:0] into xD. -/
  | sextB (d : BitVec 5) (a : BitVec 5) (g : BitVec 3)
  /-- R92: Sign-extends xA[15:0] into xD. -/
  | sextH (d : BitVec 5) (a : BitVec 5) (g : BitVec 3)
  /-- R92: Sign-extends xA[31:0] into xD. -/
  | sextW (d : BitVec 5) (a : BitVec 5) (g : BitVec 3)
  /-- R92: Zero-extends xA[7:0] into xD. -/
  | zextB (d : BitVec 5) (a : BitVec 5) (g : BitVec 3)
  /-- R92: Zero-extends xA[15:0] into xD. -/
  | zextH (d : BitVec 5) (a : BitVec 5) (g : BitVec 3)
  /-- R92: Zero-extends xA[31:0] into xD. -/
  | zextW (d : BitVec 5) (a : BitVec 5) (g : BitVec 3)
  /-- R92: (xA << 1) + xB into xD. -/
  | shadd1 (d : BitVec 5) (a : BitVec 5) (b : BitVec 5) (g : BitVec 3)
  /-- R92: (xA << 2) + xB into xD. -/
  | shadd2 (d : BitVec 5) (a : BitVec 5) (b : BitVec 5) (g : BitVec 3)
  /-- R92: (xA << 3) + xB into xD. -/
  | shadd3 (d : BitVec 5) (a : BitVec 5) (b : BitVec 5) (g : BitVec 3)
  /-- R92: (xA << 4) + xB into xD. -/
  | shadd4 (d : BitVec 5) (a : BitVec 5) (b : BitVec 5) (g : BitVec 3)
  /-- R93: Adds the sign-extended 13-bit immediate to xA into xD. -/
  | addi (d : BitVec 5) (a : BitVec 5) (i : BitVec 13) (g : BitVec 3)
  /-- R93: ANDs xA with the sign-extended immediate into xD. -/
  | andi (d : BitVec 5) (a : BitVec 5) (i : BitVec 13) (g : BitVec 3)
  /-- R93: ORs xA with the sign-extended immediate into xD. -/
  | ori (d : BitVec 5) (a : BitVec 5) (i : BitVec 13) (g : BitVec 3)
  /-- R93: XORs xA with the sign-extended immediate into xD. -/
  | xori (d : BitVec 5) (a : BitVec 5) (i : BitVec 13) (g : BitVec 3)
  /-- R94: Shifts xA left by an immediate 0-63 into xD. -/
  | shli (d : BitVec 5) (a : BitVec 5) (s : BitVec 6) (g : BitVec 3)
  /-- R94: Logical right shift of xA by an immediate into xD. -/
  | shri (d : BitVec 5) (a : BitVec 5) (s : BitVec 6) (g : BitVec 3)
  /-- R94: Arithmetic right shift of xA by an immediate into xD. -/
  | sari (d : BitVec 5) (a : BitVec 5) (s : BitVec 6) (g : BitVec 3)
  /-- R95: Loads a sign-extended 18-bit immediate into xD. -/
  | li (d : BitVec 5) (i : BitVec 18) (g : BitVec 3)
  /-- R95: Shifts xD left by 18 and ORs in an 18-bit immediate. -/
  | lih (d : BitVec 5) (i : BitVec 18) (g : BitVec 3)
  /-- R96: Low 64 bits of xA times xB into xD. -/
  | mul (d : BitVec 5) (a : BitVec 5) (b : BitVec 5) (g : BitVec 3)
  /-- R96: High 64 bits of the signed product into xD. -/
  | mulh (d : BitVec 5) (a : BitVec 5) (b : BitVec 5) (g : BitVec 3)
  /-- R96: High 64 bits of the unsigned product into xD. -/
  | mulhu (d : BitVec 5) (a : BitVec 5) (b : BitVec 5) (g : BitVec 3)
  /-- R96: Signed quotient truncated toward zero into xD. -/
  | div (d : BitVec 5) (a : BitVec 5) (b : BitVec 5) (g : BitVec 3)
  /-- R96: Unsigned quotient into xD. -/
  | divu (d : BitVec 5) (a : BitVec 5) (b : BitVec 5) (g : BitVec 3)
  /-- R96: Signed remainder into xD. -/
  | rem (d : BitVec 5) (a : BitVec 5) (b : BitVec 5) (g : BitVec 3)
  /-- R96: Unsigned remainder into xD. -/
  | remu (d : BitVec 5) (a : BitVec 5) (b : BitVec 5) (g : BitVec 3)
  /-- R97: Sets predicate pD to the comparison of xA and xB under condition cc. -/
  | cmp (d : BitVec 3) (a : BitVec 5) (b : BitVec 5) (c : BitVec 3) (g : BitVec 3)
  /-- R97: Sets predicate pD to the comparison of xA with a 10-bit immediate under cc. -/
  | cmpi (d : BitVec 3) (a : BitVec 5) (c : BitVec 3) (i : BitVec 10) (g : BitVec 3)
  /-- R98: Sets pD from pA and pB by a 4-bit truth table. -/
  | plog (d : BitVec 3) (a : BitVec 3) (b : BitVec 3) (t : BitVec 4) (g : BitVec 3)
  /-- R99: Sets pD to xA not equal to zero. -/
  | pset (d : BitVec 3) (a : BitVec 5) (g : BitVec 3)
  /-- R100: Selects xA or xB into xD by predicate pN. -/
  | sel (d : BitVec 5) (a : BitVec 5) (b : BitVec 5) (n : BitVec 3) (g : BitVec 3)
  /-- R111: FP32 addition with one rounding. -/
  | fadd (d : BitVec 5) (a : BitVec 5) (b : BitVec 5) (g : BitVec 3)
  /-- R111: FP32 subtraction with one rounding. -/
  | fsub (d : BitVec 5) (a : BitVec 5) (b : BitVec 5) (g : BitVec 3)
  /-- R111: FP32 multiplication with one rounding. -/
  | fmul (d : BitVec 5) (a : BitVec 5) (b : BitVec 5) (g : BitVec 3)
  /-- R111: FP32 fused multiply-add xA*xB+xD with one rounding. -/
  | ffma (d : BitVec 5) (a : BitVec 5) (b : BitVec 5) (g : BitVec 3)
  /-- R111: FP32 division with one rounding. -/
  | fdiv (d : BitVec 5) (a : BitVec 5) (b : BitVec 5) (g : BitVec 3)
  /-- R111: FP32 square root of xA. -/
  | fsqrt (d : BitVec 5) (a : BitVec 5) (g : BitVec 3)
  /-- R112: FP32 minimum with -0 below +0. -/
  | fmin (d : BitVec 5) (a : BitVec 5) (b : BitVec 5) (g : BitVec 3)
  /-- R112: FP32 maximum with -0 below +0. -/
  | fmax (d : BitVec 5) (a : BitVec 5) (b : BitVec 5) (g : BitVec 3)
  /-- R112: Magnitude of xA with the sign of xB. -/
  | fsgnJ (d : BitVec 5) (a : BitVec 5) (b : BitVec 5) (g : BitVec 3)
  /-- R112: Magnitude of xA with the inverted sign of xB. -/
  | fsgnN (d : BitVec 5) (a : BitVec 5) (b : BitVec 5) (g : BitVec 3)
  /-- R112: Magnitude of xA with the XOR of both signs. -/
  | fsgnX (d : BitVec 5) (a : BitVec 5) (b : BitVec 5) (g : BitVec 3)
  /-- R113: Sets pD to FP32 equality of xA and xB. -/
  | fcmpEq (d : BitVec 3) (a : BitVec 5) (b : BitVec 5) (g : BitVec 3)
  /-- R113: Sets pD to FP32 inequality of xA and xB. -/
  | fcmpNe (d : BitVec 3) (a : BitVec 5) (b : BitVec 5) (g : BitVec 3)
  /-- R113: Sets pD to FP32 less-than, NV on NaN. -/
  | fcmpLt (d : BitVec 3) (a : BitVec 5) (b : BitVec 5) (g : BitVec 3)
  /-- R113: Sets pD to FP32 greater-or-equal, NV on NaN. -/
  | fcmpGe (d : BitVec 3) (a : BitVec 5) (b : BitVec 5) (g : BitVec 3)
  /-- R114: Converts INT64 xA to FP32. -/
  | fcvtFI (d : BitVec 5) (a : BitVec 5) (g : BitVec 3)
  /-- R114: Converts unsigned 64-bit xA to FP32. -/
  | fcvtFIu (d : BitVec 5) (a : BitVec 5) (g : BitVec 3)
  /-- R114: Converts FP32 xA to INT64. -/
  | fcvtIF (d : BitVec 5) (a : BitVec 5) (g : BitVec 3)
  /-- R114: Converts FP32 xA to unsigned 64-bit. -/
  | fcvtIuF (d : BitVec 5) (a : BitVec 5) (g : BitVec 3)
  /-- R114: Widens BF16 xA to FP32 exactly. -/
  | fcvtFB (d : BitVec 5) (a : BitVec 5) (g : BitVec 3)
  /-- R114: Rounds FP32 xA to BF16. -/
  | fcvtBF (d : BitVec 5) (a : BitVec 5) (g : BitVec 3)
  /-- R115: Writes the one-hot FP class of xA into xD. -/
  | fclass (d : BitVec 5) (a : BitVec 5) (g : BitVec 3)
  /-- R116: Sign-extending load of 1, 2, 4 or 8 bytes from memory. -/
  | ld (d : BitVec 5) (a : BitVec 5) (w : BitVec 2) (o : BitVec 10) (g : BitVec 3)
  /-- R116: Zero-extending byte load from memory. -/
  | lduB (d : BitVec 5) (a : BitVec 5) (o : BitVec 10) (g : BitVec 3)
  /-- R116: Zero-extending half-word load from memory. -/
  | lduH (d : BitVec 5) (a : BitVec 5) (o : BitVec 10) (g : BitVec 3)
  /-- R116: Zero-extending word load from memory. -/
  | lduW (d : BitVec 5) (a : BitVec 5) (o : BitVec 10) (g : BitVec 3)
  /-- R118: Requests a line into the L1 or its home slice; no architectural effect. -/
  | pref (l : BitVec 5) (a : BitVec 5) (o : BitVec 10) (g : BitVec 3)
  /-- R117: Stores the low 1, 2, 4 or 8 bytes of xD to memory. -/
  | st (d : BitVec 5) (a : BitVec 5) (w : BitVec 2) (o : BitVec 10) (g : BitVec 3)
  /-- R171: Sign-extending load from own or peer stash. -/
  | lds (d : BitVec 5) (a : BitVec 5) (w : BitVec 2) (o : BitVec 10) (g : BitVec 3)
  /-- R171: Store to own or peer stash. -/
  | sts (d : BitVec 5) (a : BitVec 5) (w : BitVec 2) (o : BitVec 10) (g : BitVec 3)
  /-- R170: Allocates a stash map entry binding a stash range to virtual memory. -/
  | smap (d : BitVec 5) (a : BitVec 5) (b : BitVec 5) (g : BitVec 3)
  /-- R170: Writes back and frees a stash map entry. -/
  | sunmap (a : BitVec 5) (g : BitVec 3)
  /-- R170: Writes back dirty bytes of mapped lines in a range. -/
  | sflush (a : BitVec 5) (b : BitVec 5) (g : BitVec 3)
  /-- R170: Drops mapped lines in a range without write-back. -/
  | sinv (a : BitVec 5) (b : BitVec 5) (g : BitVec 3)
  /-- R175: Binds or clears a tile-table entry if it is EMPTY, returning a status. -/
  | ttset (d : BitVec 5) (a : BitVec 5) (b : BitVec 5) (t : BitVec 6) (g : BitVec 3)
  /-- R175: Reads a tile's state into xD. -/
  | ttq (d : BitVec 5) (t : BitVec 6) (g : BitVec 3)
  /-- R175: Waits until a tile is EMPTY or READY. -/
  | twait (w : BitVec 1) (t : BitVec 6) (g : BitVec 3)
  /-- R175: Reads a tile descriptor word into xD. -/
  | tdesc (d : BitVec 5) (s : BitVec 1) (t : BitVec 6) (g : BitVec 3)
  /-- R192: Atomic add at the home slice, returning the old value. -/
  | amoAdd (d : BitVec 5) (a : BitVec 5) (b : BitVec 5) (z : BitVec 1) (g : BitVec 3)
  /-- R192: Atomic AND at the home slice. -/
  | amoAnd (d : BitVec 5) (a : BitVec 5) (b : BitVec 5) (z : BitVec 1) (g : BitVec 3)
  /-- R192: Atomic OR at the home slice. -/
  | amoOr (d : BitVec 5) (a : BitVec 5) (b : BitVec 5) (z : BitVec 1) (g : BitVec 3)
  /-- R192: Atomic XOR at the home slice. -/
  | amoXor (d : BitVec 5) (a : BitVec 5) (b : BitVec 5) (z : BitVec 1) (g : BitVec 3)
  /-- R192: Atomic signed minimum at the home slice. -/
  | amoMin (d : BitVec 5) (a : BitVec 5) (b : BitVec 5) (z : BitVec 1) (g : BitVec 3)
  /-- R192: Atomic signed maximum at the home slice. -/
  | amoMax (d : BitVec 5) (a : BitVec 5) (b : BitVec 5) (z : BitVec 1) (g : BitVec 3)
  /-- R192: Atomic unsigned minimum at the home slice. -/
  | amoMinu (d : BitVec 5) (a : BitVec 5) (b : BitVec 5) (z : BitVec 1) (g : BitVec 3)
  /-- R192: Atomic unsigned maximum at the home slice. -/
  | amoMaxu (d : BitVec 5) (a : BitVec 5) (b : BitVec 5) (z : BitVec 1) (g : BitVec 3)
  /-- R192: Atomic swap at the home slice. -/
  | amoSwap (d : BitVec 5) (a : BitVec 5) (b : BitVec 5) (z : BitVec 1) (g : BitVec 3)
  /-- R193: Compare-and-swap at the home slice, returning the old value. -/
  | cas (d : BitVec 5) (a : BitVec 5) (b : BitVec 5) (z : BitVec 1) (g : BitVec 3)
  /-- R194: Atomic FP32 add with RNE at the home slice. -/
  | afadd (d : BitVec 5) (a : BitVec 5) (b : BitVec 5) (g : BitVec 3)
  /-- R194: Atomic BF16 add with RNE at the home slice. -/
  | abfadd (d : BitVec 5) (a : BitVec 5) (b : BitVec 5) (g : BitVec 3)
  /-- R194: Atomic BF16 add with stochastic rounding at the home slice. -/
  | abfsr (d : BitVec 5) (a : BitVec 5) (b : BitVec 5) (g : BitVec 3)
  /-- R198: Fills an EMPTY future cell, trapping on a FULL one. -/
  | fsetv (a : BitVec 5) (b : BitVec 5) (g : BitVec 3)
  /-- R198: Fills a future cell, setting OVR if already FULL. -/
  | fsetvR (a : BitVec 5) (b : BitVec 5) (g : BitVec 3)
  /-- R198: Waits for a FULL future and reads its value. -/
  | fgetv (d : BitVec 5) (a : BitVec 5) (g : BitVec 3)
  /-- R198: Waits for a FULL future, reads it and empties it. -/
  | ftake (d : BitVec 5) (a : BitVec 5) (g : BitVec 3)
  /-- R182: Acquire fence at a scope. -/
  | fenceAcq (s : BitVec 4) (g : BitVec 3)
  /-- R182: Release fence at a scope. -/
  | fenceRel (s : BitVec 4) (g : BitVec 3)
  /-- R182: Publish then acquire fence at a scope. -/
  | fenceFull (s : BitVec 4) (g : BitVec 3)
  /-- R182: Publish fence writing dirty read-shared bytes to the scope's place. -/
  | fencePub (s : BitVec 4) (g : BitVec 3)
  /-- R183: Waits until earlier stored pages are durable in the safe tier. -/
  | fencePers (g : BitVec 3)
  /-- R196: Waits until a coherent 8-byte word is at least xD. -/
  | waitv (d : BitVec 5) (a : BitVec 5) (g : BitVec 3)
  /-- R130: Appends xA to a ring, waiting while full. -/
  | rsend (a : BitVec 5) (r : BitVec 3) (g : BitVec 3)
  /-- R130: Removes the oldest ring entry into xD, waiting while empty. -/
  | rrecv (d : BitVec 5) (r : BitVec 3) (g : BitVec 3)
  /-- R130: Sets pD to whether a ring has room or data, without waiting. -/
  | rpoll (d : BitVec 3) (r : BitVec 3) (g : BitVec 3)
  /-- R137: Arrives at a cluster barrier, advancing its generation on the last arrival. -/
  | carrive (n : BitVec 3) (g : BitVec 3)
  /-- R137: Waits until the barrier generation the core arrived in completes. -/
  | cwait (n : BitVec 3) (g : BitVec 3)
  /-- R101: Writes a PC-relative branch target and starts fetch there. -/
  | pbr (t : BitVec 3) (i : BitVec 20) (g : BitVec 3)
  /-- R102: Writes a branch target from xA and starts fetch there. -/
  | pbrr (t : BitVec 3) (a : BitVec 5) (g : BitVec 3)
  /-- R103: Branches to bT when pP XOR NEG is 1. -/
  | br (t : BitVec 3) (p : BitVec 3) (n : BitVec 1) (g : BitVec 3)
  /-- R103: Branches to bT and links into x1 when taken. -/
  | brl (t : BitVec 3) (p : BitVec 3) (n : BitVec 1) (g : BitVec 3)
  /-- R106: Arms a hardware loop on a counter. -/
  | loop (t : BitVec 3) (c : BitVec 2) (a : BitVec 5) (g : BitVec 3)
  /-- R106: Arms a software-pipelined hardware loop of 2-4 stages. -/
  | loopSwp (t : BitVec 3) (c : BitVec 2) (a : BitVec 5) (s : BitVec 2) (g : BitVec 3)
  /-- R109: Deactivates a hardware loop. -/
  | lbrk (c : BitVec 2) (g : BitVec 3)
  /-- R204: Appends 1-8 engine words from registers to a queue. -/
  | enq (e : BitVec 5) (a : BitVec 5) (b : BitVec 5) (n : BitVec 3) (g : BitVec 3)
  /-- R205: Appends a script of engine words from memory to a queue. -/
  | enqs (e : BitVec 5) (a : BitVec 5) (b : BitVec 5) (g : BitVec 3)
  /-- R207: Sets a predicate if a queue has fewer than 8 free slots. -/
  | ebusy (e : BitVec 5) (p : BitVec 3) (g : BitVec 3)
  /-- R208: Waits until a queue is empty and its engine idle, then acquires. -/
  | efence (e : BitVec 5) (g : BitVec 3)
  /-- R209: Writes a snapshot of a queue's status into xD. -/
  | estat (e : BitVec 5) (d : BitVec 5) (g : BitVec 3)
  /-- R221: Requests the array lease and waits for the grant. -/
  | lease (g : BitVec 3)
  /-- R221: Waits for the array to finish, then ends the lease. -/
  | lrel (g : BitVec 3)
  /-- R134: Waits until a semaphore count reaches xA, then acquires. -/
  | kwait (a : BitVec 5) (k : BitVec 5) (g : BitVec 3)
  /-- R134: Releases, then adds xA to a semaphore with saturation. -/
  | ksig (a : BitVec 5) (k : BitVec 5) (g : BitVec 3)
  /-- R134: Sets a semaphore count and clears OVF. -/
  | kset (a : BitVec 5) (k : BitVec 5) (g : BitVec 3)
  /-- R134: Reads a semaphore count and OVF into xD. -/
  | kread (d : BitVec 5) (k : BitVec 5) (g : BitVec 3)
  /-- R320: Inserts a keyed record into a Churn queue, rejecting when full. -/
  | chins (p : BitVec 3) (a : BitVec 5) (b : BitVec 5) (q : BitVec 6) (g : BitVec 3)
  /-- R320: Inserts a keyed record into a Churn queue, waiting when full. -/
  | chinsw (p : BitVec 3) (a : BitVec 5) (b : BitVec 5) (q : BitVec 6) (g : BitVec 3)
  /-- R321: Claims the oldest WAITING Churn record and stores it. -/
  | chtake (d : BitVec 5) (a : BitVec 5) (q : BitVec 6) (g : BitVec 3)
  /-- R322: Retires a CLAIMED Churn record named by its header. -/
  | chdone (a : BitVec 5) (q : BitVec 6) (g : BitVec 3)
  /-- R316: Configures or queries a Churn queue. -/
  | chcfg (d : BitVec 5) (a : BitVec 5) (b : BitVec 5) (q : BitVec 6) (g : BitVec 3)
  /-- R385: Opens a long activity with a state word. -/
  | labegin (d : BitVec 5) (a : BitVec 5) (g : BitVec 3)
  /-- R386: Ends a step and pushes its compensation record. -/
  | lastep (d : BitVec 5) (a : BitVec 5) (b : BitVec 5) (g : BitVec 3)
  /-- R387: Commits the unit's open activity and discards its records. -/
  | laend (d : BitVec 5) (g : BitVec 3)
  /-- R387: Sets the open activity ABANDONING. -/
  | laabort (d : BitVec 5) (g : BitVec 3)
  /-- R389: Retries, skips or halts at a FROZEN activity's failed record. -/
  | lactl (d : BitVec 5) (a : BitVec 5) (b : BitVec 5) (g : BitVec 3)
  /-- R388: Reads an activity's state word snapshot. -/
  | laq (d : BitVec 5) (a : BitVec 5) (g : BitVec 3)
  /-- R416: Requests a power region level, waiting for the grant. -/
  | pacq (l : BitVec 8) (g : BitVec 3)
  /-- R416: Releases the core's power region grant. -/
  | prel (g : BitVec 3)
  /-- R120: Reads a control register into xD. -/
  | crr (d : BitVec 5) (r : BitVec 11) (g : BitVec 3)
  /-- R120: Writes a control register from xA, returning the old value. -/
  | crw (d : BitVec 5) (a : BitVec 5) (r : BitVec 11) (g : BitVec 3)
  /-- R120: Sets bits of a control register, returning the old value. -/
  | crs (d : BitVec 5) (a : BitVec 5) (r : BitVec 11) (g : BitVec 3)
  /-- R120: Clears bits of a control register, returning the old value. -/
  | crc (d : BitVec 5) (a : BitVec 5) (r : BitVec 11) (g : BitVec 3)
  /-- R121: Raises TRAPI with a 10-bit code. -/
  | trap (c : BitVec 10) (g : BitVec 3)
  /-- R122: Returns from a trap handler, resolving any stopped queue. -/
  | tret (g : BitVec 3)
  /-- R123: Marks a yield point, renews the budget and may swap the team. -/
  | yield (g : BitVec 3)
  /-- R124: Waits for the context's event latch. -/
  | wfe (g : BitVec 3)
  /-- R146: Requests cancellation of a launch, graph, phase or job. -/
  | cancel (a : BitVec 5) (l : BitVec 2) (g : BitVec 3)
  /-- R63: Pushes a zero-extended 14-bit immediate on the parameter stack. -/
  | lit (i : BitVec 14)
  /-- R63: Shifts the top of stack left 14 and ORs an immediate. -/
  | ext (i : BitVec 14)
  /-- R210: Pops a value the entry's launch waits for on a semaphore. -/
  | waitk (k : BitVec 5)
  /-- R210: Records a semaphore increment at the launch's completion. -/
  | sigk (k : BitVec 5)
  /-- R215: Sets the engine's up- and down-neighbours. -/
  | nsel (u : BitVec 3) (v : BitVec 3)
  /-- R210: Sets the engine's mark value. -/
  | mark (m : BitVec 10)
  /-- R228: Fills a tile from a memory region, converting or transposing. -/
  | ldT (f : BitVec 6)
  /-- R229: Fills tile rows gathered by a stash index array. -/
  | ldG (f : BitVec 6)
  /-- R229: Fills a raw mask tile, optionally complementing bytes. -/
  | ldM (f : BitVec 6)
  /-- R229: Fills only a tile's scale area from a format page. -/
  | ldS (f : BitVec 6)
  /-- R230: Appends memory words to ring q.lx. -/
  | ldR (f : BitVec 6)
  /-- R230: Prefetches the lines of a range. -/
  | pf (f : BitVec 6)
  /-- R231: Drains a tile to memory, leaving it EMPTY or READY. -/
  | stT (f : BitVec 6)
  /-- R231: Scatters tile rows to memory by a stash index array. -/
  | stS (f : BitVec 6)
  /-- R231: Stores a tile to memory with conversion. -/
  | stCv (f : BitVec 6)
  /-- R231: Fills a tile with zeros. -/
  | stZ (f : BitVec 6)
  /-- R245: Multiplies two operands into an accumulator bank. -/
  | mma (f : BitVec 6)
  /-- R247: Zeroes an accumulator bank and sets its type. -/
  | mzero (f : BitVec 6)
  /-- R247: Loads a tile into an accumulator bank. -/
  | mloadc (f : BitVec 6)
  /-- R250: Drains a bank to the result buffer, a tile or memory. -/
  | mdrain (f : BitVec 6)
  /-- R252: Saves the array state to the park area and clears it. -/
  | mpark (f : BitVec 6)
  /-- R252: Restores the array state from the park area. -/
  | munpark (f : BitVec 6)
  /-- R246: Symmetric rank-k update of a bank's lower triangle. -/
  | msyrk (f : BitVec 6)
  /-- R253: Writes the array status record to stash, optionally clearing it. -/
  | mflags (f : BitVec 6)
  /-- R263: Cholesky factorisation of a bank window. -/
  | mchol (f : BitVec 6)
  /-- R265: LU factorisation with partial pivoting of a bank window. -/
  | mlu (f : BitVec 6)
  /-- R267: Triangular solve against the other bank. -/
  | mtrsm (f : BitVec 6)
  /-- R268: In-place triangular inverse. -/
  | mtrinv (f : BitVec 6)
  /-- R269: Reduces a window to upper triangular by plane rotations. -/
  | mgqr (f : BitVec 6)
  /-- R270: Applies stored rotations to a bank. -/
  | mqapply (f : BitVec 6)
  /-- R271: Applies PVEC row exchanges to a bank. -/
  | mperm (f : BitVec 6)
  /-- R272: Adds a scalar to diagonal entries of a bank. -/
  | mdiag (f : BitVec 6)
  /-- R289: Loads a tile window into a vector register. -/
  | vld (f : BitVec 6)
  /-- R290: Stores a vector register into a tile window. -/
  | vst (f : BitVec 6)
  /-- R291: Loads result-buffer rows into a vector register. -/
  | vldrb (f : BitVec 6)
  /-- R292: Sets the vector shape. -/
  | vshp (f : BitVec 6)
  /-- R284: Element-wise addition. -/
  | vadd (f : BitVec 6)
  /-- R284: Element-wise subtraction. -/
  | vsub (f : BitVec 6)
  /-- R284: Element-wise multiplication. -/
  | vmul (f : BitVec 6)
  /-- R284: Element-wise fused multiply-add. -/
  | vfma (f : BitVec 6)
  /-- R284: Element-wise FP32 division. -/
  | vdiv (f : BitVec 6)
  /-- R284: Element-wise minimum. -/
  | vmin (f : BitVec 6)
  /-- R284: Element-wise maximum. -/
  | vmax (f : BitVec 6)
  /-- R284: Element-wise absolute value. -/
  | vabs (f : BitVec 6)
  /-- R284: Element-wise negation. -/
  | vneg (f : BitVec 6)
  /-- R284: Element-wise comparison. -/
  | vcmp (f : BitVec 6)
  /-- R284: Element-wise selection. -/
  | vsel (f : BitVec 6)
  /-- R286: Element-wise format conversion, with block quantisation for scaled formats. -/
  | vcvt (f : BitVec 6)
  /-- R285: Reduces rows or columns. -/
  | vred (f : BitVec 6)
  /-- R285: Broadcasts a scalar, row or column. -/
  | vbcast (f : BitVec 6)
  /-- R285: Transposes a vector register. -/
  | vtrans (f : BitVec 6)
  /-- R284: Element-wise bitwise AND. -/
  | vand (f : BitVec 6)
  /-- R284: Element-wise bitwise OR. -/
  | vor (f : BitVec 6)
  /-- R284: Element-wise bitwise XOR. -/
  | vxor (f : BitVec 6)
  /-- R284: Element-wise left shift by an immediate. -/
  | vshl (f : BitVec 6)
  /-- R284: Element-wise right shift by an immediate. -/
  | vshr (f : BitVec 6)
  /-- R284: Element-wise exponential. -/
  | vexp (f : BitVec 6)
  /-- R284: Element-wise reciprocal. -/
  | vrcp (f : BitVec 6)
  /-- R284: Element-wise reciprocal square root. -/
  | vrsq (f : BitVec 6)
  /-- R284: Writes an index ramp. -/
  | viota (f : BitVec 6)
  /-- R284: Element-wise clip between two bounds. -/
  | vclip (f : BitVec 6)
  /-- R288: Multiplies by a power of two, composing block scales. -/
  | vscale (f : BitVec 6)
  /-- R285: Queries or scrubs element poison. -/
  | vpoisq (f : BitVec 6)
  /-- R285: Moves a shifted sub-region of a register. -/
  | vmovs (f : BitVec 6)
  /-- R295: Masks and finds the maximum of tile rows. -/
  | rmax (f : BitVec 6)
  /-- R295: Forms exponentials against the row maximum and their sum. -/
  | rexpsum (f : BitVec 6)
  /-- R295: Scales rows by the reciprocal of their sum. -/
  | rscale (f : BitVec 6)
  /-- R295: Computes row means. -/
  | rmean (f : BitVec 6)
  /-- R295: Computes row variances. -/
  | rvar (f : BitVec 6)
  /-- R295: Normalises rows by mean and variance. -/
  | rnorm (f : BitVec 6)
  /-- R295: Writes -inf into masked row elements. -/
  | rmask (f : BitVec 6)
  /-- R297: Pins or restores the row-engine slot length. -/
  | rttab (f : BitVec 6)
  /-- R305: Copies bytes between memory and stash. -/
  | cpy (f : BitVec 6)
  /-- R305: Copies a two-dimensional region. -/
  | cpy2 (f : BitVec 6)
  /-- R306: Copies a region transposed. -/
  | cpyt (f : BitVec 6)
  /-- R307: Gathers rows by a stash index array. -/
  | gath (f : BitVec 6)
  /-- R307: Scatters rows by a stash index array. -/
  | scat (f : BitVec 6)
  /-- R306: Copies a region with format conversion. -/
  | cconv (f : BitVec 6)
  /-- R308: Copies bytes into several stashes of the cluster. -/
  | mcast (f : BitVec 6)
  /-- R309: Writes into another logical core's raw stash and bumps a counter. -/
  | rsts (f : BitVec 6)
  /-- R310: Element-wise reduction of two sources. -/
  | cred (f : BitVec 6)
  /-- R305: Fills a range with a repeated 64-bit pattern. -/
  | cfill (f : BitVec 6)
  /-- R311: Computes CRC-32C of a range. -/
  | cchk (f : BitVec 6)
  /-- R312: Inserts a keyed record into a Churn queue from the stash. -/
  | cchins (f : BitVec 6)
  /-- R313: Sets event latches of a team or wakes a physical cluster. -/
  | cwake (f : BitVec 6)
  /-- R212: An engine entry completes: flags ORed into FCTL, token pushed, SIGK performed, entry retired. -/
  | entryCompletion (core : CoreId) (eng : Eng)
  /-- R23: A pending asynchronous interrupt is taken between instructions while IE is 1. -/
  | interrupt (ctx : CtxId)
  /-- R326: A pending engine trap is taken by the feeding context at an instruction boundary. -/
  | engineTrapDelivery (ctx : CtxId)
  /-- R130: A waiting RSEND appends once the ring has room. -/
  | ringSendComplete (ctx : CtxId)
  /-- R130: A waiting RRECV removes an entry once one arrives. -/
  | ringReceiveComplete (ctx : CtxId)
  /-- R135: A semaphore wait is released when the count reaches its value. -/
  | kwaitRelease (ctx : CtxId)
  /-- R137: A barrier wait completes when the generation advances. -/
  | cwaitRelease (ctx : CtxId)
  /-- R175: A tile wait completes when the tile reaches the awaited state. -/
  | twaitRelease (ctx : CtxId)
  /-- R196: A waiting WAITV re-tests its word after a write and may be released. -/
  | waitvRetest (ctx : CtxId)
  /-- R198: A waiting FGETV or FTAKE completes when the cell becomes FULL. -/
  | futureWaitRelease (ctx : CtxId)
  /-- R182: A fence completes once its publication or acquisition is confirmed. -/
  | fenceComplete (ctx : CtxId)
  /-- R204: A waiting ENQ or ENQS appends once queue space frees. -/
  | enqSpaceAvailable (ctx : CtxId)
  /-- R208: EFENCE completes when its queue is empty and engine idle. -/
  | efenceComplete (ctx : CtxId)
  /-- R221: The arbiter grants the array lease round-robin to a requesting core. -/
  | leaseGrant (clus : ClusId)
  /-- R222: LREL ends the lease once MXQ and the array drain, parking dirty banks. -/
  | lrelComplete (ctx : CtxId)
  /-- R222: The lease ends after 64 MX launches or 16,384 cycles. -/
  | leaseExhaustion (clus : ClusId)
  /-- R222: An MX trap unresolved for 4,096 cycles revokes the lease and parks the array. -/
  | leaseRevocation (clus : ClusId)
  /-- R416: A waiting power region request is granted in arrival order. -/
  | pacqGrant (clus : ClusId)
  /-- R124: A waiting WFE completes when its event latch is set. -/
  | wfeWake (ctx : CtxId)
  /-- R320: A waiting CHINSW retries when a slot frees or a match appears. -/
  | chinswRetry (ctx : CtxId)
  /-- R414: An entry waiting on charge starts once the bucket level suffices. -/
  | chargeWaitStart (core : CoreId) (eng : Eng)
  /-- R414: Every RAMP cycles the bucket rate steps toward its target. -/
  | bucketRampTick (clus : ClusId)
  /-- R148: A wait exceeds WTHRESH and the team becomes swappable. -/
  | wthreshExpiry (ctx : CtxId)
  /-- R376: REM reaches 0: execute contexts take BUDGET and pre-emption is requested. -/
  | budgetExpiry (clus : ClusId)
  /-- R375: A team's granted slice ends, a decision point. -/
  | sliceEnd (clus : ClusId)
  /-- R335: A pre-emption request starts stopping every part of the team. -/
  | preemptionRequest (clus : ClusId)
  /-- R335: A context still running 16,384 cycles after the request stops at the next boundary. -/
  | preemptionForceStop (ctx : CtxId)
  /-- R337: A pre-emption incomplete after 131,072 cycles removes the unit as hung. -/
  | preemptionHang (core : CoreId)
  /-- R338: Every part has stopped and the team image is written; slot becomes FREE. -/
  | teamSaveComplete (clus : ClusId)
  /-- R143: A unit with all contexts ended and queues idle retires and bumps its launch counter. -/
  | unitRetire (core : CoreId)
  /-- R370: Crier writes word 0 with V=1; a valid record becomes STAGED, else REFUSED. -/
  | bindStage (clus : ClusId) (slot : Nat) (w0 : Word)
  /-- R370: Crier writes word 0 with V=0, unbinding or pre-empting the slot. -/
  | bindUnbind (clus : ClusId) (slot : Nat)
  /-- R372: A STAGED slot is chosen and starts or restores its team. -/
  | slotStart (clus : ClusId)
  /-- R373: The graph engine checks a graph and computes remaining paths. -/
  | graphLoad (jcb : Nat) (gid : BitVec 48) (desc : Word)
  /-- R323: A bound Churn queue claims a record and starts a template unit. -/
  | churnBoundDispatch (queue : Nat) (core : CoreId)
  /-- R392: The sequencer starts the greatest-SEQ PENDING compensation of a job. -/
  | compensationStart (job : BitVec 32) (core : CoreId)
  /-- R391: A compensation unit ends, marking its record DONE or freezing the activity. -/
  | compensationEnd (core : CoreId)
  /-- R340: The Crier requests removal of a unit; its dump is written. -/
  | removalRequest (core : CoreId)
  /-- R342: After outstanding accesses drain, queues and flags are cleared and the unit retires REMOVED. -/
  | removalRelease (core : CoreId)
  /-- R344: A checker detects a mismatch; recompute, PIPE or failed verdict. -/
  | checkerMismatch (site : Site) (tries : Nat)
  /-- R346: A correctable error is corrected, scrubbed and recorded. -/
  | eccCorrectable (site : Site)
  /-- R347: An uncorrectable error is refetched, poisoned, substituted or fails a verdict. -/
  | eccUncorrectable (site : Site) (bits : BitVec 32)
  /-- R352: A bank's residue verdict is decided before any reading entry completes. -/
  | arrayVerdict (clus : ClusId) (bank : Nat) (pass : Bool)
  /-- R357: A targeted self-test judges a fault transient or lasting. -/
  | selfTest (site : Site) (ref : BitVec 32) (lasting : Bool)
  /-- R359: GO with REQ 0 takes a recovery point of the partition. -/
  | rpctlRecoveryPoint (part : Nat)
  /-- R360: GO with REQ 1 rolls the partition back to its latest point. -/
  | rpctlRollback (part : Nat)
  /-- R404: GO with REQ 2 takes and seals a point and refuses further binds. -/
  | rpctlSeal (part : Nat)
  /-- R404: A recovery request ends: STATUS written, DONE set, host interrupted. -/
  | recoveryRequestEnd (part : Nat)
  /-- R405: The escaped-write log passes its threshold and the Crier takes a recovery point. -/
  | escapedLogThreshold (part : Nat)
  /-- R160: TLBICMD GO with KIND 0 invalidates a page in an ASID. -/
  | tlbiPage (die : Nat) (asid : BitVec 16)
  /-- R160: TLBICMD GO with KIND 1 invalidates an ASID. -/
  | tlbiAsid (die : Nat) (asid : BitVec 16)
  /-- R160: TLBICMD GO with KIND 2 invalidates everything. -/
  | tlbiAll (die : Nat)
  /-- R160: DONE is set once every access that used a dropped entry has completed. -/
  | tlbiDone (die : Nat)
  /-- R25: A CLINT write sets XMSG and MSG in a team context's INTP. -/
  | clintWrite (clus : ClusId) (v : Word)
  /-- R424: REQ=QUIESCE unbinds the cluster's slots and refuses staging. -/
  | clpctlQuiesce (clus : ClusId)
  /-- R421: REQ=RETAIN moves a gated QUIESCED cluster toward RETAINED. -/
  | clpctlRetain (clus : ClusId)
  /-- R421: REQ=OFF turns a gated QUIESCED cluster off. -/
  | clpctlOff (clus : ClusId)
  /-- R421: REQ=RUN returns a QUIESCED cluster to RUN. -/
  | clpctlRun (clus : ClusId)
  /-- R421: The cluster drains and reports QUIESCED with ACK. -/
  | quiescedReached (clus : ClusId)
  /-- R425: The rails settle after 4,096 cycles and the cluster is RETAINED. -/
  | retainedReached (clus : ClusId)
  /-- R421: SAVE copies cluster state into the retention store. -/
  | clretsvSave (clus : ClusId)
  /-- R421: RESTORE copies cluster state back from the retention store. -/
  | clretsvRestore (clus : ClusId)
  /-- R425: A retention save completes and sets RDONE. -/
  | retentionSaveDone (clus : ClusId)
  /-- R421: Sets clock gate, power switches and SRAM mode, when allowed. -/
  | clgateWrite (clus : ClusId) (v : Word)
  /-- R421: Sets core event latches or starts waking a retained or off cluster. -/
  | clwakeWrite (clus : ClusId) (v : Word)
  /-- R421: WAKING ends: rails up, restore done, STATE RUN and ACK set. -/
  | wakeComplete (clus : ClusId)
  /-- R415: Sets a cluster bucket's ramp and target rate. -/
  | clbktWrite (clus : ClusId) (v : Word)
  /-- R419: Sets the package cap; the Crier recomputes targets and may flag CAPFLOOR or CAPUNMET. -/
  | pcapWrite (v : Word)
  /-- R422: An event counter wraps, setting OVF and interrupting if enabled. -/
  | ecntWrap (core : CoreId) (n : Nat)
  /-- R5: A write to a system-page register with no row of its own. -/
  | registerWrite (die : Nat) (off : BitVec 16) (v : Word)
  /-- R400: The host advances SUBRING TAIL; the Crier reads and answers submission records. -/
  | submissionDoorbell (tail : BitVec 16)
  /-- R400: The host advances CRPTR TAIL, releasing waiting completion records. -/
  | completionRingTail (jcb : Nat) (tail : Byte)
  /-- R401: A sideband write of a partition entry, checked for overlap. -/
  | partitionTableWrite (part : Nat) (w0 w1 w2 w3 : Word)
  /-- R402: A sideband write of a safe-tier entry, checked for size and overlap. -/
  | safeTierWrite (part : Nat) (w0 w1 w2 : Word)
  /-- R398: An HTL read request arrives and is served. -/
  | readRequest (port : Nat) (tag : BitVec 12) (addr : BitVec 52) (count : BitVec 9)
  /-- R398: An HTL read completion returns data for a tag. -/
  | readCompletion (port : Nat) (tag : BitVec 12) (stat : Byte) (psn : Bool) (data : List Byte)
  /-- R398: An HTL posted write is performed in SEQ order. -/
  | postedWrite (seq : BitVec 16) (addr : BitVec 52) (psn : Bool) (data : List Byte)
  /-- R399: An HTL interrupt message announces a record to the host. -/
  | interruptMessage
  /-- R398: An HTL durable write is made durable by the receiver. -/
  | durableWrite (seq : BitVec 16) (tag : BitVec 12) (addr : BitVec 52) (psn : Bool) (data : List Byte)
  /-- R398: An HTL durable acknowledgement releases writes held at egress. -/
  | durableAcknowledgement (port : Nat) (tag : BitVec 12) (stat : Byte)
  /-- R396: UCIe CRC failure re-sends a transfer with its tag unchanged. -/
  | linkRetry (port : Nat)
  /-- R395: A die-to-die link out of spare lanes drains and reroutes its traffic. -/
  | dieLinkReroute (a b : Nat)
  /-- R407: A write arriving on a peer port is performed in sender order. -/
  | peerWriteArrival (port : Nat) (addr : BitVec 52) (psn : Bool) (data : List Byte)
  /-- R427: Reset zeroes every HBM sector and starts the boot ROM. -/
  | powerOnReset
  /-- R410: The boot ROM verifies the Crier image and starts it or records failure. -/
  | bootImageVerify (image signature key : List Byte)
  /-- R366: A 1 ms heartbeat lapse makes the standby core take over as Crier. -/
  | crierTakeover
  /-- R411: A sideband request returns a signed attestation report. -/
  | attestationRequest (nonce : List Byte)
  /-- R338: A team's save image has been read back and the team issues again, with BUDGET counting and its power level re-acquired. -/
  | teamRestoreComplete (clus : ClusId)
  /-- R425: A retention-store RESTORE copy finishes and CLRETSV.RESTORE reads 0 again. -/
  | retentionRestoreDone (clus : ClusId)
  /-- R410: Firmware that the Crier loads is verified by its Falcon-1024 signature, and its digest is appended to the write-once measurement log. -/
  | firmwareMeasurement (image signature key : List Byte)
  /-- R64: Engine control word with no effect. -/
  | nop
  /-- R64: Duplicates the top of stack. -/
  | dup
  /-- R64: Pops the top of stack. -/
  | drop
  /-- R64: Exchanges the top two stack entries. -/
  | swap
  /-- R64: Copies the second entry to the top. -/
  | overW
  /-- R64: Rotates the top three stack entries. -/
  | rot
  /-- R210: Pops a value into the engine predicate latch. -/
  | pred
  /-- R223: Pops a slot cycle that times the entry's launch. -/
  | atSlot
  deriving DecidableEq, Repr, Inhabited

end Sys2Proof
end

