-- ==== Sys2Proof/Machine/State.lean ====
section
/-!
DEFINITION. The state of the package as plain data: contexts, cores, clusters, dies and the
package's own tables, each structure in the spec's names. A table is a sparse map (SMap) from
its index, with the default its accessor in Machine/Ops.lean gives.
-/
namespace Sys2Proof.Machine

/-- A number decoded exactly: a NaN, an infinity with its sign, or (-1)^s * m * 2^e (04 R70). -/
inductive Num where
  | nan
  | inf (s : Bool)
  | fin (s : Bool) (m : Nat) (e : Int)
  deriving DecidableEq, Repr, Inhabited

/-- An x register: 64 bits, the poison bit (01 R9), the poison origin (19 R363), a stash address when
`ostash` is set and a virtual address otherwise, and the q.xl dependence tag (06 R128). -/
structure XReg where
  val : Word := 0
  poison : Bool := false
  origin : Word := 0
  ostash : Bool := false
  dep : Bool := false
  deriving DecidableEq, Repr, Inhabited

/-- A loop counter with its hidden companions (05 R105, 17 R336); `armed` orders the active
loops by the time they were armed (R107), `dep` is the q.xl tag of its count (06 R128). -/
structure LoopCtr where
  lc : BitVec 32 := 0
  start : Word := 0
  stop : Word := 0
  n : BitVec 32 := 0
  iter : BitVec 32 := 0
  active : Bool := false
  swp : Bool := false
  stg : BitVec 2 := 0
  rem : BitVec 32 := 0
  pree : Bool := false
  armed : Nat := 0
  dep : Bool := false
  deriving DecidableEq, Repr, Inhabited

/-- Whether a context has a program (06 R141, R142). -/
inductive RunState where
  | off
  | running
  | ended
  deriving DecidableEq, Repr, Inhabited

/-- The identity of a stopped queue (17 R332). -/
structure StopId where
  eng : Eng
  index : BitVec 16
  deriving DecidableEq, Repr, Inhabited

/-- The second save level (17 R330); `crdep` holds the q.xl tags of its registers (06 R128). -/
structure SaveLevel where
  tsave : Word := 0
  tepc : Word := 0
  tval : Word := 0
  tentry : Word := 0
  cause : BitVec 8 := 0
  stopped : Option StopId := none
  entryCycle : Nat := 0
  crdep : SMap Bool := []
  deriving DecidableEq, Repr, Inhabited

/-- The instruction a context is waiting in, with its operands as encoded. -/
inductive Wait where
  | rsend (ring : BitVec 3) (a : BitVec 5)
  | rrecv (ring : BitVec 3) (d : BitVec 5)
  | kwait (k a : BitVec 5)
  | cwait (n : BitVec 3)
  | twait (ready : Bool) (tile : BitVec 6)
  | waitv (d a : BitVec 5)
  | fget (d a : BitVec 5)
  | ftake (d a : BitVec 5)
  | fence (kind : BitVec 3) (scope : BitVec 4)
  | enq (e a b : BitVec 5) (n : BitVec 3)
  | enqs (e a b : BitVec 5) (sent : Nat)
  | efence (e : BitVec 5)
  | lease
  | lrel
  | pacq (level : Byte)
  | chinsw (p : BitVec 3) (q : BitVec 6) (a b : BitVec 5)
  | wfe
  deriving DecidableEq, Repr, Inhabited

/-- A wait in progress: since which cycle, and its place in arrival order (06 R135, 08 R198). -/
structure Waiting where
  what : Wait
  since : Nat
  ticket : Nat
  deriving DecidableEq, Repr, Inhabited

/-- One context (01 R8). `held` marks a context stopped by a pre-emption (17 R335), `budgetDue` a
BUDGET trap that waits for a boundary (21 R376); `stored` the 64 KiB
blocks its stores reached since the last recovery point (08 R183); `crdep` the q.xl tags of its control registers
(06 R128); `pts` its logical clock (07 R166); `intpAt` is one more than the cycle in which its interrupt became pending (01 R23),
`enqsAt` the last cycle in which an ENQS appended words and how many (11 R205). -/
structure Ctx where
  run : RunState := .off
  x : SMap XReg := []
  p : BitVec 8 := 1
  pdep : BitVec 8 := 0
  b : SMap Word := []
  bdep : BitVec 8 := 0
  lc : SMap LoopCtr := []
  armedCount : Nat := 0
  pc : Word := 0
  fctl : Word := 0
  srseed : BitVec 32 := 0
  tstat : Word := 2
  tsave : Word := 0
  tepc : Word := 0
  tval : Word := 0
  tvec : Word := 0
  tscratch : Word := 0
  tentry : Word := 0
  intp : Word := 0
  wthresh : Word := 20000
  latch : Bool := false
  wait : Option Waiting := none
  enqsCount : Nat := 0
  enqsAddr : Option Word := none
  nest : Bool := false
  save2 : SaveLevel := {}
  stopped : Option StopId := none
  entryCycle : Nat := 0
  opSeq : BitVec 16 := 0
  held : Bool := false
  budgetDue : Bool := false
  stored : SMap Bool := []
  crdep : SMap Bool := []
  pts : Nat := 0
  intpAt : Nat := 0
  enqsAt : Nat × Nat := (0, 0)
  deriving DecidableEq, Repr, Inhabited

/-- A ring entry (06 R129). -/
structure RingEntry where
  val : Word
  poison : Bool
  deriving DecidableEq, Repr, Inhabited

/-- A counted semaphore (06 R133). -/
structure Sem where
  count : BitVec 16 := 0
  ovf : Bool := false
  deriving DecidableEq, Repr, Inhabited

/-- Tile states (07 R173, codes of R175). -/
inductive TileSt where
  | empty
  | filling
  | ready
  | draining
  deriving DecidableEq, Repr, Inhabited

/-- A tile-table entry (07 R172). `readers` counts the reading words running on the tile, `writers` the
words that change a READY tile in place (14 R294, 13 R269); `drained` marks an ST.T that completed while readers remained (R173). -/
structure Tile where
  base : BitVec 21 := 0
  pitch : BitVec 16 := 0
  fmt : BitVec 4 := 0
  cols : BitVec 7 := 0
  rows : BitVec 7 := 0
  bound : Bool := false
  st : TileSt := .empty
  readers : Nat := 0
  writers : Nat := 0
  drained : Bool := false
  deriving DecidableEq, Repr, Inhabited

/-- A filled line of a mapped region: the physical address, the class and the home key of its fill, the page-table entry it
came by with its word 0 (07 R169, R171), the times of a coherent one (R166), its owner tag (21 R378). -/
structure MLine where
  held : Bool := false
  pa : Nat := 0
  cls : Nat := 0
  key : Nat := 0
  entry : Nat := 0
  w0 : Nat := 0
  wts : Nat := 0
  rts : Nat := 0
  owner : Byte := 0
  deriving DecidableEq, Repr, Inhabited

/-- A stash-map entry with the lines filled, by line, and for every dirty byte the agent that wrote it: one more than the
code of a context, 4 an engine, 0 none (07 R169, R170, 08 R182). -/
structure MapEntry where
  off : Nat
  va : Word
  len : Nat
  filled : SMap MLine := []
  dirty : SMap Nat := []
  deriving DecidableEq, Repr, Inhabited

/-- A line of a data cache (07 R162) under its line number PA / 128: the class it is held under, its bytes and poison marks at
their physical addresses, for every dirty byte the agent that wrote it (as in MapEntry), the times of a coherent copy
(R166), its home key, the owner tag (21 R378). -/
structure L1Line where
  held : Bool := false
  cls : Nat := 0
  key : Nat := 0
  bytes : SMap Byte := []
  poison : SMap Bool := []
  dirty : SMap Nat := []
  wts : Nat := 0
  rts : Nat := 0
  owner : Byte := 0
  deriving DecidableEq, Repr, Inhabited

/-- A line at its home slice, under its line number (07 R163-R166): its home key, its times, whether HBM is older and whose
store made it so (21 R378), whether it is pinned (R165). -/
structure HomeLine where
  present : Bool := false
  key : Nat := 0
  wts : Nat := 0
  rts : Nat := 0
  dirty : Bool := false
  owner : Byte := 0
  pinned : Bool := false
  deriving DecidableEq, Repr, Inhabited

/-- A leaf found by a walk (07 R155, R156). -/
structure Leaf where
  pa : Nat
  size : Nat
  va : Nat
  cls : Nat
  fmt : BitVec 4
  geom : Nat
  scl : Nat
  w0 : Nat
  entry : Nat
  deriving DecidableEq, Repr, Inhabited

/-- A cached translation with its ASID; the page size is the leaf's (07 R159). -/
structure TlbEnt where
  asid : BitVec 16
  leaf : Leaf
  deriving DecidableEq, Repr, Inhabited

/-- A cached pointer entry: its ASID, its address, the virtual range it covers and the table it names (07 R159). -/
structure PtrEnt where
  asid : BitVec 16
  entry : Nat
  va : Nat
  cover : Nat
  table : Nat
  deriving DecidableEq, Repr, Inhabited

/-- What a launch word captures from its feeding context (11 R217). -/
structure Modes where
  rm : BitVec 3 := 0
  ftz : Bool := false
  seed : BitVec 32 := 0
  brkt : Bool := false
  super : Bool := false
  deriving DecidableEq, Repr, Inhabited

/-- A word in a queue; `poisonAt` is the address of a script word that carried a mark (11 R205), `came` the cycle in which it was
enqueued (14 R296). -/
structure QWord where
  w : BitVec 16
  modes : Modes
  poisonAt : Option Word := none
  came : Nat := 0
  deriving DecidableEq, Repr, Inhabited

/-- What a completion does to a tile (07 R173). -/
inductive TileAct where
  | filled
  | drained (keep : Bool)
  | readDone
  | writeDone
  deriving DecidableEq, Repr, Inhabited

/-- The launch a queue is inside of: its popped operands, its progress, the flags gathered, the
tiles it has moved, the arrival number of a CCHINS that waits for room (15 R312), the position of its
launch word (03 R68), what it has read of the step at which it stopped and how much of that it has written (07 R161), the cycles
it has waited for room and since when it waits for it (11 R233), the cycle in which its launch word was enqueued, the launch
of its queue that started before it: index, code, top operand, cycle (14 R296); its charge weight (24 R413), the multicast windows
that an MCAST took at its start (08 R188), and the parameter stack, with its marks, before the entry's first word (17 R334). -/
structure Entry where
  opc : BitVec 7
  lf : BitVec 6
  nullified : Bool
  ops : List Word
  prog : Nat
  flags : Word
  modes : Modes
  index : BitVec 16
  startAt : Nat
  tiles : List (CoreId × BitVec 6 × TileAct) := []
  ticket : Nat := 0
  pos : Nat := 0
  kept : List (Nat × Bool) := []
  given : Nat := 0
  waited : Nat := 0
  since : Option Nat := none
  arrived : Nat := 0
  after : Option (BitVec 16 × BitVec 7 × Word × Nat) := none
  weight : Nat := 0
  wins : Option (List Word) := none
  stack0 : List Word := []
  marks0 : BitVec 8 := 0
  deriving DecidableEq, Repr, Inhabited

/-- An accumulator bank: word (i, j) at 128 i + j (12 R234). `parts` holds partial p = 1, 2, 3 of element
(i, j) at 16384 p + 128 i + j while the fold holds it (R239, R240). -/
structure Bank where
  w : SMap (BitVec 32) := []
  dirty : Bool := false
  int : Bool := false
  fold : BitVec 2 := 0
  parts : SMap (Option (BitVec 32)) := []
  deriving DecidableEq, Repr, Inhabited

/-- A drain that commits its rows after its occupancy (12 R243, R251): the entry with its progress, and the bank as it was read. -/
structure Late where
  en : Entry
  bank : Bank
  deriving DecidableEq, Repr, Inhabited

/-- A launched entry awaiting its completion (11 R212, 12 R243); `late` is what it has still to commit. -/
structure Running where
  index : BitVec 16
  opc : BitVec 7
  startAt : Nat
  doneAt : Nat
  completeAt : Nat
  weight : Nat
  flags : Word
  pushes : List Eng
  sigks : List (BitVec 5)
  tiles : List (CoreId × BitVec 6 × TileAct)
  banks : List Nat
  draws : List Nat := []
  late : Option Late := none
  deriving DecidableEq, Repr, Inhabited

/-- An entry of a command window (11 R219), with the rows an accumulating drain committed
(18 R353) and whether one of its words carries a mark (R345). -/
structure WinEntry where
  entry : Entry
  committed : List Nat := []
  brk : Option Word := none
  bad : Bool := false
  deriving DecidableEq, Repr, Inhabited

/-- What a resumed entry does (17 R333). -/
inductive Resume where
  | fresh
  | untimed
  | goOn
  | completeOnly
  | replay
  deriving DecidableEq, Repr, Inhabited

/-- An engine trap (17 R326, R329). `taken` is set once the feeding context has entered its
handler; `resume` tells what a resumed entry does (R333). -/
structure Stop where
  cause : BitVec 8
  tval : Word
  index : BitVec 16
  since : Nat
  taken : Bool := false
  resume : Resume := .fresh
  deriving DecidableEq, Repr, Inhabited

/-- What an engine's control words set, and the stack with the marks of its entries, bit 0 the top's (11 R210, 18 R345). -/
structure EngSet where
  stack : List Word := []
  marks : BitVec 8 := 0
  latch : Bool := true
  up : BitVec 3 := 7
  down : BitVec 3 := 7
  mark : BitVec 10 := 0
  deriving DecidableEq, Repr, Inhabited

/-- One engine queue with its engine (11 R201-R224). `pos` is the next word of the head entry, `set0` the
settings before it; `headIdx` the index of the entry at the head; `waiting` and `tileSince` tell that it
waits, and since when on the state of a tile (06 R148), `waitTicket` one more than its place among the waits on a semaphore (06
R135); `wordAt` the cycle of the last non-launch word and how many ran in it; `lastEnd` the end of the last launch's occupancy,
`lastStart` the launch that started last, as in Entry.after; `charge` since when it waits on charge and for what weight (24 R414);
`mismatch` a check that failed three times on an engine other than the array and has not stopped it yet (18 R344); `redo` tells
that the command window is to be replayed, `redoFrom` where a replay stopped or waits (17 R333); `pts` is the logical clock of the
engine (07 R166). -/
structure Queue where
  words : List QWord := []
  set : EngSet := {}
  enqIdx : BitVec 16 := 0
  headIdx : BitVec 16 := 0
  pos : Nat := 0
  set0 : EngSet := {}
  headSince : Nat := 0
  waitks : List (BitVec 5 × Word) := []
  sigks : List (BitVec 5) := []
  slot : Option Word := none
  untimed : Bool := false
  waiting : Bool := false
  tileSince : Option Nat := none
  entry : Option Entry := none
  running : List Running := []
  stop : Option Stop := none
  window : List WinEntry := []
  winStack : List Word := []
  replays : Nat := 0
  redo : Bool := false
  redoFrom : Option Entry := none
  lastSlot : Option Nat := none
  lastStart : Option (BitVec 16 × BitVec 7 × Word × Nat) := none
  opSeq : BitVec 16 := 0
  lastEnd : Nat := 0
  charge : Option (Nat × Nat) := none
  waitTicket : Nat := 0
  pts : Nat := 0
  wordAt : Nat × Nat := (0, 0)
  mismatch : Bool := false
  deriving DecidableEq, Repr, Inhabited

/-- A vector element: bits and poison (14 R278); `code` is one more than the code of an element of a tagged block whose value
FP32 cannot hold (14 R288). -/
structure VElt where
  bits : BitVec 32 := 0
  poison : Bool := false
  code : Nat := 0
  deriving DecidableEq, Repr, Inhabited

/-- The tag of a vector register: format code and tagged extents (14 R278). -/
structure VTag where
  fmt : BitVec 4 := 0
  tr : Nat := 0
  tc : Nat := 0
  deriving DecidableEq, Repr, Inhabited

/-- The vector engine's registers: element (i, j) of register r at 1024 r + 32 i + j, scale b of
register r at 64 r + b (14 R278). -/
structure Vec where
  elts : SMap VElt := []
  tags : SMap VTag := []
  scales : SMap (BitVec 16) := []
  rows : Nat := 32
  cols : Nat := 32
  deriving DecidableEq, Repr, Inhabited

/-- An entry of the row engine's statistics file (14 R293). -/
structure Stat where
  m : BitVec 32 := 0
  mPoison : Bool := false
  s : BitVec 32 := 0
  sPoison : Bool := false
  deriving DecidableEq, Repr, Inhabited

/-- What a park area and a window shadow hold: the banks, the factorisation registers (13 R257;
`pvec` holds PVEC[j] XOR j) and the status (12 R253); the banks whose verdict has failed, and the array row of a mismatch whose replay
has written no record yet (18 R352, R357). -/
structure ArrayImg where
  bank0 : Bank := {}
  bank1 : Bank := {}
  pvec : SMap (BitVec 8) := []
  grow : Word := 0
  brk : Word := 0
  fprog : BitVec 8 := 0
  opz : Bool := false
  subn : BitVec 32 := 0
  subv : Bool := false
  subop : Bool := false
  subr : BitVec 7 := 0
  subc : BitVec 7 := 0
  subent : BitVec 16 := 0
  verdictFail : BitVec 2 := 0
  peFail : Option Nat := none
  deriving DecidableEq, Repr, Inhabited

/-- The held operand (12 R234, 18 R355): element (k, j) of B as read at 128 k + j, those that lie in a zero
block (R241), and the rank and tile it was read from. -/
structure Held where
  fmt : BitVec 4
  k : Nat
  n : Nat
  vals : SMap Num
  zeros : SMap Bool
  rank : Nat
  tile : BitVec 6
  trans : Bool
  deriving DecidableEq, Repr, Inhabited

/-- A result-buffer row of an entry, and the cycle at which it lands; until then its words and their poison (12 R255), and for a row
that accumulates the bank whose verdict it waits for (12 R251). -/
structure Landing where
  index : BitVec 16 := 0
  row : Nat
  cycle : Nat
  bits : List (BitVec 32) := []
  poison : List Bool := []
  bank : Option Nat := none
  deriving DecidableEq, Repr, Inhabited

/-- What a unit knows of its launch (06 R138, R145). `uid` numbers the units in the order in which they started; `churn` names
the Churn record a bound unit was started for: its queue, its header, its age (15 R323). -/
structure UnitInfo where
  uid : Nat := 0
  lcid : Nat := 0
  teamId : Nat := 0
  rank : Nat := 0
  lid : BitVec 48 := 0
  lcnt : Word := 0
  cancelled : Bool := false
  removed : Bool := false
  comp : Option Word := none
  churn : Option (Nat × Word × Nat) := none
  deriving DecidableEq, Repr, Inhabited

/-- A link of a removal's cause chain (17 R341). -/
structure Link where
  cause : Byte
  src : Byte
  entry : BitVec 16
  pc : Word
  val : Word
  time : Nat
  deriving DecidableEq, Repr, Inhabited

/-- A removal in progress (17 R340-R342). -/
structure Removal where
  links : List Link
  overflow : Bool
  since : Nat
  deriving DecidableEq, Repr, Inhabited

/-- One control core with its engines. `l1` is its data cache (07 R162), `tlb` its L1 TLB (R159), `stashPts` the clock of its
mapped stash, `engWts` the largest time that its engines' accesses took up to an edge and `sigPts` that of its contexts at a KSIG (R166,
08 R186). `leaseDue` is the LEASE trap of its next MX entry, `reask` its
request for the array while MXQ holds a launch, `unpark` tells that its parked array comes back at its next lease (11 R221, R222).
`moved` is the cycle and the place in it of its last move (06 R135), `ringTook` the cycle of the last removal from a ring and how many
there were in it (06 R130), `bundleAt` one more than the cycle of the last bundle counted (24 R422). -/
structure Core where
  unit : Option UnitInfo := none
  retired : Bool := false
  ctxL : Ctx := {}
  ctxX : Ctx := {}
  ctxS : Ctx := {}
  rings : SMap (List RingEntry) := []
  sems : SMap Sem := []
  stash : SMap Byte := []
  stashPoison : SMap Bool := []
  stashWritten : SMap Bool := []
  maps : List MapEntry := []
  l1 : SMap L1Line := []
  tlb : List TlbEnt := []
  stashPts : Nat := 0
  engWts : Nat := 0
  sigPts : Nat := 0
  tiles : SMap Tile := []
  qLd : Queue := { set := { up := 5, down := 2 }, set0 := { up := 5, down := 2 } }
  qSt : Queue := { set := { up := 2, down := 7 }, set0 := { up := 2, down := 7 } }
  qMx : Queue := { set := { up := 0, down := 1 }, set0 := { up := 0, down := 1 } }
  qVx : Queue := { set := { up := 0, down := 1 }, set0 := { up := 0, down := 1 } }
  qRw : Queue := { set := { up := 3, down := 1 }, set0 := { up := 3, down := 1 } }
  qCp : Queue := { set := { up := 7, down := 0 }, set0 := { up := 7, down := 0 } }
  fifos : SMap Nat := []
  vec : Vec := {}
  stats : SMap Stat := []
  slotLen : Byte := 0
  rbuf : SMap (BitVec 32) := []
  rbufPoison : SMap Bool := []
  landings : List Landing := []
  park : ArrayImg := {}
  revk : Bool := false
  leaseDue : Bool := false
  reask : Bool := false
  unpark : Bool := false
  moved : Nat × Nat := (0, 0)
  ringTook : SMap (Nat × Nat) := []
  bundleAt : Nat := 0
  shadow : Option ArrayImg := none
  ecnt : SMap Word := []
  esel : SMap Word := []
  plevel : Byte := 0
  pdecl : Byte := 0
  removal : Option Removal := none
  deriving DecidableEq, Repr, Inhabited

/-- A cluster barrier (06 R136). -/
structure Barrier where
  g : BitVec 32 := 0
  a : BitVec 4 := 0
  t : SMap (BitVec 32) := []
  deriving DecidableEq, Repr, Inhabited

/-- Why a team is being swapped out (17 R335). -/
inductive SwapWhy where
  | wait
  | yield
  | budget
  | slice
  | request
  | retire
  deriving DecidableEq, Repr, Inhabited

/-- A pre-emption request (17 R335, R337). -/
structure Preempt where
  since : Nat
  why : SwapWhy
  unbind : Bool := false
  deriving DecidableEq, Repr, Inhabited

/-- The team of a bind record (21 R369, R372). `due` is a pre-emption decided and not yet requested
(R375), `since` the cycle of its restore's start, `slot` its slot (2 for a team bound by no record). -/
structure Team where
  job : BitVec 32 := 0
  jcb : Nat := 0
  asid : BitVec 16 := 0
  root : Nat := 0
  part : Nat := 0
  super : Bool := false
  lid : BitVec 48 := 0
  lcntPa : Nat := 0
  lcntVa : Word := 0
  desc : Word := 0
  index : Nat := 0
  size : Nat := 1
  grid : Nat := 1
  det : Bool := false
  seed : BitVec 32 := 0
  save : Nat := 0
  vclus : Nat := 0
  acct : Byte := 0
  graph : Option (BitVec 48 × Nat) := none
  bud : BitVec 32 := 0
  rem : BitVec 32 := 0
  deadline : Word := 0
  sliceEnd : Nat := 0
  swappable : Bool := false
  sliceDone : Bool := false
  budgeted : Bool := false
  preempt : Option Preempt := none
  due : Option SwapWhy := none
  restoring : Bool := false
  since : Nat := 0
  slot : Nat := 0
  lastSave : Nat := 52800
  lastRestore : Nat := 52800
  deriving DecidableEq, Repr, Inhabited

/-- Slot states (21 R369). -/
inductive SlotSt where
  | free
  | staged
  | running
  deriving DecidableEq, Repr, Inhabited

/-- A bind record with its state (21 R369, R370) and the last save and restore times of its team
in cycles (17 R339; 33 µs is 52,800 cycles). `undo` holds what stood at the launch counter that its staging cleared: the words with
their marks (25 R424). -/
structure Slot where
  w : SMap Word := []
  st : SlotSt := .free
  stagedAt : Nat := 0
  lastSave : Nat := 52800
  lastRestore : Nat := 52800
  undo : List (Nat × List Byte × Bool) := []
  deriving DecidableEq, Repr, Inhabited

/-- Cluster power states (24 R420). -/
inductive PowerSt where
  | run
  | quiesced
  | retained
  | off
  | waking
  deriving DecidableEq, Repr, Inhabited

/-- The retention store of a cluster (24 R421). -/
structure Retention where
  mcwin : SMap Word := []
  ramp : BitVec 16 := 0
  tgt : Byte := 0
  rate : Byte := 0
  ecnt : SMap Word := []
  esel : SMap Word := []
  deriving DecidableEq, Repr, Inhabited

/-- A waiting PACQ, or the request of a restored team, with the cycle it was made in (24 R416). -/
structure PowerReq where
  rank : Nat
  level : Byte
  kind : CtxKind := .exec
  restore : Bool := false
  cycle : Nat := 0
  deriving DecidableEq, Repr, Inhabited

/-- A piece of MCAST on its way to an open window: the cycle it is written in, the rank, the offset in its
stash, the bytes with their marks (15 R308, 08 R190). -/
structure McPiece where
  cycle : Nat
  rank : Nat
  off : Nat
  bytes : List (Nat × Bool)
  deriving DecidableEq, Repr, Inhabited

/-- One cluster. `tlb` is its cluster TLB (07 R159), `wbuf` the write buffer of its network (08 R179). `peTests`
holds for an array row one more than the SEQ of the record that implicated it (R357). `woken` tells that a WAKING cluster's rails are up (24 R421, 25 R425). -/
structure Cluster where
  slot0 : Slot := {}
  slot1 : Slot := {}
  team : Option Team := none
  barriers : SMap Barrier := []
  leaseHolder : Option Nat := none
  leaseReqs : List Nat := []
  lastHolder : Nat := 3
  leaseLaunches : Nat := 0
  leaseAt : Nat := 0
  region : Option Int := none
  array : ArrayImg := {}
  held : Option Held := none
  peTests : SMap Nat := []
  mcwin : SMap Word := []
  mcPieces : List McPiece := []
  req : BitVec 2 := 0
  ack : Bool := false
  busySince : Option Nat := none
  power : PowerSt := .run
  rdone : Bool := false
  restoring : Bool := false
  saving : Bool := false
  woken : Bool := false
  gate : BitVec 6 := 0
  wmask : BitVec 3 := 7
  heldWake : Bool := false
  store : Retention := {}
  level : Int := 4096
  rate : Byte := 0
  tgt : Byte := 0
  ramp : BitVec 16 := 64
  rampAt : Nat := 0
  rsv : Byte := 0
  pacq : List PowerReq := []
  ecnt : SMap Word := []
  esel : SMap Word := []
  tlb : List TlbEnt := []
  wbuf : SMap L1Line := []
  deriving DecidableEq, Repr, Inhabited

/-- A compensation record (22 R383) with its slot. -/
structure LaRec where
  slot : Nat := 0
  seq : Word
  laid : Word
  entry : Word
  args : List Byte
  running : Bool := false
  done : Bool := false
  skip : Bool := false
  fail : Byte := 0
  step : BitVec 16
  job : BitVec 32
  lcid : Nat
  sw : Word
  deriving DecidableEq, Repr, Inhabited

/-- One die: its system page and its logs. `tlbCmd` is the invalidation in progress: its kind, ASID and address (07 R160);
`walks` are the pointer entries its walk unit caches (R159); `due` the self-tests that are due: the part, the record that
implicated it, its code (18 R357); the lanes spared of a link stand at its lower die under the higher (18 R358). -/
structure Die where
  tlbiva : Word := 0
  tlbKind : BitVec 2 := 0
  tlbAsid : BitVec 16 := 0
  tlbDone : Bool := true
  tlbCmd : Option (BitVec 2 × BitVec 16 × Word) := none
  walks : List PtrEnt := []
  elbase : Word := 0
  elTail : BitVec 16 := 0
  elHead : BitVec 16 := 0
  elDrops : BitVec 16 := 0
  elctl : Byte := 0
  elLost : Bool := false
  errSeq : BitVec 32 := 0
  derbase : Word := 0
  derTail : BitVec 16 := 0
  derHead : BitVec 16 := 0
  derDrops : BitVec 16 := 0
  lasbase : Word := 0
  las : List LaRec := []
  remap : SMap Word := []
  accounts : SMap Word := []
  ecnt : SMap Word := []
  esel : SMap Word := []
  corrected : SMap Nat := []
  due : List (Site × BitVec 32 × Nat) := []
  spareRows : SMap Nat := []
  waysOff : SMap Nat := []
  channelsOff : SMap Bool := []
  clusOff : SMap Bool := []
  lanesUsed : SMap Nat := []
  reroute : SMap Nat := []
  deriving DecidableEq, Repr, Inhabited

/-- Churn record states (15 R318). -/
inductive ChurnSt where
  | free
  | waiting
  | claimed
  deriving DecidableEq, Repr, Inhabited

/-- A Churn record slot (15 R318). -/
structure ChurnRec where
  st : ChurnSt := .free
  key : Word := 0
  payload : List Byte := []
  nins : Nat := 0
  ovf : Bool := false
  age : Nat := 0
  gen : BitVec 15 := 0
  deriving DecidableEq, Repr, Inhabited

/-- A record that a bound queue has claimed and for which it has asked dispatch for a unit: the header, the key, the payload, the
age (15 R323). -/
structure ChurnAsk where
  header : Word
  key : Word
  payload : List Byte
  age : Nat
  deriving DecidableEq, Repr, Inhabited

/-- A Churn queue (15 R315-R323). `asked` are the units it has asked for and that have not started, oldest first; `inFlight` counts
them with those that run. -/
structure Churn where
  owner : Option (BitVec 32) := none
  en : Bool := false
  conc : Nat := 0
  bind : Bool := false
  cap : Nat := 0
  opr : BitVec 4 := 0
  psz : Nat := 0
  kw : Bool := false
  templ : Word := 0
  rej : BitVec 16 := 0
  drops : BitVec 16 := 0
  ages : Nat := 0
  inFlight : Nat := 0
  asked : List ChurnAsk := []
  recs : SMap ChurnRec := []
  deriving DecidableEq, Repr, Inhabited

/-- Phases of a long activity (22 R379). -/
inductive LaPhase where
  | opened
  | committed
  | abandoning
  | abandoned
  | frozen
  | halted
  deriving DecidableEq, Repr, Inhabited

/-- An activity in the step sequencer's table (22 R380, R381); `swKey` is the home key of its state word's line, `uid` the number of the
unit it belongs to (R379). -/
structure Activity where
  laid : Word
  sw : Word
  swPa : Nat
  swKey : Nat := 0
  job : BitVec 32
  lid : BitVec 48
  lcid : Nat
  uid : Nat := 0
  phase : LaPhase := .opened
  steps : BitVec 16 := 0
  done : BitVec 16 := 0
  fail : Byte := 0
  deriving DecidableEq, Repr, Inhabited

/-- A job the Crier has admitted (23 R400). -/
structure Job where
  id : BitVec 32
  part : Nat
  super : Bool
  jcb : Nat
  plist : Word := 0
  dl : Word := 0
  phase : Nat := 0
  cancelled : Bool := false
  cancelPhases : List Nat := []
  deriving DecidableEq, Repr, Inhabited

/-- A node of a loaded graph (21 R373). -/
structure GNode where
  desc : Word
  w : Nat
  succ : List Nat
  preds : Nat
  rp : Nat := 0
  teams : Nat := 1
  started : Nat := 0
  retired : Bool := false
  deriving DecidableEq, Repr, Inhabited

/-- A graph loaded into the graph engine (21 R373, R374). -/
structure Graph where
  gid : BitVec 48
  jcb : Nat
  job : BitVec 32
  gcb : Nat
  sink : Nat
  nodes : List GNode
  cancelled : Bool := false
  removed : Bool := false
  deriving DecidableEq, Repr, Inhabited

/-- A team saved in its save area (17 R338), with the cluster it was saved on (01 R24). -/
structure Saved where
  home : Nat := 0
  team : Team
  cores : List Core
  barriers : SMap Barrier
  mcwin : SMap Word
  deriving DecidableEq, Repr, Inhabited

/-- A partition entry (23 R401). -/
structure Partition where
  v : Bool := false
  vclo : BitVec 32 := 0
  vchi : Word := 0
  peers : BitVec 16 := 0
  hlim : BitVec 9 := 0
  hbase : BitVec 9 := 0
  floor : BitVec 16 := 0
  deriving DecidableEq, Repr, Inhabited

/-- What a recovery point holds of its partition (18 R359, 23 R403). -/
structure Point where
  mem : SMap Byte := []
  poison : SMap Bool := []
  saved : SMap Saved := []
  churn : SMap Churn := []
  las : List (Nat × List LaRec) := []
  acts : List Activity := []
  deriving DecidableEq, Repr, Inhabited

/-- The contents of a 64 KiB block that FENCE.pers made durable (08 R183). -/
structure PageImg where
  mem : SMap Byte := []
  poison : SMap Bool := []
  deriving DecidableEq, Repr, Inhabited

/-- An entry of the escaped-write log (18 R360). -/
structure EscEntry where
  pa : Nat
  len : Nat
  dest : Nat
  peer : Nat
  lcid : Nat
  launch : Nat
  cyc : Nat
  deriving DecidableEq, Repr, Inhabited

/-- What waits at the egress for its log entry (23 R397, R399, R405, R406): a write to the host or to a peer, an
interrupt message, or nothing more (what the entry records is in its place already). -/
inductive Leaving where
  | host (off : Nat) (psn : Bool) (bytes : List Byte)
  | peer (port off : Nat) (psn : Bool) (bytes : List Byte)
  | intr (bytes : List Byte)
  | placed
  deriving DecidableEq, Repr, Inhabited

/-- What the host memory of a safe tier holds (23 R403): the directory with the number of the latest committed point and that of a
sealed point; the image area; the journal with that point, while its copy into the image area has not finished; the pages made durable
after it; the live part of the escaped-write log. Addresses are relative to the partition's range. -/
structure TierStore where
  point : BitVec 32 := 0
  sealedPt : Option (BitVec 32) := none
  image : Option Point := none
  journal : Option Point := none
  persisted : List (Nat × PageImg) := []
  log : List EscEntry := []
  logNext : Nat := 0
  deriving DecidableEq, Repr, Inhabited

/-- A safe-tier entry with its recovery register (23 R402, R404). `doing` is the request that GO started, `acting` marks a point or rollback under way,
`isSealed` a partition that is refused every bind record; `stalled` are writes that wait for room in the log (R405); `stopped` names the save areas of the teams a
point stopped (18 R359). -/
structure Tier where
  v : Bool := false
  base : BitVec 28 := 0
  size : BitVec 28 := 0
  rate : BitVec 16 := 0
  status : BitVec 4 := 0
  done : Bool := true
  req : BitVec 2 := 0
  doing : BitVec 2 := 0
  acting : Bool := false
  isSealed : Bool := false
  stalled : List (EscEntry × Leaving) := []
  stopped : List Nat := []
  deriving DecidableEq, Repr, Inhabited

/-- A launch bound alone, from its first staged record until it retires (21 R371, 06 R146). -/
structure Launch where
  lid : BitVec 48
  job : BitVec 32
  grid : Nat
  size : Nat
  counter : Nat
  started : List Nat := []
  cancelled : Bool := false
  deriving DecidableEq, Repr, Inhabited

/-- What leaves the package on the host link (port 16), its sideband or a peer port (23 R396-R399, R405, R406). -/
inductive Egress where
  | interrupt (bytes : List Byte)
  | hostWrite (seq : BitVec 16) (addr : Nat) (psn : Bool) (bytes : List Byte)
  | durableWrite (seq : BitVec 16) (tag : BitVec 12) (addr : Nat) (bytes : List Byte)
  | peerWrite (port addr : Nat) (psn : Bool) (bytes : List Byte)
  | readRequest (port : Nat) (tag : BitVec 12) (addr count : Nat)
  | sideband (die off : Nat) (value : Word)
  | readDone (port : Nat) (tag : BitVec 12) (stat : Byte) (psn : Bool) (bytes : List Byte)
  | durableAck (tag : BitVec 12) (stat : Byte)
  | report (bytes : List Byte)
  deriving DecidableEq, Repr, Inhabited

/-- An operation kept against repetition: source, sequence number, returned value (08 R195). -/
structure OpTag where
  source : Nat
  seq : BitVec 16
  value : Word
  deriving DecidableEq, Repr, Inhabited

/-- A posted or durable write that arrived before its turn (23 R398). -/
structure HeldWrite where
  seq : BitVec 16
  tag : Option (BitVec 12)
  addr : BitVec 52
  psn : Bool
  bytes : List Byte
  deriving DecidableEq, Repr, Inhabited

/-- The host link: write sequence numbers, the tags of durable writes and of read requests, writes held for their turn, writes held at the egress under the tag of
their log entry and the tags acknowledged out of turn, what has left, completion records and interrupt messages that wait, the ports whose
writes are not acknowledged yet, 16 the host's, the reads outstanding (port, tag, address) and those that wait for a tag (port,
address, bytes) (23 R398-R400, R405, R407; 08 R179). -/
structure Link2 where
  nextIn : BitVec 16 := 0
  nextOut : BitVec 16 := 0
  nextTag : BitVec 12 := 0
  nextRead : BitVec 12 := 0
  heldIn : List HeldWrite := []
  heldOut : List (BitVec 12 × Leaving) := []
  acked : List (BitVec 12) := []
  egress : List Egress := []
  pendingRecords : List (Nat × List Byte) := []
  intrs : List (List Byte) := []
  unacked : List Nat := []
  reads : List (Nat × BitVec 12 × Nat) := []
  readsHeld : List (Nat × Nat × Nat) := []
  deriving DecidableEq, Repr, Inhabited

/-- A move of the machine: a context issues, an engine runs a word, an event happens, or the sideband reads a register of a
system page. -/
inductive Move where
  | ctx (c : CtxId)
  | eng (c : CoreId) (e : Eng)
  | event (i : Instr)
  | sideband (die off : Nat)
  deriving DecidableEq, Repr, Inhabited

/-- An entry of a job's event log: the copy of a dispatch event (21 R371), the two values of SLICEFLOOR (17 R339), a failed
compensation (22 R394), a removal without a dump slot (17 R341). -/
inductive JobNote where
  | slot (record : List Byte)
  | sliceFloor (floor programmed : Nat)
  | compFail (seq : Word)
  | removal (index : Nat)
  deriving DecidableEq, Repr, Inhabited

/-- Package-wide tables (18, 21-24). `home` holds the lines at the home slices, `mts` the floor of each slice and `pubs` the
largest write time published at each unit of a scope (07 R165, R166, 08 R182). `clocks` holds the logical clocks of the peer ports
(0-15), of the host (16), of the dispatch hardware (17) and of the step sequencer (18), in whose order their writes are performed (23
R397, R407; 21 R368; 22 R380). `units` counts the units that have started; `pages` holds, by job, the 64 KiB pages of the counters of
its graphs that have retired (06 R145). `far` holds the bytes of the host and of the peers as the package wrote or read them last, and
`farMarks` the marks of their words (01 R29). `stores` holds the contents of the safe tiers by BASE; `images` holds the tile bindings of the launch image that a
loader placed with the descriptor at a physical address (02 R48). `wraps` marks the cluster and die counters whose wrap has interrupted the
Crier: counter k of die d at 1,024 d + 992 + k, of cluster c at 1,024 d + 32 c + k (24 R422). -/
structure Package where
  parts : SMap Partition := []
  tiers : SMap Tier := []
  stores : SMap TierStore := []
  pcap : BitVec 16 := 1800
  capUnmet : Bool := false
  capFloor : Bool := false
  subbase : Word := 0
  subTail : BitVec 16 := 0
  subHead : BitVec 16 := 0
  bootFail : BitVec 4 := 0
  bootStage : BitVec 4 := 0
  measurements : List (List Byte) := []
  crierDie : Nat := 0
  churn : SMap Churn := []
  seq : Word := 1
  acts : List Activity := []
  jobs : List Job := []
  graphs : List Graph := []
  saved : SMap Saved := []
  launches : List Launch := []
  images : SMap (SMap Tile) := []
  jobLog : List (BitVec 32 × JobNote) := []
  opTags : List OpTag := []
  link : Link2 := {}
  dirty64k : SMap Bool := []
  home : SMap HomeLine := []
  mts : SMap Nat := []
  pubs : SMap Nat := []
  clocks : SMap Nat := []
  wraps : SMap Bool := []
  units : Nat := 0
  pages : List (BitVec 32 × Nat) := []
  far : SMap (Option Byte) := []
  farMarks : SMap (Option Bool) := []
  deriving DecidableEq, Repr, Inhabited

/-- The whole machine. `tick` counts the free values consumed, `ticket` orders arrivals,
`agenda` says which moves come next, `cur` and `curEng` name the agent that is moving. `pace` bounds what a word of the copy engine does
in one move: one more than the pieces it may still move, 0 for no bound (15 R300). -/
structure State where
  cyc : Word := 0
  tick : Nat := 0
  ticket : Nat := 0
  agenda : List Move := []
  cur : CtxId := ⟨⟨0, 0, 0⟩, .exec⟩
  curEng : Eng := .vx
  pace : Nat := 0
  mem : SMap Byte := []
  memPoison : SMap Bool := []
  cores : SMap Core := []
  clusters : SMap Cluster := []
  dies : SMap Die := []
  pkg : Package := {}
  deriving DecidableEq, Repr, Inhabited

/-- Reasons the machine stops with a fault. None of the spec's faults stops the machine (each is a
trap, a record or a removal), so only an agenda that names an agent the package does not have
(R1: a die above 3, a cluster above 24, a rank above 3) ends here. SAFE: nothing runs there. -/
inductive Fault where
  | noSuchAgent
  deriving DecidableEq, Repr, Inhabited

/-- Reasons the machine refuses. `notModelled` is raised only by an arm of Dispatch that has no
meaning yet; SAFE. -/
inductive Refusal where
  | notModelled (mnemonic : String)
  deriving DecidableEq, Repr, Inhabited

/-- The package right after power-on reset: memory reads as zero, clean (07 R427), every table
at the value its register map gives, every context without a program and in mode 1 (01 R15),
CYC 0, the step sequencer at 1 (22 R380). -/
def State.reset : State := {}

end Sys2Proof.Machine
end

