-- ==== Sys2Proof/Machine/Flags.lean ====
section
/-!
DEFINITION. The sticky flags at their FCTL positions and what FCTL says of a scalar operation
(01 R12-R14; 04 R85).
-/
namespace Sys2Proof.Machine

/-- Flags travel as a mask in FCTL's bit positions (R12). -/
def flNV : Word := 0x100
def flDZ : Word := 0x200
def flOF : Word := 0x400
def flUF : Word := 0x800
def flNX : Word := 0x1000
def flSQOF : Word := 0x2000
def flSQUF : Word := 0x4000
def flSAT : Word := 0x8000
def flBRKF : Word := 0x10000

/-- A mask when a condition holds. -/
def flagIf (c : Bool) (f : Word) : Word := if c then f else 0

/-- FCTL.RM (R12). -/
def fctlRm (f : Word) : BitVec 3 := f.extractLsb' 0 3
/-- FCTL.FTZ. -/
def fctlFtz (f : Word) : Bool := f.getLsbD 3
/-- FCTL.SSEL. -/
def fctlSsel (f : Word) : Bool := f.getLsbD 4
/-- FCTL.BRKT. -/
def fctlBrkt (f : Word) : Bool := f.getLsbD 5

/-- The flags whose trap enable is 1: TENV..TENX in [28:24] stand for NV..NX in [12:8]
(R12, R14). -/
def fctlEnabled (f : Word) : Word := (f >>> 16) &&& 0x1F00

/-- R14: an operation that would set a flag whose enable is 1 raises FPE. -/
def raisesFpe (fctl flags : Word) : Bool := (fctlEnabled fctl &&& flags) != 0

/-- R13: a written FCTL is refused with a reserved field nonzero or RM in 5-7. -/
def fctlValid (v : Word) : Bool := (v &&& 0xFFFFFFFFE0FE00C0#64) == 0 && (v.extractLsb' 0 3).toNat ≤ 4

end Sys2Proof.Machine
end

