-- ==== Sys2Proof/Config.lean ====
section
/-!
DEFINITION. What the spec leaves to the device or to its surroundings: constants without a
body, so that nothing proved about the model can rest on a value of them. Log entries 1-9.
-/
namespace Sys2Proof

/-- DESIGN CHOICE (log 1): the cycles of the arithmetic clock that pass after the n-th step.
The spec's latencies change timing only (R126, R168, R182). -/
opaque Config.cycles : Nat → Nat

/-- DESIGN CHOICE (log 2): which context issues next when the agenda is empty. -/
opaque Config.nextCtx : Nat → CtxId

/-- DESIGN CHOICE (log 2): which engine runs next when the agenda is empty. -/
opaque Config.nextEng : Nat → CoreId × Eng

/-- DESIGN CHOICE (log 2): which event comes next when the agenda is empty. -/
opaque Config.nextEvent : Nat → Instr

/-- DESIGN CHOICE (log 2): which register of a die's system page the sideband reads next when the agenda is empty. -/
opaque Config.nextPage : Nat → Nat × Nat

/-- DESIGN CHOICE (log 2): whether a context, an engine, an event or a read of the sideband moves next. -/
opaque Config.nextKind : Nat → BitVec 2

/-- DESIGN CHOICE (log 3): the n-th value the spec leaves open (undefined contents, what a
read of the host or of a peer returns, a code's syndrome, a count of cache events). -/
opaque Config.freeWord : Nat → Word

/-- DESIGN CHOICE (log 3): the n-th open truth value (an implementation's allowed choice). -/
opaque Config.freeBool : Nat → Bool

/-- PRESUMED (log 4): the SHAKE256 digest of a byte string, 64 bytes (R410). The spec names the
function and does not define it. -/
opaque Config.shake256 : List Byte → List Byte

/-- Whether the Crier image's header is well formed, and whether the digest it names is the image's (R410: the spec
lists both failures and does not give the header). Log 4. -/
opaque Config.headerOk : List Byte → Bool
opaque Config.digestOk : List Byte → List Byte → Bool

/-- PRESUMED (log 4): Falcon-1024 verification of a signature over a digest under a public key. -/
opaque Config.falconVerify : List Byte → List Byte → List Byte → Bool

/-- PRESUMED (log 4): the Falcon-1024 signature of a digest under the key pair derived from a
secret (R411). -/
opaque Config.falconSign : List Byte → List Byte → List Byte

/-- PRESUMED (log 4): the public key of the pair derived from a secret (R411). -/
opaque Config.falconPublic : List Byte → List Byte

/-- The fused digest of the public key that signs Crier images (R410). -/
opaque Config.fusedKeyDigest : List Byte

/-- The fused device secret (R411). -/
opaque Config.fusedSecret : List Byte

/-- DESIGN CHOICE (log 5): the measured idle floor of the package in W (R419: no reset value). -/
opaque Config.idleWatts : BitVec 16

/-- DESIGN CHOICE (log 6): the number of lines a team fills or writes back, which the spec does not fix (R378), and the
counts of cache, TLB and link events (R422). -/
opaque Config.freeLines : Nat → Nat

/-- DESIGN CHOICE (log 8): the virtual address at which the Crier maps the counter at a physical
address (R145: no address is fixed). -/
opaque Config.counterVa : Nat → Word

/-- DESIGN CHOICE (log 79): the tile bindings of the launch image at a physical address, by tile, as the two words of a TTSET
(R48, R52: the descriptor gives them no encoding). -/
opaque Config.imageTile : Nat → Nat → Option (Word × Word)

/-- DESIGN CHOICE (log 136): the bits of a vector element that holds an MXFP4 value beyond FP32, by its scale and its code. -/
opaque Config.mxBeyond : Nat → Nat → BitVec 32

/-- DESIGN CHOICE (log 138): words 0-15 the codes, 16 the scale and 17 the flags of an SQ block quantised from values beyond
FP32, by its format and mode, the values (sign, magnitude, exponent) and the stamp values. -/
opaque Config.sqBeyond : BitVec 4 → BitVec 3 → List (Bool × Nat × Int) → List Nat → Nat → Word

/-- DESIGN CHOICE (log 19): what a word of a clean bank of the other type counts as where an accumulating word starts on it. -/
opaque Config.bankOther : BitVec 32 → BitVec 32

/-- DESIGN CHOICE (log 9): whether the Crier gives a job a Churn queue (R315: the Crier assigns
queues to jobs). -/
opaque Config.churnOwned : BitVec 32 → Nat → Bool

/-- R338: the bytes that the n-th save writes into its save area, by their offset: the layout of an image is open (log 73). -/
opaque Config.saveImage : Nat → List (Nat × BitVec 8)

end Sys2Proof
end

