-- ==== Sys2Proof/Machine/Map.lean ====
section
/-!
DEFINITION. The operations of the sparse map: lookup with a default, and a write that keeps
the canonical form (keys strictly rising, no entry equal to the default).
-/
namespace Sys2Proof.Machine

/-- The value at `n`; an unlisted key holds the default `d`. -/
def mget {α : Type} (d : α) : SMap α → Nat → α
  | [], _ => d
  | (k, v) :: t, n => if n = k then v else mget d t n

/-- The map without any entry at `n`. -/
def mdrop {α : Type} : SMap α → Nat → SMap α
  | [], _ => []
  | (k, v) :: t, n => if n = k then mdrop t n else (k, v) :: mdrop t n

/-- Write `v` at `n`; writing the default removes the entry. -/
def mset {α : Type} [DecidableEq α] (d : α) : SMap α → Nat → α → SMap α
  | [], n, v => if v = d then [] else [(n, v)]
  | (k, w) :: t, n, v =>
    if n < k then (if v = d then (k, w) :: mdrop t n else (n, v) :: (k, w) :: t)
    else if n = k then (if v = d then mdrop t n else (n, v) :: t)
    else (k, w) :: mset d t n v

/-- Every key is above `lo`, keys rise strictly, and no entry is the default. -/
def mwfFrom {α : Type} [DecidableEq α] (d : α) : Option Nat → SMap α → Bool
  | _, [] => true
  | lo, (k, v) :: t =>
    (match lo with | none => true | some l => decide (l < k)) && decide (v ≠ d) && mwfFrom d (some k) t

/-- The canonical form. -/
def mwf {α : Type} [DecidableEq α] (d : α) (m : SMap α) : Bool := mwfFrom d none m

/-- Keep the entries whose key lies in [lo, lo + n). -/
def mslice {α : Type} (m : SMap α) (lo n : Nat) : SMap α :=
  m.filter (fun kv => lo ≤ kv.1 && kv.1 < lo + n)

/-- The map with every key lowered by `lo`. -/
def mshift {α : Type} (m : SMap α) (lo : Nat) : SMap α := m.map fun e => (e.1 - lo, e.2)

/-- Replace [lo, lo + n) of a map by the entries of another below n. -/
def msplice {α : Type} (m img : SMap α) (lo n : Nat) : SMap α :=
  m.filter (fun e => e.1 < lo) ++ (mslice img 0 n).map (fun e => (e.1 + lo, e.2)) ++ m.filter (fun e => lo + n ≤ e.1)

/-- Drop the entries whose key lies in [lo, lo + n). -/
def mclear {α : Type} (m : SMap α) (lo n : Nat) : SMap α :=
  m.filter (fun kv => !(lo ≤ kv.1 && kv.1 < lo + n))

/-- Change the value at `n`. -/
def mmod {α : Type} [DecidableEq α] (d : α) (m : SMap α) (n : Nat) (f : α → α) : SMap α :=
  mset d m n (f (mget d m n))

end Sys2Proof.Machine
end

