-- ==== Sys2Proof/Machine/Access.lean ====
section
/-!
DEFINITION. The accessors of State: every table entry, context, queue and register has one
reader and one writer here, and what is special about a register (x0, p0, reserved bits) stands
here once (01 R8, R24; 03 R56).
-/
namespace Sys2Proof.Machine

/-- The table index of a cluster and of a core. -/
def clusKey (c : ClusId) : Nat := c.die * 25 + c.clus
def coreKey (c : CoreId) : Nat := (c.die * 25 + c.clus) * 4 + c.rank
/-- The core and the cluster of a table index. -/
def coreOfKey (k : Nat) : CoreId := ⟨k / 100, k / 4 % 25, k % 4⟩
def clusOfKey (k : Nat) : ClusId := ⟨k / 25, k % 25⟩
def CoreId.cl (c : CoreId) : ClusId := ⟨c.die, c.clus⟩
def coreAt (c : ClusId) (rank : Nat) : CoreId := ⟨c.die, c.clus, rank⟩

def coreOf (s : State) (c : CoreId) : Core := mget {} s.cores (coreKey c)
def setCore (s : State) (c : CoreId) (v : Core) : State :=
  { s with cores := mset {} s.cores (coreKey c) v }
def modCore (s : State) (c : CoreId) (f : Core → Core) : State := setCore s c (f (coreOf s c))

def clusOf (s : State) (c : ClusId) : Cluster := mget {} s.clusters (clusKey c)
def setClus (s : State) (c : ClusId) (v : Cluster) : State :=
  { s with clusters := mset {} s.clusters (clusKey c) v }
def modClus (s : State) (c : ClusId) (f : Cluster → Cluster) : State := setClus s c (f (clusOf s c))

def dieOf (s : State) (d : Nat) : Die := mget {} s.dies d
def setDie (s : State) (d : Nat) (v : Die) : State := { s with dies := mset {} s.dies d v }
def modDie (s : State) (d : Nat) (f : Die → Die) : State := setDie s d (f (dieOf s d))

def modPkg (s : State) (f : Package → Package) : State := { s with pkg := f s.pkg }

/-- The context of a kind within its core. -/
def ctxIn (k : CtxKind) (c : Core) : Ctx :=
  match k with
  | .load => c.ctxL
  | .exec => c.ctxX
  | .store => c.ctxS
def setCtxIn (k : CtxKind) (c : Core) (v : Ctx) : Core :=
  match k with
  | .load => { c with ctxL := v }
  | .exec => { c with ctxX := v }
  | .store => { c with ctxS := v }

def ctxOf (s : State) (id : CtxId) : Ctx := ctxIn id.kind (coreOf s id.core)
def setCtx (s : State) (id : CtxId) (v : Ctx) : State :=
  setCore s id.core (setCtxIn id.kind (coreOf s id.core) v)
def modCtx (s : State) (id : CtxId) (f : Ctx → Ctx) : State := setCtx s id (f (ctxOf s id))

/-- The context and the core that are moving. -/
def curCtx (s : State) : Ctx := ctxOf s s.cur
def curCore (s : State) : Core := coreOf s s.cur.core
def curClus (s : State) : Cluster := clusOf s (CoreId.cl s.cur.core)

/-- The queue of an engine within its core. -/
def queueIn (e : Eng) (c : Core) : Queue :=
  match e with
  | .ld => c.qLd
  | .st => c.qSt
  | .mx => c.qMx
  | .vx => c.qVx
  | .rw => c.qRw
  | .cp => c.qCp
def setQueueIn (e : Eng) (c : Core) (q : Queue) : Core :=
  match e with
  | .ld => { c with qLd := q }
  | .st => { c with qSt := q }
  | .mx => { c with qMx := q }
  | .vx => { c with qVx := q }
  | .rw => { c with qRw := q }
  | .cp => { c with qCp := q }

def queueOf (s : State) (c : CoreId) (e : Eng) : Queue := queueIn e (coreOf s c)
def setQueue (s : State) (c : CoreId) (e : Eng) (q : Queue) : State :=
  setCore s c (setQueueIn e (coreOf s c) q)
def modQueue (s : State) (c : CoreId) (e : Eng) (f : Queue → Queue) : State :=
  setQueue s c e (f (queueOf s c e))

/-- R56: engine codes. -/
def engCode : Eng → Nat
  | .ld => 0
  | .st => 1
  | .mx => 2
  | .vx => 3
  | .rw => 4
  | .cp => 5
def engOfCode (n : Nat) : Option Eng :=
  match n with
  | 0 => some .ld
  | 1 => some .st
  | 2 => some .mx
  | 3 => some .vx
  | 4 => some .rw
  | 5 => some .cp
  | _ => none
def allEngs : List Eng := [.ld, .st, .mx, .vx, .rw, .cp]

/-- R67: the context that feeds a queue. -/
def feederOf : Eng → CtxKind
  | .ld => .load
  | .cp => .load
  | .mx => .exec
  | .vx => .exec
  | .rw => .exec
  | .st => .store
def ctxCode : CtxKind → Nat
  | .load => 0
  | .exec => 1
  | .store => 2
def allKinds : List CtxKind := [.load, .exec, .store]

/-- R8: x0 reads as zero and is never poisoned. -/
def readX (c : Ctx) (n : BitVec 5) : XReg := if n = 0 then {} else mget {} c.x n.toNat
/-- R8, R91: a write to x0 is discarded. -/
def writeX (c : Ctx) (n : BitVec 5) (v : XReg) : Ctx :=
  if n = 0 then c else { c with x := mset {} c.x n.toNat v }

/-- R8: p0 reads as 1. -/
def readP (c : Ctx) (n : BitVec 3) : Bool := n = 0 || c.p.getLsbD n.toNat
/-- Put a truth value at bit k of a word. -/
def setBit {w : Nat} (v : BitVec w) (k : Nat) (b : Bool) : BitVec w :=
  if b then v ||| BitVec.twoPow w k else v &&& ~~~BitVec.twoPow w k
/-- R8, R91: a write to p0 is discarded; `dep` is the q.xl tag (R128). -/
def writeP (c : Ctx) (n : BitVec 3) (v dep : Bool) : Ctx :=
  if n = 0 then c else { c with p := setBit c.p n.toNat v, pdep := setBit c.pdep n.toNat dep }
def readPDep (c : Ctx) (n : BitVec 3) : Bool := n ≠ 0 && c.pdep.getLsbD n.toNat

/-- R8: bits [63:56] and [1:0] of a branch target and of PC are zero. -/
def maskPc (v : Word) : Word := v &&& 0x00FFFFFFFFFFFFFC#64
def readB (c : Ctx) (n : BitVec 3) : Word := mget 0 c.b n.toNat
def writeB (c : Ctx) (n : BitVec 3) (v : Word) (dep : Bool) : Ctx :=
  { c with b := mset 0 c.b n.toNat (maskPc v), bdep := setBit c.bdep n.toNat dep }
def readLc (c : Ctx) (n : Nat) : LoopCtr := mget {} c.lc n
def writeLc (c : Ctx) (n : Nat) (l : LoopCtr) : Ctx := { c with lc := mset {} c.lc n l }

/-- TSTAT fields (R15). -/
def tsInh (t : Word) : Bool := t.getLsbD 0
def tsPm (t : Word) : BitVec 2 := t.extractLsb' 1 2
def tsPpm (t : Word) : BitVec 2 := t.extractLsb' 3 2
def tsIe (t : Word) : Bool := t.getLsbD 5
def tsPie (t : Word) : Bool := t.getLsbD 6
def tsCause (t : Word) : BitVec 8 := t.extractLsb' 16 8
/-- Pack a TSTAT word. -/
def tsPack (inh : Bool) (pm ppm : BitVec 2) (ie pie : Bool) (cause : BitVec 8) : Word :=
  (if inh then 1 else 0) ||| (pm.setWidth 64 <<< 1) ||| (ppm.setWidth 64 <<< 3)
    ||| (if ie then 0x20 else 0) ||| (if pie then 0x40 else 0) ||| (cause.setWidth 64 <<< 16)
/-- The context is in supervisor mode. -/
def isSuper (c : Ctx) : Bool := tsPm c.tstat = 1

/-- Bits of a word as a number. -/
def bitsAt (v : Word) (lo n : Nat) : Nat := (v.extractLsb' lo n).toNat

/-- R153: a stash address as the rank it names and the offset there. -/
def stashRank (a : Nat) : Nat := a / 2 ^ 21 % 4
def stashOff (a : Nat) : Nat := a % 2 ^ 21

/-- The team running on the cluster of a core, and its size (no team counts as size 4: a core
that runs without a team is alone in its cluster's full set of ranks; log 20). -/
def teamOf (s : State) (c : CoreId) : Option Team := (clusOf s (CoreId.cl c)).team
def teamSize (s : State) (c : CoreId) : Nat :=
  match teamOf s c with
  | some t => t.size
  | none => 4

/-- The next free value the spec leaves open, and the state past it. -/
def freeWord (s : State) : Word × State := (Config.freeWord s.tick, { s with tick := s.tick + 1 })
def freeBool (s : State) : Bool × State := (Config.freeBool s.tick, { s with tick := s.tick + 1 })

/-- The next arrival number. -/
def takeTicket (s : State) : Nat × State := (s.ticket, { s with ticket := s.ticket + 1 })


end Sys2Proof.Machine
end

