-- ==== Sys2Proof/Machine/PhysMem.lean ====
section
/-!
DEFINITION. Physical memory: bytes and poison marks, little-endian words, and what lies where in
the physical address space (00 R2; 07 R152, R427, R428; 01 R9; 05 R116, R117). An unlisted byte
reads as zero, clean (R427). This is memory as the home slices give it; the copies of the cores stand in Machine/Cache.lean.
-/
namespace Sys2Proof.Machine

/-- A list of bytes as a little-endian number. -/
def leNat : List Byte → Nat
  | [] => 0
  | b :: t => b.toNat + 256 * leNat t

/-- The n low bytes of a number, lowest first. -/
def leBytes : Nat → Nat → List Byte
  | 0, _ => []
  | n + 1, v => BitVec.ofNat 8 v :: leBytes n (v / 256)

/-- The canonical form of a byte memory. -/
def Memory.wf (m : SMap Byte) : Bool := mwf 0 m

/-- Read n bytes of a byte table. -/
def getBytes (m : SMap Byte) (a : Nat) : Nat → List Byte
  | 0 => []
  | n + 1 => mget 0 m a :: getBytes m (a + 1) n

/-- Write bytes into a byte table. -/
def putBytes (m : SMap Byte) (a : Nat) : List Byte → SMap Byte
  | [] => m
  | b :: t => putBytes (mset 0 m a b) (a + 1) t

/-- Some 4-byte word among n of them from word w is marked. -/
def anyMark (m : SMap Bool) (w : Nat) : Nat → Bool
  | 0 => false
  | n + 1 => mget false m w || anyMark m (w + 1) n

/-- The lowest marked word among n from w. -/
def firstMark (m : SMap Bool) (w : Nat) : Nat → Option Nat
  | 0 => none
  | n + 1 => if mget false m w then some w else firstMark m (w + 1) n

/-- The 4-byte words that [a, a + n) touches: the first and how many. -/
def wordsOf (a n : Nat) : Nat × Nat := if n = 0 then (a / 4, 0) else (a / 4, (a + n - 1) / 4 - a / 4 + 1)

/-- R117: marks after a write of [a, a + n): a poisoned write marks every word it touches, a clean
one clears the words it writes in full. -/
def putMarks (m : SMap Bool) (a n : Nat) (poison : Bool) : SMap Bool :=
  let (w, k) := wordsOf a n
  (List.range k).foldl (fun m i =>
    let word := w + i
    if poison then mset false m word true
    else if a ≤ 4 * word && 4 * word + 4 ≤ a + n then mset false m word false else m) m

/-- Physical bytes, and whether any word they touch is marked. -/
def physBytes (s : State) (a n : Nat) : List Byte := getBytes s.mem a n
def physNat (s : State) (a n : Nat) : Nat := leNat (physBytes s a n)
def physMark (s : State) (a n : Nat) : Bool := let w := wordsOf a n; anyMark s.memPoison w.1 w.2

/-- R359: the dirty bit of each 64 KiB block that a write reaches. -/
def markDirty (m : SMap Bool) (a n : Nat) : SMap Bool :=
  if n = 0 then m
  else (List.range ((a + n - 1) / 65536 - a / 65536 + 1)).foldl
    (fun m i => mset false m (a / 65536 + i) true) m

/-- R166: the lines of a write that stand at their home slices take a later time. -/
def bumpHome (m : SMap HomeLine) (a n : Nat) : SMap HomeLine :=
  m.map fun e =>
    if n ≠ 0 && a / 128 ≤ e.1 && e.1 ≤ (a + n - 1) / 128 && e.2.present then
      (e.1, { e.2 with wts := e.2.rts + 1, rts := e.2.rts + 1 })
    else e

/-- Write physical bytes with their poison, at their home slices. -/
def physWrite (s : State) (a : Nat) (bs : List Byte) (poison : Bool) : State :=
  { s with
    mem := putBytes s.mem a bs
    memPoison := putMarks s.memPoison a bs.length poison
    pkg := { s.pkg with dirty64k := markDirty s.pkg.dirty64k a bs.length, home := bumpHome s.pkg.home a bs.length } }

/-- Write an n-byte little-endian number, clean. -/
def physPut (s : State) (a n v : Nat) : State := physWrite s a (leBytes n v) false

/-- R152, R406: what a physical address reaches. -/
inductive PaKind where
  | hbm
  | host (off : Nat)
  | peer (port off : Nat)
  | none
  deriving DecidableEq, Repr

def paKind (a : Nat) : PaKind :=
  if a < 0x6000000000 then .hbm
  else if a < 0x10000000000 then .none
  else if a < 0x20000000000 then .host (a - 0x10000000000)
  else if a < 0xA0000000000 then
    let p := (a - 0x20000000000) / 0x8000000000
    let o := (a - 0x20000000000) % 0x8000000000
    if o < 0x6000000000 then .peer p o else .none
  else .none

/-- R428: the pseudo-channel of an HBM address as die, stack and channel in one key. -/
def channelOf (a : Nat) : Nat :=
  let st := a / (48 * 2 ^ 30)
  let b := a % (48 * 2 ^ 30) / 4096
  st * 64 + ((b ^^^ (b / 2 ^ 6) ^^^ (b / 2 ^ 12) ^^^ (b / 2 ^ 18)) % 64)

end Sys2Proof.Machine
end

