-- ==== Sys2Proof/Machine/Log.lean ====
section
/-!
DEFINITION. Error records, interrupt messages and event counters (18 R350, R351; 23 R399;
24 R422).
-/
namespace Sys2Proof.Machine

/-- R360: an entry of the escaped-write log as its 32 bytes. -/
def escapeBytes (e : EscEntry) : List Byte :=
  leBytes 8 e.pa ++ leBytes 4 e.len ++ leBytes 1 e.dest ++ leBytes 1 e.peer ++ [0, 0]
    ++ leBytes 4 e.lcid ++ leBytes 4 e.launch ++ leBytes 8 e.cyc

/-- The contents of a partition's safe tier. -/
def storeOf (s : State) (part : Nat) : TierStore := mget {} s.pkg.stores (mget {} s.pkg.tiers part).base.toNat
def modStore (s : State) (part : Nat) (f : TierStore → TierStore) : State :=
  modPkg s fun p => { p with stores := mmod {} p.stores (mget {} s.pkg.tiers part).base.toNat f }

/-- Put an outgoing transfer on a link. -/
def emit (s : State) (e : Egress) : State :=
  modPkg s fun p => { p with link := { p.link with egress := p.link.egress ++ [e] } }

/-- R398: a posted write of at most 256 bytes takes the next sequence number. -/
def sendHost (psn : Bool) : Nat → State → Nat → List Byte → State
  | 0, s, _, _ => s
  | fuel + 1, s, off, bs =>
    match bs with
    | [] => s
    | _ =>
      let l := s.pkg.link
      let s1 := emit s (.hostWrite l.nextOut off psn (bs.take 256))
      sendHost psn fuel (modPkg s1 fun p => { p with link := { p.link with nextOut := p.link.nextOut + 1 } }) (off + 256) (bs.drop 256)

/-- R398: the first tag from `nextRead` on under which no read of a port is outstanding. -/
def readTag (l : Link2) (port : Nat) : BitVec 12 :=
  l.nextRead + BitVec.ofNat 12 (((List.range 4096).find? fun k =>
    !l.reads.any fun r => r.1 = port && r.2.1 = l.nextRead + BitVec.ofNat 12 k).getD 0)

/-- R398: a read request of at most 256 bytes to the host (port 16) or a peer, under a free tag; with 4,096 of the port outstanding it
waits for one. -/
def sendRead (s : State) (port addr count : Nat) : State :=
  let l := s.pkg.link
  if 4096 ≤ (l.reads.filter fun r => r.1 = port).length then
    modPkg s fun p => { p with link := { p.link with readsHeld := p.link.readsHeld ++ [(port, addr, count)] } }
  else
    modPkg (emit s (.readRequest port (readTag l port) addr count)) fun p =>
      { p with link := { p.link with nextRead := readTag l port + 1, reads := p.link.reads ++ [(port, readTag l port, addr)] } }

/-- R179: a write to a port is under way until its acknowledgement. -/
def unack (s : State) (port : Nat) : State := modPkg s fun p => { p with link := { p.link with unacked := p.link.unacked ++ [port] } }

/-- A write leaves the package; an interrupt message joins those the link sends. -/
def sendOut (s : State) : Leaving → State
  | .host off psn bs => unack (sendHost psn (bs.length / 256 + 1) s off bs) 16
  | .peer port off psn bs => unack (emit s (.peerWrite port off psn bs)) port
  | .intr bs => modPkg s fun p => { p with link := { p.link with intrs := p.link.intrs ++ [bs] } }
  | .placed => s

/-- R360, R405: an entry continues the run of another. -/
def continues (l e : EscEntry) : Bool :=
  l.dest = e.dest && l.peer = e.peer && l.lcid = e.lcid && l.launch = e.launch && l.pa + l.len = e.pa

/-- R405: how many entries from the end of the log, the last counted 1, the run of a unit stands that an entry continues; 0 where
the unit's last entry ends in another place. -/
def runAt (log : List EscEntry) (e : EscEntry) : Nat :=
  match log.reverse.findIdx? fun l => l.lcid = e.lcid && l.launch = e.launch with
  | some k => match log.reverse[k]? with | some l => if continues l e then k + 1 else 0 | none => 0
  | none => 0

/-- R405: the log with an entry, coalesced with the run of its unit that it continues. -/
def logPut (t : TierStore) (e : EscEntry) : TierStore :=
  match runAt t.log e with
  | 0 => { t with log := t.log ++ [e], logNext := (t.logNext + 1) % 2097152 }
  | k + 1 => { t with log := t.log.zipIdx.map fun l => if l.2 + k + 1 = t.log.length then { l.1 with len := l.1.len + e.len } else l.1 }

/-- R403, R405: the durable write of the log's k-th entry from the end, under the next tag. -/
def sendEntry (s : State) (part k : Nat) : BitVec 12 × State :=
  let t := mget {} s.pkg.tiers part
  let st := storeOf s part
  let l := s.pkg.link
  let off := t.base.toNat * 4096 + 0x4000000 + 32 * ((st.logNext + 2097152 - k) % 2097152)
  let bs := match st.log.reverse[k - 1]? with | some e => escapeBytes e | none => []
  (l.nextTag, modPkg (emit s (.durableWrite l.nextOut l.nextTag off bs)) fun p =>
    { p with link := { p.link with nextOut := p.link.nextOut + 1, nextTag := p.link.nextTag + 1 } })

/-- R405: the log is full for an entry, or every tag is outstanding. -/
def logFull (s : State) (part : Nat) (e : EscEntry) : Bool :=
  let st := storeOf s part
  4096 ≤ s.pkg.link.heldOut.length || (2097152 ≤ st.log.length && runAt st.log e = 0)

/-- R405: log an escaping write and hold it under its entry's tag. -/
def logAndHold (s : State) (part : Nat) (e : EscEntry) (w : Leaving) : State :=
  let r := sendEntry (modStore s part fun t => logPut t e) part (Nat.max 1 (runAt (storeOf s part).log e))
  modPkg r.2 fun p => { p with link := { p.link with heldOut := p.link.heldOut ++ [(r.1, w)] } }

/-- R360, R405: A WRITE LEAVES a partition: through the log of its safe tier if it has one. -/
def escape (s : State) (part : Nat) (e : EscEntry) (w : Leaving) : State :=
  let t := mget {} s.pkg.tiers part
  if !t.v then sendOut s w
  else if !t.stalled.isEmpty || logFull s part e then
    modPkg s fun p => { p with tiers := mset {} p.tiers part { t with stalled := t.stalled ++ [(e, w)] } }
  else logAndHold s part e w

/-- The log entry of what the hardware itself sends or makes durable (R360). -/
def entryOf (s : State) (pa len dest : Nat) : EscEntry :=
  { pa := pa, len := len, dest := dest, peer := 0, lcid := 0, launch := 0, cyc := s.cyc.toNat }

/-- An interrupt message of R399 on its way to the host link, through its partition's log (R360, R405). -/
def queueIntr (s : State) (job : BitVec 32) (kind die part : Nat) : State :=
  escape s part (entryOf s 0 16 3) (.intr (leBytes 4 job.toNat ++ leBytes 1 kind ++ leBytes 1 die ++ leBytes 1 part ++ [0]
    ++ leBytes 8 s.cyc.toNat))

/-- R371, R399: the Crier writes an entry of a job's event log, and the message of it goes to the host (DEDUCED, log
115: for every entry). -/
def jobEvent (s : State) (die : Nat) (job : BitVec 32) (note : JobNote) : State :=
  queueIntr (modPkg s fun p => { p with jobLog := p.jobLog ++ [(job, note)] }) job 3 die
    (match s.pkg.jobs.find? fun j => j.id = job with | some j => j.part | none => 0xFF)

/-- The fields of an error record (R351); `ctx` is 0xFF for none. -/
structure ErrRec where
  cls : Nat
  sev : Nat
  kind : Nat
  unit : Nat
  die : Nat
  pa : Nat := 0
  va : Word := 0
  ecc : Nat := 0
  word : Nat := 0
  synd : Nat := 0
  launch : Nat := 0
  team : Nat := 0
  lcid : Nat := 0
  ctx : Nat := 0xFF
  entry : Option Nat := none
  pc : Word := 0
  ref : Nat := 0
  repair : Nat := 0
  test : Nat := 0
  job : BitVec 32 := 0
  part : Nat := 0xFF

/-- The eight words of a record (R351). -/
def errWords (r : ErrRec) (seq : Nat) (ovf : Bool) (cyc : Nat) : List Nat :=
  [ 2 ^ 63 + (if ovf then 2 ^ 62 else 0) + r.cls % 16 * 2 ^ 52 + r.sev % 16 * 2 ^ 48 + r.die % 4 * 2 ^ 46
      + r.kind % 64 * 2 ^ 40 + r.unit % 256 * 2 ^ 32 + seq,
    r.pa % 2 ^ 52,
    r.va.toNat,
    r.ecc % 16 * 2 ^ 36 + r.word % 16 * 2 ^ 32 + r.synd % 2 ^ 32,
    r.launch % 2 ^ 32 * 2 ^ 32 + r.team % 4096 * 2 ^ 20 + r.lcid % 4096 * 2 ^ 8 + r.ctx % 256,
    cyc,
    (match r.entry with | some e => 2 ^ 63 + e % 2 ^ 21 | none => r.pc.toNat % 2 ^ 56),
    r.ref % 2 ^ 32 * 2 ^ 32 + r.repair % 16 * 2 ^ 8 + r.test % 16 ]

/-- BASE and the number of records of a ring register laid out as ELBASE (R350). -/
def ringBase (v : Word) : Nat := bitsAt v 12 40 * 4096
def ringSize (v : Word) : Nat := 2 ^ (bitsAt v 0 4 + 6)
/-- R350: a base write is accepted with its reserved bits 0 and SZ 0-10. -/
def ringBaseOk (v : Word) : Bool := (v &&& 0xFFF0000000000FF0#64) == 0 && bitsAt v 0 4 ≤ 10

/-- Saturating increment of a 16-bit count. -/
def satInc (n : BitVec 16) : BitVec 16 := if n = 0xFFFF then n else n + 1

/-- R350: write a record, or drop it when the log is disabled or full; its sequence number and the
state after. A severity at or above ITHR raises the error interrupt either way. -/
def logErr (s : State) (r : ErrRec) : Nat × State :=
  let d := dieOf s r.die
  let seq := d.errSeq.toNat
  let size := ringSize d.elbase
  let full : Bool := (d.elHead.toNat + 1) % size = d.elTail.toNat
  let en : Bool := d.elctl.getLsbD 0
  let s1 : State :=
    if full || !en then
      modDie s r.die fun d => { d with errSeq := d.errSeq + 1, elDrops := satInc d.elDrops, elLost := true }
    else
      let bytes := (errWords r seq d.elLost s.cyc.toNat).flatMap (leBytes 8)
      let s0 := physWrite s (ringBase d.elbase + 64 * d.elHead.toNat) bytes false
      modDie s0 r.die fun d =>
        { d with errSeq := d.errSeq + 1, elLost := false,
                 elHead := BitVec.ofNat 16 ((d.elHead.toNat + 1) % size) }
  let s2 := if d.elctl.getLsbD 4 && (d.elctl.extractLsb' 5 3).toNat ≤ r.sev
    then queueIntr s1 r.job 1 r.die r.part else s1
  (seq, s2)

/-- The identity fields a record of a unit carries. -/
def unitRec (s : State) (core : CoreId) (r : ErrRec) : ErrRec :=
  let t := teamOf s core
  let base := { r with
    die := core.die
    job := match t with | some t => t.job | none => 0
    part := match t with | some t => t.part | none => 0xFF }
  match (coreOf s core).unit with
  | some u => { base with launch := u.lid.toNat, team := u.teamId, lcid := u.lcid }
  | none => base

/-- R351: the UNIT of a core's part of a kind; the copy engine's is the cluster. -/
def partUnit (core : CoreId) (kind : Nat) : Nat := if kind = 8 then core.clus else core.clus * 4 + core.rank

/-- R349: the class 3 record of a poison consumed by a context or an entry. -/
def logConsumed (s : State) (core : CoreId) (kind ctx : Nat) (entry : Option Nat) (pc : Word)
    (pa : Nat) (va : Word) : State :=
  (logErr s (unitRec s core
    { cls := 3, sev := 3, kind := kind, unit := partUnit core kind, die := core.die,
      pa := pa, va := va, ctx := ctx, entry := entry, pc := pc })).2

/-- The core that counts the errors of a site (R351). -/
def siteCore : Site → Option CoreId
  | .stash c _ => some c
  | .xreg c _ => some c.core
  | .vreg c _ _ _ => some c
  | .rbuf c _ _ => some c
  | .ring c _ _ => some c
  | .cached c _ => some c
  | .unit c => some c
  | .context c => some c.core
  | .engine c _ => some c
  | .sliceOp c _ => some c.core
  | .sliceDrain c _ => some c
  | .words c _ => some c
  | .beyond x => siteCore x
  | _ => none

/-- R422: a selector counts this source in this mode. -/
def selCounts (sel : Word) (src : Nat) (super : Bool) : Bool :=
  bitsAt sel 0 8 = src && !sel.getLsbD 10 &&
    (bitsAt sel 8 2 = 0 || (bitsAt sel 8 2 = 1 && !super) || (bitsAt sel 8 2 = 2 && super))

/-- R422: add to a 48-bit counter; whether it wrapped. -/
def cntAdd (cnt : Word) (n : Nat) : Word × Bool :=
  (BitVec.ofNat 64 ((cnt.toNat + n) % 2 ^ 48), decide (2 ^ 48 ≤ cnt.toNat + n))

/-- R23, R24: INTP takes a value in a cycle; from no pending bit to one, its interrupt becomes pending. -/
def putIntp (cyc : Nat) (v : Word) (c : Ctx) : Ctx :=
  { c with intp := v, intpAt := if (c.intp &&& 3) = 0 && (v &&& 3) ≠ 0 then cyc + 1 else c.intpAt }

/-- R24, R124: set CNTOV of a core's execute context, and its event latch. -/
def setCntov (cyc : Nat) (c : Core) : Core :=
  { c with ctxX := { putIntp cyc (c.ctxX.intp ||| 2) c.ctxX with latch := true } }

/-- R422: the wrap of counter k of a core. -/
def coreWrap (c : Core) (k : Nat) : Core := { c with esel := mset 0 c.esel k (mget 0 c.esel k ||| 0x1000) }

/-- R422: count n events of a source in every counter that its selector, one of `sels`, gives it; whether one wrapped with OVIE
set. -/
def countIn (sels : SMap Word) (src n : Nat) (super : Bool) (c : Core) : Core × Bool :=
  (List.range 8).foldl (fun a k =>
    if selCounts (mget 0 sels k) src super then
      let r := cntAdd (mget 0 a.1.ecnt k) n
      let c1 := { a.1 with ecnt := mset 0 a.1.ecnt k r.1 }
      if r.2 then (coreWrap c1 k, a.2 || (mget 0 sels k).getLsbD 11) else (c1, a.2)
    else a) (c, false)

/-- The image saved last from a cluster. -/
def lastSaved (s : State) (c : ClusId) : Option (Nat × Saved) := s.pkg.saved.reverse.find? fun e => e.2.home = clusKey c

/-- R24: CNTOV AT A CORE: in its execute context; where its team is away, in the image saved last from its cluster, so that it is
pending when the team returns. -/
def raiseCntov (s : State) (core : CoreId) : State :=
  match (if (coreOf s core).unit.isSome then none else lastSaved s (CoreId.cl core)) with
  | none => modCore s core (setCntov s.cyc.toNat)
  | some e =>
    modPkg s fun p =>
      { p with saved := p.saved.map fun x =>
          if x.1 = e.1 then
            (x.1, { x.2 with cores := x.2.cores.zipIdx.map fun k => if k.2 = core.rank then setCntov s.cyc.toNat k.1 else k.1 })
          else x }

/-- R422: count n events of a source at a core under the selectors given. -/
def countBy (sels : SMap Word) (s : State) (core : CoreId) (src n : Nat) (super : Bool) : State :=
  if sels.isEmpty then s
  else
    let r := countIn sels src n super (coreOf s core)
    let s1 := modCore s core fun _ => r.1
    if r.2 then raiseCntov s1 core else s1

/-- Count n events of a source at a core; no counter set up, no change. -/
def count (s : State) (core : CoreId) (src n : Nat) (super : Bool) : State := countBy (coreOf s core).esel s core src n super

/-- R422: whether counter k under these selectors wraps at n more events of a source with OVIE set. -/
def wrapsAt (ecnt esel : SMap Word) (src n k : Nat) : Bool :=
  selCounts (mget 0 esel k) src true && (cntAdd (mget 0 ecnt k) n).2 && (mget 0 esel k).getLsbD 11

/-- R422: the wraps of the counters from a base on interrupt the Crier. -/
def crierWraps (s : State) (base n : Nat) (wrap : Nat → Bool) : State :=
  if (List.range n).any wrap then
    modPkg s fun p => { p with wraps := (List.range n).foldl (fun m k => if wrap k then mset false m (base + k) true else m) p.wraps }
  else s

/-- R422: count events of a cluster source; a wrap interrupts the Crier. -/
def countClus (s : State) (c : ClusId) (src n : Nat) : State :=
  if (clusOf s c).esel.isEmpty then s
  else
    let cl := clusOf s c
    crierWraps (modClus s c fun cl => (List.range 4).foldl (fun cl k =>
      if selCounts (mget 0 cl.esel k) src true then
        let r := cntAdd (mget 0 cl.ecnt k) n
        { cl with ecnt := mset 0 cl.ecnt k r.1
                  esel := if r.2 then mset 0 cl.esel k (mget 0 cl.esel k ||| 0x1000) else cl.esel }
      else cl) cl) (1024 * c.die + 32 * c.clus) 4 (wrapsAt cl.ecnt cl.esel src n)

/-- R422: count events of a die source. -/
def countDie (s : State) (d : Nat) (src n : Nat) : State :=
  if (dieOf s d).esel.isEmpty then s
  else
    let di := dieOf s d
    crierWraps (modDie s d fun di => (List.range 16).foldl (fun di k =>
      if selCounts (mget 0 di.esel k) src true then
        let r := cntAdd (mget 0 di.ecnt k) n
        { di with ecnt := mset 0 di.ecnt k r.1
                  esel := if r.2 then mset 0 di.esel k (mget 0 di.esel k ||| 0x1000) else di.esel }
      else di) di) (1024 * d + 992) 16 (wrapsAt di.ecnt di.esel src n)

/-- R422: the sources a core selector may name. -/
def coreSrcOk (n : Nat) : Bool :=
  [0, 1, 2, 3, 4, 5, 0x30, 0x31, 0x32, 0x33, 0x40, 0x41, 0x42, 0x43, 0x44, 0x45, 0x46, 0x47,
   0x50, 0x51, 0x52, 0x53, 0x54, 0x55, 0x58, 0x59, 0x5A, 0x5B, 0x5C, 0x5D,
   0x60, 0x61, 0x62, 0x63, 0x70, 0x71, 0x72].contains n
def clusSrcOk (n : Nat) : Bool := [0, 1, 0x80, 0x81, 0x82].contains n
def dieSrcOk (n : Nat) : Bool := [0, 1, 0x90, 0x91, 0x92, 0x93, 0x94].contains n

/-- R422: a selector write with reserved bits 0, MODE not 3 and an assigned source. -/
def selOk (srcOk : Nat → Bool) (v : Word) : Bool :=
  (v &&& 0xFFFFFFFFFFFFE000#64) == 0 && bitsAt v 8 2 ≠ 3 && srcOk (bitsAt v 0 8)
/-- R422: OVF is write-one-to-clear; the other fields take the written value. -/
def selWrite (old v : Word) : Word :=
  (v &&& 0xFFF) ||| (if v.getLsbD 12 then 0 else old &&& 0x1000)

end Sys2Proof.Machine
end

