-- ==== Sys2Proof/Machine/Home.lean ====
section
/-!
DEFINITION. The directory of the home slices: where a line is homed, the logical times of its copies, the owner tags, and the
accounts of the traffic with HBM (07 R163, R165, R166; 21 R378; 24 R422).
-/
namespace Sys2Proof.Machine

/-- R163: the home slice of a key: die and slice in one number. -/
def sliceOf (k : Nat) : Nat := ((List.range 7).foldl (fun a i => a ^^^ (k >>> (7 + 7 * i) % 128)) 0)

/-- R165: the set of a line in its home slice; the index is the line's address modulo 1,024 (DESIGN CHOICE, log 118). -/
def homeSet (key line : Nat) : Nat := sliceOf key * 1024 + line % 1024

/-- R378: add to an account of a die. -/
def charge (s : State) (die tag k n : Nat) : State :=
  modDie s die fun d => { d with accounts := mmod 0 d.accounts (tag * 4 + k) (· + BitVec.ofNat 64 n) }

def homeOf (s : State) (line : Nat) : HomeLine := mget {} s.pkg.home line
def modHome (s : State) (line : Nat) (f : HomeLine → HomeLine) : State :=
  modPkg s fun p => { p with home := mmod {} p.home line f }

/-- R165, R166, R358, R378, R422: a full set of a home slice, its disabled ways apart, loses a line that is not pinned, a free one: a dirty one is written to
HBM and charged to its owner, and its read time raises the floor of the slice. -/
def evictHome (s : State) (key line : Nat) : State :=
  let set := s.pkg.home.filter fun e => homeSet e.2.key e.1 = homeSet key line
  if set.length < 16 - mget 0 (dieOf s (sliceOf key / 32)).waysOff (sliceOf key % 32) then s
  else
    let free := set.filter fun e => !e.2.pinned
    match free[(Config.freeWord s.tick).toNat % free.length]? with
    | none => s
    | some v =>
      let slice := sliceOf v.2.key
      let s1 := if v.2.dirty then
          countDie (charge s (slice / 32) v.2.owner.toNat 2 128) (slice / 32) 0x91 (1 + (Config.freeWord (s.tick + 1)).toNat % 4)
        else s
      modPkg { s1 with tick := s.tick + 2 } fun p =>
        { p with home := mset {} p.home v.1 {}, mts := mmod 0 p.mts slice (Nat.max v.2.rts) }

/-- R165, R166, R378, R422: an access at the home slice of a line: a hit, or a line read from HBM with the slice's floor as
its times. `tag` is the requester's; a store makes it the owner. Only HBM has home slices. -/
def touchHome (s : State) (key line : Nat) (tag : Byte) (store : Bool) : State :=
  if paKind (128 * line) ≠ .hbm then s
  else
    let die := sliceOf key / 32
    let own (h : HomeLine) : HomeLine := if store then { h with dirty := true, owner := tag } else h
    if (homeOf s line).present then modHome (countDie s die 0x92 1) line own
    else
      let s1 := countDie (countDie (charge (evictHome s key line) die tag.toNat 1 128) die 0x93 1) die 0x90 4
      let m := mget 0 s1.pkg.mts (sliceOf key)
      modHome s1 line fun h => own { h with present := true, key := key, wts := m, rts := m }

/-- The home key of a line of memory: that it was filled by (R164), or of one outside the format pages (R163). -/
def keyOf (s : State) (pa : Nat) : Nat := let h := homeOf s (pa / 128); if h.present then h.key else pa / 128 * 128

/-- R166: a line at its home slice takes a time. -/
def stampHome (s : State) (line t : Nat) : State :=
  modHome s line fun h => if h.present then { h with wts := t, rts := t } else h

/-- R166, R368, R380, R397, R407: a write within one line of a home key by an agent outside the cores, performed at the line's home
slice in that agent's order: `k` names its clock (Package.clocks). Team tag 0 pays (DESIGN CHOICE, log 154). -/
def agentPut (k key : Nat) (psn : Bool) (s : State) (pa : Nat) (bs : List Byte) : State :=
  let line := pa / 128
  let s1 := touchHome s key line 0 true
  let t := Nat.max (mget 0 s.pkg.clocks k) ((homeOf s1 line).rts + 1)
  modPkg (stampHome (physWrite s1 pa bs psn) line t) fun p => { p with clocks := mset 0 p.clocks k t }

/-- The same where the agent goes by the address alone. -/
def agentStore (k : Nat) (psn : Bool) (s : State) (pa : Nat) (bs : List Byte) : State := agentPut k (keyOf s pa) psn s pa bs

/-- R166: the clock of an agent outside the cores goes up to a time. -/
def raiseClock (s : State) (k t : Nat) : State := modPkg s fun p => { p with clocks := mmod 0 p.clocks k (Nat.max t) }
def clockOf (s : State) (k : Nat) : Nat := mget 0 s.pkg.clocks k

/-- R166: a renewal extends the read time of a line by the lease. -/
def renewHome (s : State) (line pts : Nat) : State :=
  modHome s line fun h => { h with rts := Nat.max h.rts (pts + 16) }

end Sys2Proof.Machine
end

