-- ==== Sys2Proof/WellFormed.lean ====
section
/-!
DEFINITION. Which terms of Instr are instructions and events of the device: the operand values
the encodings reserve (03 R56-R62, R64) and the agents the package does not have (00 R1).
-/
namespace Sys2Proof

/-- An engine code is 0-5; 6-31 are reserved (R56). -/
def engCodeOk (e : BitVec 5) : Bool := decide (e.toNat ≤ 5)

/-- R62: the assigned control-register identifiers. -/
def cridOk (r : BitVec 11) : Bool :=
  let n := r.toNat
  decide (n ≤ 0x001) || (decide (0x010 ≤ n) && decide (n ≤ 0x017)) || decide (n = 0x020) ||
  (decide (0x030 ≤ n) && decide (n ≤ 0x037)) || (decide (0x040 ≤ n) && decide (n ≤ 0x050)) ||
  decide (n = 0x060) || decide (n = 0x061) || decide (n = 0x070) || decide (n = 0x071)

/-- R416: a PACQ level is 1-116. -/
def pacqOk (l : BitVec 8) : Bool := decide (1 ≤ l.toNat) && decide (l.toNat ≤ 116)

/-- R1: dies 0-3, clusters 0-24. -/
def clusOk (c : ClusId) : Bool := decide (c.die ≤ 3) && decide (c.clus ≤ 24)

/-- Cores 0-3 of a cluster. -/
def coreOk (c : CoreId) : Bool := decide (c.die ≤ 3) && decide (c.clus ≤ 24) && decide (c.rank ≤ 3)

/-- A context of an existing core. -/
def ctxOk (c : CtxId) : Bool := coreOk c.core

/-- A store that exists. -/
def siteOk : Site → Bool
  | .hbm _ => true
  | .stash c _ => coreOk c
  | .xreg c n => ctxOk c && decide (n ≤ 31)
  | .vreg c r i j => coreOk c && decide (r ≤ 15) && decide (i ≤ 31) && decide (j ≤ 31)
  | .rbuf c i j => coreOk c && decide (i ≤ 127) && decide (j ≤ 127)
  | .ring c r _ => coreOk c && decide (r ≤ 3)
  | .bank c b i j => clusOk c && decide (b ≤ 1) && decide (i ≤ 127) && decide (j ≤ 127)
  | .cached c _ => coreOk c
  | .unit c => coreOk c
  | .churn q _ => decide (q ≤ 63)
  | .peRow c r => clusOk c && decide (r ≤ 127)
  | .link d n => decide (d ≤ 3) && decide (n ≤ 3) && decide (d ≠ n)
  | .hostLink => true
  | .peerPort p => decide (p ≤ 15)
  | .context c => ctxOk c
  | .engine c _ => coreOk c
  | .sliceOp c _ => ctxOk c
  | .sliceDrain c _ => coreOk c
  | .homeLine _ => true
  | .words c _ => coreOk c
  | .beyond x => siteOk x

/-- The well-formed instructions and events. -/
def WellFormed : Instr → Bool
  | .add _ _ _ _ => true
  | .sub _ _ _ _ => true
  | .and _ _ _ _ => true
  | .or _ _ _ _ => true
  | .xor _ _ _ _ => true
  | .andn _ _ _ _ => true
  | .shl _ _ _ _ => true
  | .shr _ _ _ _ => true
  | .sar _ _ _ _ => true
  | .rol _ _ _ _ => true
  | .min _ _ _ _ => true
  | .max _ _ _ _ => true
  | .minu _ _ _ _ => true
  | .maxu _ _ _ _ => true
  | .clz _ _ _ => true
  | .ctz _ _ _ => true
  | .popc _ _ _ => true
  | .sextB _ _ _ => true
  | .sextH _ _ _ => true
  | .sextW _ _ _ => true
  | .zextB _ _ _ => true
  | .zextH _ _ _ => true
  | .zextW _ _ _ => true
  | .shadd1 _ _ _ _ => true
  | .shadd2 _ _ _ _ => true
  | .shadd3 _ _ _ _ => true
  | .shadd4 _ _ _ _ => true
  | .addi _ _ _ _ => true
  | .andi _ _ _ _ => true
  | .ori _ _ _ _ => true
  | .xori _ _ _ _ => true
  | .shli _ _ _ _ => true
  | .shri _ _ _ _ => true
  | .sari _ _ _ _ => true
  | .li _ _ _ => true
  | .lih _ _ _ => true
  | .mul _ _ _ _ => true
  | .mulh _ _ _ _ => true
  | .mulhu _ _ _ _ => true
  | .div _ _ _ _ => true
  | .divu _ _ _ _ => true
  | .rem _ _ _ _ => true
  | .remu _ _ _ _ => true
  | .cmp _ _ _ c _ => decide (c.toNat ≤ 5)
  | .cmpi _ _ c _ _ => decide (c.toNat ≤ 5)
  | .plog _ _ _ _ _ => true
  | .pset _ _ _ => true
  | .sel _ _ _ _ _ => true
  | .fadd _ _ _ _ => true
  | .fsub _ _ _ _ => true
  | .fmul _ _ _ _ => true
  | .ffma _ _ _ _ => true
  | .fdiv _ _ _ _ => true
  | .fsqrt _ _ _ => true
  | .fmin _ _ _ _ => true
  | .fmax _ _ _ _ => true
  | .fsgnJ _ _ _ _ => true
  | .fsgnN _ _ _ _ => true
  | .fsgnX _ _ _ _ => true
  | .fcmpEq _ _ _ _ => true
  | .fcmpNe _ _ _ _ => true
  | .fcmpLt _ _ _ _ => true
  | .fcmpGe _ _ _ _ => true
  | .fcvtFI _ _ _ => true
  | .fcvtFIu _ _ _ => true
  | .fcvtIF _ _ _ => true
  | .fcvtIuF _ _ _ => true
  | .fcvtFB _ _ _ => true
  | .fcvtBF _ _ _ => true
  | .fclass _ _ _ => true
  | .ld _ _ _ _ _ => true
  | .lduB _ _ _ _ => true
  | .lduH _ _ _ _ => true
  | .lduW _ _ _ _ => true
  | .pref l _ _ _ => decide (l.toNat ≤ 1)
  | .st _ _ _ _ _ => true
  | .lds _ _ _ _ _ => true
  | .sts _ _ _ _ _ => true
  | .smap _ _ _ _ => true
  | .sunmap _ _ => true
  | .sflush _ _ _ => true
  | .sinv _ _ _ => true
  | .ttset _ _ _ _ _ => true
  | .ttq _ _ _ => true
  | .twait _ _ _ => true
  | .tdesc _ _ _ _ => true
  | .amoAdd _ _ _ _ _ => true
  | .amoAnd _ _ _ _ _ => true
  | .amoOr _ _ _ _ _ => true
  | .amoXor _ _ _ _ _ => true
  | .amoMin _ _ _ _ _ => true
  | .amoMax _ _ _ _ _ => true
  | .amoMinu _ _ _ _ _ => true
  | .amoMaxu _ _ _ _ _ => true
  | .amoSwap _ _ _ _ _ => true
  | .cas _ _ _ _ _ => true
  | .afadd _ _ _ _ => true
  | .abfadd _ _ _ _ => true
  | .abfsr _ _ _ _ => true
  | .fsetv _ _ _ => true
  | .fsetvR _ _ _ => true
  | .fgetv _ _ _ => true
  | .ftake _ _ _ => true
  | .fenceAcq s _ => decide (s.toNat ≤ 10)
  | .fenceRel s _ => decide (s.toNat ≤ 10)
  | .fenceFull s _ => decide (s.toNat ≤ 10)
  | .fencePub s _ => decide (s.toNat ≤ 10)
  | .fencePers _ => true
  | .waitv _ _ _ => true
  | .rsend _ r _ => decide (r.toNat ≤ 3)
  | .rrecv _ r _ => decide (r.toNat ≤ 3)
  | .rpoll _ r _ => decide (r.toNat ≤ 3)
  | .carrive _ _ => true
  | .cwait _ _ => true
  | .pbr _ _ _ => true
  | .pbrr _ _ _ => true
  | .br _ _ _ _ => true
  | .brl _ _ _ _ => true
  | .loop _ _ _ _ => true
  | .loopSwp _ _ _ s _ => decide (s ≠ 0)
  | .lbrk _ _ => true
  | .enq e _ _ _ _ => engCodeOk e
  | .enqs e _ _ _ => engCodeOk e
  | .ebusy e _ _ => engCodeOk e
  | .efence e _ => engCodeOk e
  | .estat e _ _ => engCodeOk e
  | .lease _ => true
  | .lrel _ => true
  | .kwait _ _ _ => true
  | .ksig _ _ _ => true
  | .kset _ _ _ => true
  | .kread _ _ _ => true
  | .chins _ _ _ _ _ => true
  | .chinsw _ _ _ _ _ => true
  | .chtake _ _ _ _ => true
  | .chdone _ _ _ => true
  | .chcfg _ _ _ _ _ => true
  | .labegin _ _ _ => true
  | .lastep _ _ _ _ => true
  | .laend _ _ => true
  | .laabort _ _ => true
  | .lactl _ _ _ _ => true
  | .laq _ _ _ => true
  | .pacq l _ => pacqOk l
  | .prel _ => true
  | .crr _ r _ => cridOk r
  | .crw _ _ r _ => cridOk r
  | .crs _ _ r _ => cridOk r
  | .crc _ _ r _ => cridOk r
  | .trap _ _ => true
  | .tret _ => true
  | .yield _ => true
  | .wfe _ => true
  | .cancel _ _ _ => true
  | .lit _ => true
  | .ext _ => true
  | .nop => true
  | .dup => true
  | .drop => true
  | .swap => true
  | .overW => true
  | .rot => true
  | .waitk _ => true
  | .sigk _ => true
  | .pred => true
  | .atSlot => true
  | .nsel u v => decide (u ≠ 6) && decide (v ≠ 6)
  | .mark _ => true
  | .ldT _ => true
  | .ldG _ => true
  | .ldM _ => true
  | .ldS _ => true
  | .ldR _ => true
  | .pf _ => true
  | .stT _ => true
  | .stS _ => true
  | .stCv _ => true
  | .stZ _ => true
  | .mma _ => true
  | .mzero _ => true
  | .mloadc _ => true
  | .mdrain _ => true
  | .mpark _ => true
  | .munpark _ => true
  | .msyrk _ => true
  | .mflags _ => true
  | .mchol _ => true
  | .mlu _ => true
  | .mtrsm _ => true
  | .mtrinv _ => true
  | .mgqr _ => true
  | .mqapply _ => true
  | .mperm _ => true
  | .mdiag _ => true
  | .vld _ => true
  | .vst _ => true
  | .vldrb _ => true
  | .vshp _ => true
  | .vadd _ => true
  | .vsub _ => true
  | .vmul _ => true
  | .vfma _ => true
  | .vdiv _ => true
  | .vmin _ => true
  | .vmax _ => true
  | .vabs _ => true
  | .vneg _ => true
  | .vcmp _ => true
  | .vsel _ => true
  | .vcvt _ => true
  | .vred _ => true
  | .vbcast _ => true
  | .vtrans _ => true
  | .vand _ => true
  | .vor _ => true
  | .vxor _ => true
  | .vshl _ => true
  | .vshr _ => true
  | .vexp _ => true
  | .vrcp _ => true
  | .vrsq _ => true
  | .viota _ => true
  | .vclip _ => true
  | .vscale _ => true
  | .vpoisq _ => true
  | .vmovs _ => true
  | .rmax _ => true
  | .rexpsum _ => true
  | .rscale _ => true
  | .rmean _ => true
  | .rvar _ => true
  | .rnorm _ => true
  | .rmask _ => true
  | .rttab _ => true
  | .cpy _ => true
  | .cpy2 _ => true
  | .cpyt _ => true
  | .gath _ => true
  | .scat _ => true
  | .cconv _ => true
  | .mcast _ => true
  | .rsts _ => true
  | .cred _ => true
  | .cfill _ => true
  | .cchk _ => true
  | .cchins _ => true
  | .cwake _ => true
  | .entryCompletion core _ => coreOk core
  | .interrupt ctx => ctxOk ctx
  | .engineTrapDelivery ctx => ctxOk ctx
  | .ringSendComplete ctx => ctxOk ctx
  | .ringReceiveComplete ctx => ctxOk ctx
  | .kwaitRelease ctx => ctxOk ctx
  | .cwaitRelease ctx => ctxOk ctx
  | .twaitRelease ctx => ctxOk ctx
  | .waitvRetest ctx => ctxOk ctx
  | .futureWaitRelease ctx => ctxOk ctx
  | .fenceComplete ctx => ctxOk ctx
  | .enqSpaceAvailable ctx => ctxOk ctx
  | .efenceComplete ctx => ctxOk ctx
  | .leaseGrant clus => clusOk clus
  | .lrelComplete ctx => ctxOk ctx
  | .leaseExhaustion clus => clusOk clus
  | .leaseRevocation clus => clusOk clus
  | .pacqGrant clus => clusOk clus
  | .wfeWake ctx => ctxOk ctx
  | .chinswRetry ctx => ctxOk ctx
  | .chargeWaitStart core _ => coreOk core
  | .bucketRampTick clus => clusOk clus
  | .wthreshExpiry ctx => ctxOk ctx
  | .budgetExpiry clus => clusOk clus
  | .sliceEnd clus => clusOk clus
  | .preemptionRequest clus => clusOk clus
  | .preemptionForceStop ctx => ctxOk ctx
  | .preemptionHang core => coreOk core
  | .teamSaveComplete clus => clusOk clus
  | .unitRetire core => coreOk core
  | .bindStage clus slot _ => clusOk clus && decide (slot ≤ 1)
  | .bindUnbind clus slot => clusOk clus && decide (slot ≤ 1)
  | .slotStart clus => clusOk clus
  | .graphLoad _ _ _ => true
  | .churnBoundDispatch queue core => decide (queue ≤ 63) && coreOk core
  | .compensationStart _ core => coreOk core
  | .compensationEnd core => coreOk core
  | .removalRequest core => coreOk core
  | .removalRelease core => coreOk core
  | .checkerMismatch site _ => siteOk site
  | .eccCorrectable site => siteOk site
  | .eccUncorrectable site _ => siteOk site
  | .arrayVerdict clus bank _ => clusOk clus && decide (bank ≤ 1)
  | .selfTest site _ _ => siteOk site
  | .rpctlRecoveryPoint part => decide (part ≤ 7)
  | .rpctlRollback part => decide (part ≤ 7)
  | .rpctlSeal part => decide (part ≤ 7)
  | .recoveryRequestEnd part => decide (part ≤ 7)
  | .escapedLogThreshold part => decide (part ≤ 7)
  | .tlbiPage die _ => decide (die ≤ 3)
  | .tlbiAsid die _ => decide (die ≤ 3)
  | .tlbiAll die => decide (die ≤ 3)
  | .tlbiDone die => decide (die ≤ 3)
  | .clintWrite clus _ => clusOk clus
  | .clpctlQuiesce clus => clusOk clus
  | .clpctlRetain clus => clusOk clus
  | .clpctlOff clus => clusOk clus
  | .clpctlRun clus => clusOk clus
  | .quiescedReached clus => clusOk clus
  | .retainedReached clus => clusOk clus
  | .clretsvSave clus => clusOk clus
  | .clretsvRestore clus => clusOk clus
  | .retentionSaveDone clus => clusOk clus
  | .clgateWrite clus _ => clusOk clus
  | .clwakeWrite clus _ => clusOk clus
  | .wakeComplete clus => clusOk clus
  | .clbktWrite clus _ => clusOk clus
  | .pcapWrite _ => true
  | .ecntWrap core n => coreOk core && decide (n ≤ 7)
  | .registerWrite die _ _ => decide (die ≤ 3)
  | .submissionDoorbell _ => true
  | .completionRingTail _ _ => true
  | .partitionTableWrite part _ _ _ _ => decide (part ≤ 7)
  | .safeTierWrite part _ _ _ => decide (part ≤ 7)
  | .readRequest port _ _ _ => decide (port ≤ 16)
  | .readCompletion port _ _ _ _ => decide (port ≤ 16)
  | .postedWrite _ _ _ _ => true
  | .interruptMessage => true
  | .durableWrite _ _ _ _ _ => true
  | .durableAcknowledgement port _ _ => decide (port ≤ 16)
  | .linkRetry port => decide (port ≤ 16)
  | .dieLinkReroute a b => decide (a ≤ 3) && decide (b ≤ 3)
  | .peerWriteArrival port _ _ _ => decide (port ≤ 16)
  | .powerOnReset => true
  | .bootImageVerify _ _ _ => true
  | .crierTakeover => true
  | .attestationRequest _ => true
  | .teamRestoreComplete clus => clusOk clus
  | .retentionRestoreDone clus => clusOk clus
  | .firmwareMeasurement _ _ _ => true

end Sys2Proof
end

