-- ==== Sys2Proof/Decode.lean ====
section
/-!
DEFINITION. The decoder and the encoder, written from the formats and opcode maps (03 R55-R65):
total on every word, each rejection under a name (R66, R68).
-/
namespace Sys2Proof

/-- Why a word is no instruction: the cases of R66 and subcauses 1-3 of R68. -/
inductive DecodeErr where
  /-- OP is reserved or illegal (R57). -/
  | opcode
  /-- A function code, size, kind, operation, cc, ring or scope code is reserved (R59-R61). -/
  | function
  /-- A reserved field or bit is nonzero. -/
  | reservedField
  /-- E names no engine, or not MXQ for LEASE and LREL. -/
  | engineCode
  /-- LOOP with SWP and ST that exclude each other. -/
  | loopForm
  /-- CRID names no register (R62). -/
  | crid
  /-- OPC7 reserved in the queue's class (R68 subcause 1). -/
  | opc7
  /-- Control kind 12-15 or NSEL code 6 (R68 subcause 2). -/
  | control
  deriving DecidableEq, Repr

/-- Accept when the reserved bits are as they must be. -/
def chk (c : Prop) [Decidable c] (i : Instr) : Except DecodeErr Instr :=
  if c then .ok i else .error .reservedField

/-- R55: the fields of a scalar word. -/
def fOp (w : BitVec 32) : BitVec 6 := w.extractLsb' 26 6
def fD (w : BitVec 32) : BitVec 5 := w.extractLsb' 21 5
def fA (w : BitVec 32) : BitVec 5 := w.extractLsb' 16 5
def fB (w : BitVec 32) : BitVec 5 := w.extractLsb' 11 5
def fF (w : BitVec 32) : BitVec 8 := w.extractLsb' 3 8
def fG (w : BitVec 32) : BitVec 3 := w.extractLsb' 0 3
def fI13 (w : BitVec 32) : BitVec 13 := w.extractLsb' 3 13
def fI18 (w : BitVec 32) : BitVec 18 := w.extractLsb' 3 18
def fW (w : BitVec 32) : BitVec 3 := w.extractLsb' 13 3
def fO (w : BitVec 32) : BitVec 10 := w.extractLsb' 3 10
def fBT (w : BitVec 32) : BitVec 3 := w.extractLsb' 23 3
def fLC (w : BitVec 32) : BitVec 2 := w.extractLsb' 21 2
/-- D as a predicate number (R56). -/
def fPD (w : BitVec 32) : BitVec 3 := w.extractLsb' 21 3
/-- Bits [4:3] of a field that names a predicate are reserved (R56). -/
abbrev predOk (r : BitVec 5) : Prop := r.extractLsb' 3 2 = 0

/-- R59, OP 0x01: integer register-register. -/
def decAlu (w : BitVec 32) : Except DecodeErr Instr :=
  match (fF w).toNat with
  | 0 => .ok (.add (fD w) (fA w) (fB w) (fG w))
  | 1 => .ok (.sub (fD w) (fA w) (fB w) (fG w))
  | 2 => .ok (.and (fD w) (fA w) (fB w) (fG w))
  | 3 => .ok (.or (fD w) (fA w) (fB w) (fG w))
  | 4 => .ok (.xor (fD w) (fA w) (fB w) (fG w))
  | 5 => .ok (.andn (fD w) (fA w) (fB w) (fG w))
  | 6 => .ok (.shl (fD w) (fA w) (fB w) (fG w))
  | 7 => .ok (.shr (fD w) (fA w) (fB w) (fG w))
  | 8 => .ok (.sar (fD w) (fA w) (fB w) (fG w))
  | 9 => .ok (.rol (fD w) (fA w) (fB w) (fG w))
  | 0xa => .ok (.min (fD w) (fA w) (fB w) (fG w))
  | 0xb => .ok (.max (fD w) (fA w) (fB w) (fG w))
  | 0xc => .ok (.minu (fD w) (fA w) (fB w) (fG w))
  | 0xd => .ok (.maxu (fD w) (fA w) (fB w) (fG w))
  | 0xe => chk (fB w = 0) (.clz (fD w) (fA w) (fG w))
  | 0xf => chk (fB w = 0) (.ctz (fD w) (fA w) (fG w))
  | 0x10 => chk (fB w = 0) (.popc (fD w) (fA w) (fG w))
  | 0x11 => chk (fB w = 0) (.sextB (fD w) (fA w) (fG w))
  | 0x12 => chk (fB w = 0) (.sextH (fD w) (fA w) (fG w))
  | 0x13 => chk (fB w = 0) (.sextW (fD w) (fA w) (fG w))
  | 0x14 => chk (fB w = 0) (.zextB (fD w) (fA w) (fG w))
  | 0x15 => chk (fB w = 0) (.zextH (fD w) (fA w) (fG w))
  | 0x16 => chk (fB w = 0) (.zextW (fD w) (fA w) (fG w))
  | 0x18 => .ok (.shadd1 (fD w) (fA w) (fB w) (fG w))
  | 0x19 => .ok (.shadd2 (fD w) (fA w) (fB w) (fG w))
  | 0x1a => .ok (.shadd3 (fD w) (fA w) (fB w) (fG w))
  | 0x1b => .ok (.shadd4 (fD w) (fA w) (fB w) (fG w))
  | _ => .error .function

/-- R60, OP 0x06: SK in [15:14], [13:9] reserved, SH in [8:3]. -/
def decShift (w : BitVec 32) : Except DecodeErr Instr :=
  match ((fI13 w).extractLsb' 11 2).toNat with
  | 0 => chk ((fI13 w).extractLsb' 6 5 = 0) (.shli (fD w) (fA w) ((fI13 w).extractLsb' 0 6) (fG w))
  | 1 => chk ((fI13 w).extractLsb' 6 5 = 0) (.shri (fD w) (fA w) ((fI13 w).extractLsb' 0 6) (fG w))
  | 2 => chk ((fI13 w).extractLsb' 6 5 = 0) (.sari (fD w) (fA w) ((fI13 w).extractLsb' 0 6) (fG w))
  | _ => .error .function

/-- R59, OP 0x09: multiply and divide. -/
def decMul (w : BitVec 32) : Except DecodeErr Instr :=
  match (fF w).toNat with
  | 0 => .ok (.mul (fD w) (fA w) (fB w) (fG w))
  | 1 => .ok (.mulh (fD w) (fA w) (fB w) (fG w))
  | 2 => .ok (.mulhu (fD w) (fA w) (fB w) (fG w))
  | 4 => .ok (.div (fD w) (fA w) (fB w) (fG w))
  | 5 => .ok (.divu (fD w) (fA w) (fB w) (fG w))
  | 6 => .ok (.rem (fD w) (fA w) (fB w) (fG w))
  | 7 => .ok (.remu (fD w) (fA w) (fB w) (fG w))
  | _ => .error .function

/-- R59, OP 0x0A: F is the cc code; D names a predicate. -/
def decCmp (w : BitVec 32) : Except DecodeErr Instr :=
  if 5 < (fF w).toNat then .error .function
  else chk (predOk (fD w)) (.cmp (fPD w) (fA w) (fB w) ((fF w).extractLsb' 0 3) (fG w))

/-- R58, OP 0x0B: cc in [15:13], IMM10 in [12:3]. -/
def decCmpi (w : BitVec 32) : Except DecodeErr Instr :=
  if 5 < ((fI13 w).extractLsb' 10 3).toNat then .error .function
  else chk (predOk (fD w)) (.cmpi (fPD w) (fA w) ((fI13 w).extractLsb' 10 3) ((fI13 w).extractLsb' 0 10) (fG w))

/-- R59, OP 0x0C: PLOG F 0x00-0x0F, PSET 0x10, SEL 0x20-0x27. -/
def decPred (w : BitVec 32) : Except DecodeErr Instr :=
  if (fF w).extractLsb' 4 4 = 0 then
    chk (predOk (fD w) ∧ predOk (fA w) ∧ predOk (fB w))
      (.plog (fPD w) ((fA w).extractLsb' 0 3) ((fB w).extractLsb' 0 3) ((fF w).extractLsb' 0 4) (fG w))
  else if fF w = 0x10 then chk (predOk (fD w) ∧ fB w = 0) (.pset (fPD w) (fA w) (fG w))
  else if (fF w).extractLsb' 3 5 = 4 then .ok (.sel (fD w) (fA w) (fB w) ((fF w).extractLsb' 0 3) (fG w))
  else .error .function

/-- R59, OP 0x0D: scalar FP; FCMP writes a predicate. -/
def decFp (w : BitVec 32) : Except DecodeErr Instr :=
  match (fF w).toNat with
  | 0 => .ok (.fadd (fD w) (fA w) (fB w) (fG w))
  | 1 => .ok (.fsub (fD w) (fA w) (fB w) (fG w))
  | 2 => .ok (.fmul (fD w) (fA w) (fB w) (fG w))
  | 3 => .ok (.ffma (fD w) (fA w) (fB w) (fG w))
  | 4 => .ok (.fdiv (fD w) (fA w) (fB w) (fG w))
  | 5 => chk (fB w = 0) (.fsqrt (fD w) (fA w) (fG w))
  | 6 => .ok (.fmin (fD w) (fA w) (fB w) (fG w))
  | 7 => .ok (.fmax (fD w) (fA w) (fB w) (fG w))
  | 8 => .ok (.fsgnJ (fD w) (fA w) (fB w) (fG w))
  | 9 => .ok (.fsgnN (fD w) (fA w) (fB w) (fG w))
  | 0xa => .ok (.fsgnX (fD w) (fA w) (fB w) (fG w))
  | 0x10 => chk (predOk (fD w)) (.fcmpEq (fPD w) (fA w) (fB w) (fG w))
  | 0x11 => chk (predOk (fD w)) (.fcmpNe (fPD w) (fA w) (fB w) (fG w))
  | 0x12 => chk (predOk (fD w)) (.fcmpLt (fPD w) (fA w) (fB w) (fG w))
  | 0x13 => chk (predOk (fD w)) (.fcmpGe (fPD w) (fA w) (fB w) (fG w))
  | _ => .error .function

/-- R59, OP 0x0E: FCVT and FCLASS. -/
def decCvt (w : BitVec 32) : Except DecodeErr Instr :=
  match (fF w).toNat with
  | 0 => chk (fB w = 0) (.fcvtFI (fD w) (fA w) (fG w))
  | 1 => chk (fB w = 0) (.fcvtFIu (fD w) (fA w) (fG w))
  | 2 => chk (fB w = 0) (.fcvtIF (fD w) (fA w) (fG w))
  | 3 => chk (fB w = 0) (.fcvtIuF (fD w) (fA w) (fG w))
  | 4 => chk (fB w = 0) (.fcvtFB (fD w) (fA w) (fG w))
  | 5 => chk (fB w = 0) (.fcvtBF (fD w) (fA w) (fG w))
  | 8 => chk (fB w = 0) (.fclass (fD w) (fA w) (fG w))
  | _ => .error .function

/-- R60, OP 0x10: W selects LD, LDU or PREF. -/
def decLoad (w : BitVec 32) : Except DecodeErr Instr :=
  match (fW w).toNat with
  | 4 => .ok (.lduB (fD w) (fA w) (fO w) (fG w))
  | 5 => .ok (.lduH (fD w) (fA w) (fO w) (fG w))
  | 6 => .ok (.lduW (fD w) (fA w) (fO w) (fG w))
  | 7 => if 1 < (fD w).toNat then .error .function else .ok (.pref (fD w) (fA w) (fO w) (fG w))
  | _ => .ok (.ld (fD w) (fA w) ((fW w).extractLsb' 0 2) (fO w) (fG w))

/-- R60, OP 0x11-0x13: W is a size 0-3. -/
def decSized (k : BitVec 5 → BitVec 5 → BitVec 2 → BitVec 10 → BitVec 3 → Instr) (w : BitVec 32) :
    Except DecodeErr Instr :=
  if (fW w).getLsbD 2 then .error .function
  else .ok (k (fD w) (fA w) ((fW w).extractLsb' 0 2) (fO w) (fG w))

/-- R59, OP 0x14: the stash map. -/
def decMap (w : BitVec 32) : Except DecodeErr Instr :=
  match (fF w).toNat with
  | 0 => .ok (.smap (fD w) (fA w) (fB w) (fG w))
  | 1 => chk (fD w = 0 ∧ fB w = 0) (.sunmap (fA w) (fG w))
  | 2 => chk (fD w = 0) (.sflush (fA w) (fB w) (fG w))
  | 3 => chk (fD w = 0) (.sinv (fA w) (fB w) (fG w))
  | _ => .error .function

/-- R59, R175, OP 0x15: F[7:6] operation, F[5:0] handle; TWAIT takes its wanted state from [22]. -/
def decTile (w : BitVec 32) : Except DecodeErr Instr :=
  let t := (fF w).extractLsb' 0 6
  match ((fF w).extractLsb' 6 2).toNat with
  | 0 => .ok (.ttset (fD w) (fA w) (fB w) t (fG w))
  | 1 => chk (fA w = 0 ∧ fB w = 0) (.ttq (fD w) t (fG w))
  | 2 => chk (fD w &&& 0x1D#5 = 0 ∧ fA w = 0 ∧ fB w = 0) (.twait ((fD w).extractLsb' 1 1) t (fG w))
  | _ => chk ((fA w).extractLsb' 1 4 = 0 ∧ fB w = 0) (.tdesc (fD w) ((fA w).extractLsb' 0 1) t (fG w))

/-- R59, OP 0x16: F[7:5] reserved, F[4] DW, F[3:0] the operation. -/
def decAmo (w : BitVec 32) : Except DecodeErr Instr :=
  let z := (fF w).extractLsb' 4 1
  let k (c : BitVec 5 → BitVec 5 → BitVec 5 → BitVec 1 → BitVec 3 → Instr) : Except DecodeErr Instr :=
    chk ((fF w).extractLsb' 5 3 = 0) (c (fD w) (fA w) (fB w) z (fG w))
  match ((fF w).extractLsb' 0 4).toNat with
  | 0 => k .amoAdd
  | 1 => k .amoAnd
  | 2 => k .amoOr
  | 3 => k .amoXor
  | 4 => k .amoMin
  | 5 => k .amoMax
  | 6 => k .amoMinu
  | 7 => k .amoMaxu
  | 8 => k .amoSwap
  | _ => .error .function

/-- R59, OP 0x17: F[0] DW. -/
def decCas (w : BitVec 32) : Except DecodeErr Instr :=
  chk ((fF w).extractLsb' 1 7 = 0) (.cas (fD w) (fA w) (fB w) ((fF w).extractLsb' 0 1) (fG w))

/-- R59, OP 0x18: FP atomics. -/
def decAfp (w : BitVec 32) : Except DecodeErr Instr :=
  match (fF w).toNat with
  | 0 => .ok (.afadd (fD w) (fA w) (fB w) (fG w))
  | 1 => .ok (.abfadd (fD w) (fA w) (fB w) (fG w))
  | 2 => .ok (.abfsr (fD w) (fA w) (fB w) (fG w))
  | _ => .error .function

/-- R59, OP 0x19: futures. -/
def decFut (w : BitVec 32) : Except DecodeErr Instr :=
  match (fF w).toNat with
  | 0 => chk (fD w = 0) (.fsetv (fA w) (fB w) (fG w))
  | 1 => chk (fD w = 0) (.fsetvR (fA w) (fB w) (fG w))
  | 2 => chk (fB w = 0) (.fgetv (fD w) (fA w) (fG w))
  | 3 => chk (fB w = 0) (.ftake (fD w) (fA w) (fG w))
  | _ => .error .function

/-- R60, R61, OP 0x1A: kind in [15:13], scope in [12:9], [8:3] reserved. -/
def decFence (w : BitVec 32) : Except DecodeErr Instr :=
  let s := (fI13 w).extractLsb' 6 4
  let low := (fI13 w).extractLsb' 0 6
  let k (c : BitVec 4 → BitVec 3 → Instr) : Except DecodeErr Instr :=
    if 10 < s.toNat then .error .function
    else chk (fD w = 0 ∧ fA w = 0 ∧ low = 0) (c s (fG w))
  match ((fI13 w).extractLsb' 10 3).toNat with
  | 0 => k .fenceAcq
  | 1 => k .fenceRel
  | 2 => k .fenceFull
  | 3 => k .fencePub
  | 4 => if s ≠ 11 then .error .function else chk (fD w = 0 ∧ fA w = 0 ∧ low = 0) (.fencePers (fG w))
  | 5 => chk (s = 0 ∧ low = 0) (.waitv (fD w) (fA w) (fG w))
  | _ => .error .function

/-- R59, OP 0x1B: F[7:4] operation, F[3] reserved, F[2:0] ring or barrier. -/
def decRing (w : BitVec 32) : Except DecodeErr Instr :=
  let r := (fF w).extractLsb' 0 3
  let f3 : Bool := (fF w).getLsbD 3
  match ((fF w).extractLsb' 4 4).toNat with
  | 0 => if 3 < r.toNat then .error .function
         else chk (f3 = false ∧ fD w = 0 ∧ fB w = 0) (.rsend (fA w) r (fG w))
  | 1 => if 3 < r.toNat then .error .function
         else chk (f3 = false ∧ fA w = 0 ∧ fB w = 0) (.rrecv (fD w) r (fG w))
  | 2 => if 3 < r.toNat then .error .function
         else chk (f3 = false ∧ predOk (fD w) ∧ fA w = 0 ∧ fB w = 0) (.rpoll (fPD w) r (fG w))
  | 3 => chk (f3 = false ∧ fD w = 0 ∧ fA w = 0 ∧ fB w = 0) (.carrive r (fG w))
  | 4 => chk (f3 = false ∧ fD w = 0 ∧ fA w = 0 ∧ fB w = 0) (.cwait r (fG w))
  | _ => .error .function

/-- R58, OP 0x20: BT in [25:23], DISP20 in [22:3]. -/
def decPbr (w : BitVec 32) : Except DecodeErr Instr := .ok (.pbr (fBT w) (w.extractLsb' 3 20) (fG w))

/-- R58, OP 0x21: the target register in [22:18], [17:3] reserved. -/
def decPbrr (w : BitVec 32) : Except DecodeErr Instr :=
  chk (w.extractLsb' 3 15 = 0) (.pbrr (fBT w) (w.extractLsb' 18 5) (fG w))

/-- R58, OP 0x22: P in [22:20], NEG [19], L [18], [17:3] reserved. -/
def decBr (w : BitVec 32) : Except DecodeErr Instr :=
  let p := w.extractLsb' 20 3
  let n := w.extractLsb' 19 1
  chk (w.extractLsb' 3 15 = 0) (if w.getLsbD 18 then .brl (fBT w) p n (fG w) else .br (fBT w) p n (fG w))

/-- R58, OP 0x23: SWP [15], ST [14:13], [12:3] reserved; SWP = 0 wants ST = 0 and SWP = 1 wants
ST nonzero. -/
def decLoop (w : BitVec 32) : Except DecodeErr Instr :=
  let st := w.extractLsb' 13 2
  let swp := w.getLsbD 15
  if (swp && decide (st = 0)) || (!swp && decide (st ≠ 0)) then .error .loopForm
  else chk (w.extractLsb' 3 10 = 0)
    (if swp then .loopSwp (fBT w) (fLC w) (fA w) st (fG w) else .loop (fBT w) (fLC w) (fA w) (fG w))

/-- R58, OP 0x24: lc in [22:21]; F = 0. -/
def decLbrk (w : BitVec 32) : Except DecodeErr Instr :=
  if fF w ≠ 0 then .error .function
  else chk (w.extractLsb' 23 3 = 0 ∧ fA w = 0 ∧ fB w = 0) (.lbrk (fLC w) (fG w))

/-- R59, OP 0x28: count - 1 in F[2:0]. -/
def decEnq (w : BitVec 32) : Except DecodeErr Instr :=
  if 5 < (fD w).toNat then .error .engineCode
  else chk ((fF w).extractLsb' 3 5 = 0) (.enq (fD w) (fA w) (fB w) ((fF w).extractLsb' 0 3) (fG w))

/-- R59, OP 0x29. -/
def decEnqs (w : BitVec 32) : Except DecodeErr Instr :=
  if 5 < (fD w).toNat then .error .engineCode
  else if fF w ≠ 0 then .error .function
  else .ok (.enqs (fD w) (fA w) (fB w) (fG w))

/-- R59, R67, OP 0x2A: engine control; LEASE and LREL want E = 2. -/
def decEngCtl (w : BitVec 32) : Except DecodeErr Instr :=
  if 5 < (fD w).toNat then .error .engineCode
  else match (fF w).toNat with
  | 0 => chk (predOk (fA w) ∧ fB w = 0) (.ebusy (fD w) ((fA w).extractLsb' 0 3) (fG w))
  | 1 => chk (fA w = 0 ∧ fB w = 0) (.efence (fD w) (fG w))
  | 2 => chk (fB w = 0) (.estat (fD w) (fA w) (fG w))
  | 3 => if fD w ≠ 2 then .error .engineCode else chk (fA w = 0 ∧ fB w = 0) (.lease (fG w))
  | 4 => if fD w ≠ 2 then .error .engineCode else chk (fA w = 0 ∧ fB w = 0) (.lrel (fG w))
  | _ => .error .function

/-- R59, OP 0x2B: semaphores; B names the semaphore. -/
def decSem (w : BitVec 32) : Except DecodeErr Instr :=
  match (fF w).toNat with
  | 0 => chk (fD w = 0) (.kwait (fA w) (fB w) (fG w))
  | 1 => chk (fD w = 0) (.ksig (fA w) (fB w) (fG w))
  | 2 => chk (fD w = 0) (.kset (fA w) (fB w) (fG w))
  | 3 => chk (fA w = 0) (.kread (fD w) (fB w) (fG w))
  | _ => .error .function

/-- R59, OP 0x2C: F[7:6] operation, F[5:0] queue; an insert has W in D[3] and its predicate in
D[2:0]. -/
def decChurn (w : BitVec 32) : Except DecodeErr Instr :=
  let q := (fF w).extractLsb' 0 6
  match ((fF w).extractLsb' 6 2).toNat with
  | 0 => chk ((fD w).getLsbD 4 = false)
      (if (fD w).getLsbD 3 then .chinsw (fPD w) (fA w) (fB w) q (fG w) else .chins (fPD w) (fA w) (fB w) q (fG w))
  | 1 => chk (fB w = 0) (.chtake (fD w) (fA w) q (fG w))
  | 2 => chk (fD w = 0 ∧ fB w = 0) (.chdone (fA w) q (fG w))
  | _ => .ok (.chcfg (fD w) (fA w) (fB w) q (fG w))

/-- R59, OP 0x2D: long activities. -/
def decLa (w : BitVec 32) : Except DecodeErr Instr :=
  match (fF w).toNat with
  | 0 => chk (fB w = 0) (.labegin (fD w) (fA w) (fG w))
  | 1 => .ok (.lastep (fD w) (fA w) (fB w) (fG w))
  | 2 => chk (fA w = 0 ∧ fB w = 0) (.laend (fD w) (fG w))
  | 3 => chk (fA w = 0 ∧ fB w = 0) (.laabort (fD w) (fG w))
  | 4 => .ok (.lactl (fD w) (fA w) (fB w) (fG w))
  | 5 => chk (fB w = 0) (.laq (fD w) (fA w) (fG w))
  | _ => .error .function

/-- R60, OP 0x2E: [15:14] operation, [13:11] reserved, [10:3] level: 1-116 of PACQ, 0 of PREL (R416). -/
def decPower (w : BitVec 32) : Except DecodeErr Instr :=
  let l := (fI13 w).extractLsb' 0 8
  match ((fI13 w).extractLsb' 11 2).toNat with
  | 0 => chk (fD w = 0 ∧ fA w = 0 ∧ (fI13 w).extractLsb' 8 3 = 0 ∧ pacqOk l) (.pacq l (fG w))
  | 1 => chk (fD w = 0 ∧ fA w = 0 ∧ (fI13 w).extractLsb' 8 3 = 0 ∧ l = 0) (.prel (fG w))
  | _ => .error .function

/-- R60, R62, OP 0x30: [15:14] operation, CRID in [13:3]. -/
def decCr (w : BitVec 32) : Except DecodeErr Instr :=
  let r := (fI13 w).extractLsb' 0 11
  if cridOk r = false then .error .crid
  else match ((fI13 w).extractLsb' 11 2).toNat with
  | 0 => chk (fA w = 0) (.crr (fD w) r (fG w))
  | 1 => .ok (.crw (fD w) (fA w) r (fG w))
  | 2 => .ok (.crs (fD w) (fA w) r (fG w))
  | _ => .ok (.crc (fD w) (fA w) r (fG w))

/-- R60, OP 0x31: [15:13] operation, [12:3] operand. -/
def decSys (w : BitVec 32) : Except DecodeErr Instr :=
  let o := (fI13 w).extractLsb' 0 10
  match ((fI13 w).extractLsb' 10 3).toNat with
  | 0 => chk (fD w = 0 ∧ fA w = 0) (.trap o (fG w))
  | 1 => chk (fD w = 0 ∧ fA w = 0 ∧ o = 0) (.tret (fG w))
  | 2 => chk (fD w = 0 ∧ fA w = 0 ∧ o = 0) (.yield (fG w))
  | 3 => chk (fD w = 0 ∧ fA w = 0 ∧ o = 0) (.wfe (fG w))
  | 4 => chk (fD w = 0 ∧ o.extractLsb' 2 8 = 0) (.cancel (fA w) (o.extractLsb' 0 2) (fG w))
  | _ => .error .function

/-- R57, R58: decode a scalar instruction word; every word is an instruction or is rejected by
name. A context turns a rejection into ILLOP (R66). -/
def decode32 (w : BitVec 32) : Except DecodeErr Instr :=
  match (fOp w).toNat with
  | 0x01 => decAlu w
  | 0x02 => .ok (.addi (fD w) (fA w) (fI13 w) (fG w))
  | 0x03 => .ok (.andi (fD w) (fA w) (fI13 w) (fG w))
  | 0x04 => .ok (.ori (fD w) (fA w) (fI13 w) (fG w))
  | 0x05 => .ok (.xori (fD w) (fA w) (fI13 w) (fG w))
  | 0x06 => decShift w
  | 0x07 => .ok (.li (fD w) (fI18 w) (fG w))
  | 0x08 => .ok (.lih (fD w) (fI18 w) (fG w))
  | 0x09 => decMul w
  | 0x0A => decCmp w
  | 0x0B => decCmpi w
  | 0x0C => decPred w
  | 0x0D => decFp w
  | 0x0E => decCvt w
  | 0x10 => decLoad w
  | 0x11 => decSized .st w
  | 0x12 => decSized .lds w
  | 0x13 => decSized .sts w
  | 0x14 => decMap w
  | 0x15 => decTile w
  | 0x16 => decAmo w
  | 0x17 => decCas w
  | 0x18 => decAfp w
  | 0x19 => decFut w
  | 0x1A => decFence w
  | 0x1B => decRing w
  | 0x20 => decPbr w
  | 0x21 => decPbrr w
  | 0x22 => decBr w
  | 0x23 => decLoop w
  | 0x24 => decLbrk w
  | 0x28 => decEnq w
  | 0x29 => decEnqs w
  | 0x2A => decEngCtl w
  | 0x2B => decSem w
  | 0x2C => decChurn w
  | 0x2D => decLa w
  | 0x2E => decPower w
  | 0x30 => decCr w
  | 0x31 => decSys w
  | _ => .error .opcode

/-- R65: the launch words of class LD. -/
def launchLd (opc : Nat) (f : BitVec 6) : Except DecodeErr Instr :=
  match opc with
  | 0x00 => .ok (.ldT f)
  | 0x01 => .ok (.ldG f)
  | 0x02 => .ok (.ldM f)
  | 0x03 => .ok (.ldS f)
  | 0x04 => .ok (.ldR f)
  | 0x05 => .ok (.pf f)
  | _ => .error .opc7

/-- R65: the launch words of class ST. -/
def launchSt (opc : Nat) (f : BitVec 6) : Except DecodeErr Instr :=
  match opc with
  | 0x00 => .ok (.stT f)
  | 0x01 => .ok (.stS f)
  | 0x02 => .ok (.stCv f)
  | 0x03 => .ok (.stZ f)
  | _ => .error .opc7

/-- R65: the launch words of class MX. -/
def launchMx (opc : Nat) (f : BitVec 6) : Except DecodeErr Instr :=
  match opc with
  | 0x00 => .ok (.mma f)
  | 0x01 => .ok (.mzero f)
  | 0x02 => .ok (.mloadc f)
  | 0x03 => .ok (.mdrain f)
  | 0x04 => .ok (.mpark f)
  | 0x05 => .ok (.munpark f)
  | 0x06 => .ok (.msyrk f)
  | 0x07 => .ok (.mflags f)
  | 0x10 => .ok (.mchol f)
  | 0x11 => .ok (.mlu f)
  | 0x12 => .ok (.mtrsm f)
  | 0x13 => .ok (.mtrinv f)
  | 0x14 => .ok (.mgqr f)
  | 0x15 => .ok (.mqapply f)
  | 0x16 => .ok (.mperm f)
  | 0x17 => .ok (.mdiag f)
  | _ => .error .opc7

/-- R65: the launch words of class VX. -/
def launchVx (opc : Nat) (f : BitVec 6) : Except DecodeErr Instr :=
  match opc with
  | 0x00 => .ok (.vld f)
  | 0x01 => .ok (.vst f)
  | 0x02 => .ok (.vldrb f)
  | 0x03 => .ok (.vshp f)
  | 0x04 => .ok (.vadd f)
  | 0x05 => .ok (.vsub f)
  | 0x06 => .ok (.vmul f)
  | 0x07 => .ok (.vfma f)
  | 0x08 => .ok (.vdiv f)
  | 0x09 => .ok (.vmin f)
  | 0x0A => .ok (.vmax f)
  | 0x0B => .ok (.vabs f)
  | 0x0C => .ok (.vneg f)
  | 0x0D => .ok (.vcmp f)
  | 0x0E => .ok (.vsel f)
  | 0x0F => .ok (.vcvt f)
  | 0x10 => .ok (.vred f)
  | 0x11 => .ok (.vbcast f)
  | 0x12 => .ok (.vtrans f)
  | 0x13 => .ok (.vand f)
  | 0x14 => .ok (.vor f)
  | 0x15 => .ok (.vxor f)
  | 0x16 => .ok (.vshl f)
  | 0x17 => .ok (.vshr f)
  | 0x18 => .ok (.vexp f)
  | 0x19 => .ok (.vrcp f)
  | 0x1A => .ok (.vrsq f)
  | 0x1B => .ok (.viota f)
  | 0x1C => .ok (.vclip f)
  | 0x1D => .ok (.vscale f)
  | 0x1E => .ok (.vpoisq f)
  | 0x1F => .ok (.vmovs f)
  | _ => .error .opc7

/-- R65: the launch words of class RW. -/
def launchRw (opc : Nat) (f : BitVec 6) : Except DecodeErr Instr :=
  match opc with
  | 0x00 => .ok (.rmax f)
  | 0x01 => .ok (.rexpsum f)
  | 0x02 => .ok (.rscale f)
  | 0x03 => .ok (.rmean f)
  | 0x04 => .ok (.rvar f)
  | 0x05 => .ok (.rnorm f)
  | 0x06 => .ok (.rmask f)
  | 0x07 => .ok (.rttab f)
  | _ => .error .opc7

/-- R65: the launch words of class CP. -/
def launchCp (opc : Nat) (f : BitVec 6) : Except DecodeErr Instr :=
  match opc with
  | 0x00 => .ok (.cpy f)
  | 0x01 => .ok (.cpy2 f)
  | 0x02 => .ok (.cpyt f)
  | 0x03 => .ok (.gath f)
  | 0x04 => .ok (.scat f)
  | 0x05 => .ok (.cconv f)
  | 0x06 => .ok (.mcast f)
  | 0x07 => .ok (.rsts f)
  | 0x08 => .ok (.cred f)
  | 0x09 => .ok (.cfill f)
  | 0x0A => .ok (.cchk f)
  | 0x0B => .ok (.cchins f)
  | 0x0C => .ok (.cwake f)
  | _ => .error .opc7

/-- R64: the control words; a kind without an operand wants its operand bits 0. -/
def decControl (w : BitVec 16) : Except DecodeErr Instr :=
  let o := w.extractLsb' 0 10
  match (w.extractLsb' 10 4).toNat with
  | 0 => chk (o = 0) .nop
  | 1 => chk (o = 0) .dup
  | 2 => chk (o = 0) .drop
  | 3 => chk (o = 0) .swap
  | 4 => chk (o = 0) .overW
  | 5 => chk (o = 0) .rot
  | 6 => chk (o.extractLsb' 0 5 = 0) (.waitk (o.extractLsb' 5 5))
  | 7 => chk (o.extractLsb' 0 5 = 0) (.sigk (o.extractLsb' 5 5))
  | 8 => chk (o = 0) .pred
  | 9 => chk (o = 0) .atSlot
  | 10 =>
    if o.extractLsb' 7 3 = 6 ∨ o.extractLsb' 4 3 = 6 then .error .control
    else chk (o.extractLsb' 0 4 = 0) (.nsel (o.extractLsb' 7 3) (o.extractLsb' 4 3))
  | 11 => .ok (.mark o)
  | _ => .error .control

/-- R63, R65: decode an engine word held by a queue of class `e`. -/
def decode16 (e : Eng) (w : BitVec 16) : Except DecodeErr Instr :=
  match (w.extractLsb' 14 2).toNat with
  | 3 => .ok (.lit (w.extractLsb' 0 14))
  | 2 => .ok (.ext (w.extractLsb' 0 14))
  | 0 => decControl w
  | _ =>
    let opc := (w.extractLsb' 7 7).toNat
    let f := w.extractLsb' 1 6
    let r := match e with
      | .ld => launchLd opc f
      | .st => launchSt opc f
      | .mx => launchMx opc f
      | .vx => launchVx opc f
      | .rw => launchRw opc f
      | .cp => launchCp opc f
    match r with
    | .error x => .error x
    | .ok i => chk (w.getLsbD 0 = false) i

/-- What an instruction is encoded as: one 32-bit word, one 16-bit word, or nothing (an event). -/
inductive Code where
  | w32 (w : BitVec 32)
  | w16 (w : BitVec 16)
  | event
  deriving DecidableEq, Repr

/-- R55: formats A and Q; I, M and S; U; B. -/
def encA (op : BitVec 6) (d a b : BitVec 5) (f : BitVec 8) (g : BitVec 3) : BitVec 32 :=
  op ++ d ++ a ++ b ++ f ++ g
def encI (op : BitVec 6) (d a : BitVec 5) (i : BitVec 13) (g : BitVec 3) : BitVec 32 :=
  op ++ d ++ a ++ i ++ g
def encU (op : BitVec 6) (d : BitVec 5) (i : BitVec 18) (g : BitVec 3) : BitVec 32 :=
  op ++ d ++ i ++ g
def encB (op : BitVec 6) (t : BitVec 3) (i : BitVec 20) (g : BitVec 3) : BitVec 32 :=
  op ++ t ++ i ++ g

/-- R63: a launch word. -/
def encL (opc : BitVec 7) (f : BitVec 6) : BitVec 16 := 1#2 ++ opc ++ f ++ 0#1

/-- The word of a well-formed instruction (R55-R65). -/
def encode : Instr → Code
  | .add d a b g => .w32 (encA 0x01 d a b 0x00 g)
  | .sub d a b g => .w32 (encA 0x01 d a b 0x01 g)
  | .and d a b g => .w32 (encA 0x01 d a b 0x02 g)
  | .or d a b g => .w32 (encA 0x01 d a b 0x03 g)
  | .xor d a b g => .w32 (encA 0x01 d a b 0x04 g)
  | .andn d a b g => .w32 (encA 0x01 d a b 0x05 g)
  | .shl d a b g => .w32 (encA 0x01 d a b 0x06 g)
  | .shr d a b g => .w32 (encA 0x01 d a b 0x07 g)
  | .sar d a b g => .w32 (encA 0x01 d a b 0x08 g)
  | .rol d a b g => .w32 (encA 0x01 d a b 0x09 g)
  | .min d a b g => .w32 (encA 0x01 d a b 0x0A g)
  | .max d a b g => .w32 (encA 0x01 d a b 0x0B g)
  | .minu d a b g => .w32 (encA 0x01 d a b 0x0C g)
  | .maxu d a b g => .w32 (encA 0x01 d a b 0x0D g)
  | .clz d a g => .w32 (encA 0x01 d a 0 0x0E g)
  | .ctz d a g => .w32 (encA 0x01 d a 0 0x0F g)
  | .popc d a g => .w32 (encA 0x01 d a 0 0x10 g)
  | .sextB d a g => .w32 (encA 0x01 d a 0 0x11 g)
  | .sextH d a g => .w32 (encA 0x01 d a 0 0x12 g)
  | .sextW d a g => .w32 (encA 0x01 d a 0 0x13 g)
  | .zextB d a g => .w32 (encA 0x01 d a 0 0x14 g)
  | .zextH d a g => .w32 (encA 0x01 d a 0 0x15 g)
  | .zextW d a g => .w32 (encA 0x01 d a 0 0x16 g)
  | .shadd1 d a b g => .w32 (encA 0x01 d a b 0x18 g)
  | .shadd2 d a b g => .w32 (encA 0x01 d a b 0x19 g)
  | .shadd3 d a b g => .w32 (encA 0x01 d a b 0x1A g)
  | .shadd4 d a b g => .w32 (encA 0x01 d a b 0x1B g)
  | .addi d a i g => .w32 (encI 0x02 d a i g)
  | .andi d a i g => .w32 (encI 0x03 d a i g)
  | .ori d a i g => .w32 (encI 0x04 d a i g)
  | .xori d a i g => .w32 (encI 0x05 d a i g)
  | .shli d a s g => .w32 (encI 0x06 d a (0#2 ++ 0#5 ++ s) g)
  | .shri d a s g => .w32 (encI 0x06 d a (1#2 ++ 0#5 ++ s) g)
  | .sari d a s g => .w32 (encI 0x06 d a (2#2 ++ 0#5 ++ s) g)
  | .li d i g => .w32 (encU 0x07 d i g)
  | .lih d i g => .w32 (encU 0x08 d i g)
  | .mul d a b g => .w32 (encA 0x09 d a b 0x00 g)
  | .mulh d a b g => .w32 (encA 0x09 d a b 0x01 g)
  | .mulhu d a b g => .w32 (encA 0x09 d a b 0x02 g)
  | .div d a b g => .w32 (encA 0x09 d a b 0x04 g)
  | .divu d a b g => .w32 (encA 0x09 d a b 0x05 g)
  | .rem d a b g => .w32 (encA 0x09 d a b 0x06 g)
  | .remu d a b g => .w32 (encA 0x09 d a b 0x07 g)
  | .cmp d a b c g => .w32 (encA 0x0A (0#2 ++ d) a b (0#5 ++ c) g)
  | .cmpi d a c i g => .w32 (encI 0x0B (0#2 ++ d) a (c ++ i) g)
  | .plog d a b t g => .w32 (encA 0x0C (0#2 ++ d) (0#2 ++ a) (0#2 ++ b) (0#4 ++ t) g)
  | .pset d a g => .w32 (encA 0x0C (0#2 ++ d) a 0 0x10 g)
  | .sel d a b n g => .w32 (encA 0x0C d a b (4#5 ++ n) g)
  | .fadd d a b g => .w32 (encA 0x0D d a b 0x00 g)
  | .fsub d a b g => .w32 (encA 0x0D d a b 0x01 g)
  | .fmul d a b g => .w32 (encA 0x0D d a b 0x02 g)
  | .ffma d a b g => .w32 (encA 0x0D d a b 0x03 g)
  | .fdiv d a b g => .w32 (encA 0x0D d a b 0x04 g)
  | .fsqrt d a g => .w32 (encA 0x0D d a 0 0x05 g)
  | .fmin d a b g => .w32 (encA 0x0D d a b 0x06 g)
  | .fmax d a b g => .w32 (encA 0x0D d a b 0x07 g)
  | .fsgnJ d a b g => .w32 (encA 0x0D d a b 0x08 g)
  | .fsgnN d a b g => .w32 (encA 0x0D d a b 0x09 g)
  | .fsgnX d a b g => .w32 (encA 0x0D d a b 0x0A g)
  | .fcmpEq d a b g => .w32 (encA 0x0D (0#2 ++ d) a b 0x10 g)
  | .fcmpNe d a b g => .w32 (encA 0x0D (0#2 ++ d) a b 0x11 g)
  | .fcmpLt d a b g => .w32 (encA 0x0D (0#2 ++ d) a b 0x12 g)
  | .fcmpGe d a b g => .w32 (encA 0x0D (0#2 ++ d) a b 0x13 g)
  | .fcvtFI d a g => .w32 (encA 0x0E d a 0 0x00 g)
  | .fcvtFIu d a g => .w32 (encA 0x0E d a 0 0x01 g)
  | .fcvtIF d a g => .w32 (encA 0x0E d a 0 0x02 g)
  | .fcvtIuF d a g => .w32 (encA 0x0E d a 0 0x03 g)
  | .fcvtFB d a g => .w32 (encA 0x0E d a 0 0x04 g)
  | .fcvtBF d a g => .w32 (encA 0x0E d a 0 0x05 g)
  | .fclass d a g => .w32 (encA 0x0E d a 0 0x08 g)
  | .ld d a w o g => .w32 (encI 0x10 d a ((0#1 ++ w) ++ o) g)
  | .lduB d a o g => .w32 (encI 0x10 d a (4#3 ++ o) g)
  | .lduH d a o g => .w32 (encI 0x10 d a (5#3 ++ o) g)
  | .lduW d a o g => .w32 (encI 0x10 d a (6#3 ++ o) g)
  | .pref l a o g => .w32 (encI 0x10 l a (7#3 ++ o) g)
  | .st d a w o g => .w32 (encI 0x11 d a ((0#1 ++ w) ++ o) g)
  | .lds d a w o g => .w32 (encI 0x12 d a ((0#1 ++ w) ++ o) g)
  | .sts d a w o g => .w32 (encI 0x13 d a ((0#1 ++ w) ++ o) g)
  | .smap d a b g => .w32 (encA 0x14 d a b 0x00 g)
  | .sunmap a g => .w32 (encA 0x14 0 a 0 0x01 g)
  | .sflush a b g => .w32 (encA 0x14 0 a b 0x02 g)
  | .sinv a b g => .w32 (encA 0x14 0 a b 0x03 g)
  | .ttset d a b t g => .w32 (encA 0x15 d a b (0#2 ++ t) g)
  | .ttq d t g => .w32 (encA 0x15 d 0 0 (1#2 ++ t) g)
  | .twait w t g => .w32 (encA 0x15 (0#3 ++ w ++ 0#1) 0 0 (2#2 ++ t) g)
  | .tdesc d s t g => .w32 (encA 0x15 d (0#4 ++ s) 0 (3#2 ++ t) g)
  | .amoAdd d a b z g => .w32 (encA 0x16 d a b (0#3 ++ z ++ 0#4) g)
  | .amoAnd d a b z g => .w32 (encA 0x16 d a b (0#3 ++ z ++ 1#4) g)
  | .amoOr d a b z g => .w32 (encA 0x16 d a b (0#3 ++ z ++ 2#4) g)
  | .amoXor d a b z g => .w32 (encA 0x16 d a b (0#3 ++ z ++ 3#4) g)
  | .amoMin d a b z g => .w32 (encA 0x16 d a b (0#3 ++ z ++ 4#4) g)
  | .amoMax d a b z g => .w32 (encA 0x16 d a b (0#3 ++ z ++ 5#4) g)
  | .amoMinu d a b z g => .w32 (encA 0x16 d a b (0#3 ++ z ++ 6#4) g)
  | .amoMaxu d a b z g => .w32 (encA 0x16 d a b (0#3 ++ z ++ 7#4) g)
  | .amoSwap d a b z g => .w32 (encA 0x16 d a b (0#3 ++ z ++ 8#4) g)
  | .cas d a b z g => .w32 (encA 0x17 d a b (0#7 ++ z) g)
  | .afadd d a b g => .w32 (encA 0x18 d a b 0x00 g)
  | .abfadd d a b g => .w32 (encA 0x18 d a b 0x01 g)
  | .abfsr d a b g => .w32 (encA 0x18 d a b 0x02 g)
  | .fsetv a b g => .w32 (encA 0x19 0 a b 0x00 g)
  | .fsetvR a b g => .w32 (encA 0x19 0 a b 0x01 g)
  | .fgetv d a g => .w32 (encA 0x19 d a 0 0x02 g)
  | .ftake d a g => .w32 (encA 0x19 d a 0 0x03 g)
  | .fenceAcq s g => .w32 (encI 0x1A 0 0 (0#3 ++ s ++ 0#6) g)
  | .fenceRel s g => .w32 (encI 0x1A 0 0 (1#3 ++ s ++ 0#6) g)
  | .fenceFull s g => .w32 (encI 0x1A 0 0 (2#3 ++ s ++ 0#6) g)
  | .fencePub s g => .w32 (encI 0x1A 0 0 (3#3 ++ s ++ 0#6) g)
  | .fencePers g => .w32 (encI 0x1A 0 0 (4#3 ++ 11#4 ++ 0#6) g)
  | .waitv d a g => .w32 (encI 0x1A d a (5#3 ++ 0#4 ++ 0#6) g)
  | .rsend a r g => .w32 (encA 0x1B 0 a 0 (0#4 ++ 0#1 ++ r) g)
  | .rrecv d r g => .w32 (encA 0x1B d 0 0 (1#4 ++ 0#1 ++ r) g)
  | .rpoll d r g => .w32 (encA 0x1B (0#2 ++ d) 0 0 (2#4 ++ 0#1 ++ r) g)
  | .carrive n g => .w32 (encA 0x1B 0 0 0 (3#4 ++ 0#1 ++ n) g)
  | .cwait n g => .w32 (encA 0x1B 0 0 0 (4#4 ++ 0#1 ++ n) g)
  | .pbr t i g => .w32 (encB 0x20 t i g)
  | .pbrr t a g => .w32 (encB 0x21 t (a ++ 0#15) g)
  | .br t p n g => .w32 (encB 0x22 t (p ++ n ++ 0#1 ++ 0#15) g)
  | .brl t p n g => .w32 (encB 0x22 t (p ++ n ++ 1#1 ++ 0#15) g)
  | .loop t c a g => .w32 (encI 0x23 (t ++ c) a (0#1 ++ 0#2 ++ 0#10) g)
  | .loopSwp t c a s g => .w32 (encI 0x23 (t ++ c) a (1#1 ++ s ++ 0#10) g)
  | .lbrk c g => .w32 (encA 0x24 (0#3 ++ c) 0 0 0 g)
  | .enq e a b n g => .w32 (encA 0x28 e a b (0#5 ++ n) g)
  | .enqs e a b g => .w32 (encA 0x29 e a b 0 g)
  | .ebusy e p g => .w32 (encA 0x2A e (0#2 ++ p) 0 0 g)
  | .efence e g => .w32 (encA 0x2A e 0 0 1 g)
  | .estat e d g => .w32 (encA 0x2A e d 0 2 g)
  | .lease g => .w32 (encA 0x2A 2 0 0 3 g)
  | .lrel g => .w32 (encA 0x2A 2 0 0 4 g)
  | .kwait a k g => .w32 (encA 0x2B 0 a k 0x00 g)
  | .ksig a k g => .w32 (encA 0x2B 0 a k 0x01 g)
  | .kset a k g => .w32 (encA 0x2B 0 a k 0x02 g)
  | .kread d k g => .w32 (encA 0x2B d 0 k 0x03 g)
  | .chins p a b q g => .w32 (encA 0x2C (0#1 ++ 0#1 ++ p) a b (0#2 ++ q) g)
  | .chinsw p a b q g => .w32 (encA 0x2C (0#1 ++ 1#1 ++ p) a b (0#2 ++ q) g)
  | .chtake d a q g => .w32 (encA 0x2C d a 0 (1#2 ++ q) g)
  | .chdone a q g => .w32 (encA 0x2C 0 a 0 (2#2 ++ q) g)
  | .chcfg d a b q g => .w32 (encA 0x2C d a b (3#2 ++ q) g)
  | .labegin d a g => .w32 (encA 0x2D d a 0 0x00 g)
  | .lastep d a b g => .w32 (encA 0x2D d a b 0x01 g)
  | .laend d g => .w32 (encA 0x2D d 0 0 0x02 g)
  | .laabort d g => .w32 (encA 0x2D d 0 0 0x03 g)
  | .lactl d a b g => .w32 (encA 0x2D d a b 0x04 g)
  | .laq d a g => .w32 (encA 0x2D d a 0 0x05 g)
  | .pacq l g => .w32 (encI 0x2E 0 0 (0#2 ++ 0#3 ++ l) g)
  | .prel g => .w32 (encI 0x2E 0 0 (1#2 ++ 0#3 ++ 0#8) g)
  | .crr d r g => .w32 (encI 0x30 d 0 (0#2 ++ r) g)
  | .crw d a r g => .w32 (encI 0x30 d a (1#2 ++ r) g)
  | .crs d a r g => .w32 (encI 0x30 d a (2#2 ++ r) g)
  | .crc d a r g => .w32 (encI 0x30 d a (3#2 ++ r) g)
  | .trap c g => .w32 (encI 0x31 0 0 (0#3 ++ c) g)
  | .tret g => .w32 (encI 0x31 0 0 (1#3 ++ 0#10) g)
  | .yield g => .w32 (encI 0x31 0 0 (2#3 ++ 0#10) g)
  | .wfe g => .w32 (encI 0x31 0 0 (3#3 ++ 0#10) g)
  | .cancel a l g => .w32 (encI 0x31 0 a (4#3 ++ 0#8 ++ l) g)
  | .lit i => .w16 (3#2 ++ i)
  | .ext i => .w16 (2#2 ++ i)
  | .nop => .w16 (0#2 ++ 0#4 ++ 0#10)
  | .dup => .w16 (0#2 ++ 1#4 ++ 0#10)
  | .drop => .w16 (0#2 ++ 2#4 ++ 0#10)
  | .swap => .w16 (0#2 ++ 3#4 ++ 0#10)
  | .overW => .w16 (0#2 ++ 4#4 ++ 0#10)
  | .rot => .w16 (0#2 ++ 5#4 ++ 0#10)
  | .waitk k => .w16 (0#2 ++ 6#4 ++ (k ++ 0#5))
  | .sigk k => .w16 (0#2 ++ 7#4 ++ (k ++ 0#5))
  | .pred => .w16 (0#2 ++ 8#4 ++ 0#10)
  | .atSlot => .w16 (0#2 ++ 9#4 ++ 0#10)
  | .nsel u v => .w16 (0#2 ++ 10#4 ++ (u ++ v ++ 0#4))
  | .mark m => .w16 (0#2 ++ 11#4 ++ m)
  | .ldT f => .w16 (encL 0x00 f)
  | .ldG f => .w16 (encL 0x01 f)
  | .ldM f => .w16 (encL 0x02 f)
  | .ldS f => .w16 (encL 0x03 f)
  | .ldR f => .w16 (encL 0x04 f)
  | .pf f => .w16 (encL 0x05 f)
  | .stT f => .w16 (encL 0x00 f)
  | .stS f => .w16 (encL 0x01 f)
  | .stCv f => .w16 (encL 0x02 f)
  | .stZ f => .w16 (encL 0x03 f)
  | .mma f => .w16 (encL 0x00 f)
  | .mzero f => .w16 (encL 0x01 f)
  | .mloadc f => .w16 (encL 0x02 f)
  | .mdrain f => .w16 (encL 0x03 f)
  | .mpark f => .w16 (encL 0x04 f)
  | .munpark f => .w16 (encL 0x05 f)
  | .msyrk f => .w16 (encL 0x06 f)
  | .mflags f => .w16 (encL 0x07 f)
  | .mchol f => .w16 (encL 0x10 f)
  | .mlu f => .w16 (encL 0x11 f)
  | .mtrsm f => .w16 (encL 0x12 f)
  | .mtrinv f => .w16 (encL 0x13 f)
  | .mgqr f => .w16 (encL 0x14 f)
  | .mqapply f => .w16 (encL 0x15 f)
  | .mperm f => .w16 (encL 0x16 f)
  | .mdiag f => .w16 (encL 0x17 f)
  | .vld f => .w16 (encL 0x00 f)
  | .vst f => .w16 (encL 0x01 f)
  | .vldrb f => .w16 (encL 0x02 f)
  | .vshp f => .w16 (encL 0x03 f)
  | .vadd f => .w16 (encL 0x04 f)
  | .vsub f => .w16 (encL 0x05 f)
  | .vmul f => .w16 (encL 0x06 f)
  | .vfma f => .w16 (encL 0x07 f)
  | .vdiv f => .w16 (encL 0x08 f)
  | .vmin f => .w16 (encL 0x09 f)
  | .vmax f => .w16 (encL 0x0A f)
  | .vabs f => .w16 (encL 0x0B f)
  | .vneg f => .w16 (encL 0x0C f)
  | .vcmp f => .w16 (encL 0x0D f)
  | .vsel f => .w16 (encL 0x0E f)
  | .vcvt f => .w16 (encL 0x0F f)
  | .vred f => .w16 (encL 0x10 f)
  | .vbcast f => .w16 (encL 0x11 f)
  | .vtrans f => .w16 (encL 0x12 f)
  | .vand f => .w16 (encL 0x13 f)
  | .vor f => .w16 (encL 0x14 f)
  | .vxor f => .w16 (encL 0x15 f)
  | .vshl f => .w16 (encL 0x16 f)
  | .vshr f => .w16 (encL 0x17 f)
  | .vexp f => .w16 (encL 0x18 f)
  | .vrcp f => .w16 (encL 0x19 f)
  | .vrsq f => .w16 (encL 0x1A f)
  | .viota f => .w16 (encL 0x1B f)
  | .vclip f => .w16 (encL 0x1C f)
  | .vscale f => .w16 (encL 0x1D f)
  | .vpoisq f => .w16 (encL 0x1E f)
  | .vmovs f => .w16 (encL 0x1F f)
  | .rmax f => .w16 (encL 0x00 f)
  | .rexpsum f => .w16 (encL 0x01 f)
  | .rscale f => .w16 (encL 0x02 f)
  | .rmean f => .w16 (encL 0x03 f)
  | .rvar f => .w16 (encL 0x04 f)
  | .rnorm f => .w16 (encL 0x05 f)
  | .rmask f => .w16 (encL 0x06 f)
  | .rttab f => .w16 (encL 0x07 f)
  | .cpy f => .w16 (encL 0x00 f)
  | .cpy2 f => .w16 (encL 0x01 f)
  | .cpyt f => .w16 (encL 0x02 f)
  | .gath f => .w16 (encL 0x03 f)
  | .scat f => .w16 (encL 0x04 f)
  | .cconv f => .w16 (encL 0x05 f)
  | .mcast f => .w16 (encL 0x06 f)
  | .rsts f => .w16 (encL 0x07 f)
  | .cred f => .w16 (encL 0x08 f)
  | .cfill f => .w16 (encL 0x09 f)
  | .cchk f => .w16 (encL 0x0A f)
  | .cchins f => .w16 (encL 0x0B f)
  | .cwake f => .w16 (encL 0x0C f)
  | .entryCompletion _ _ => .event
  | .interrupt _ => .event
  | .engineTrapDelivery _ => .event
  | .ringSendComplete _ => .event
  | .ringReceiveComplete _ => .event
  | .kwaitRelease _ => .event
  | .cwaitRelease _ => .event
  | .twaitRelease _ => .event
  | .waitvRetest _ => .event
  | .futureWaitRelease _ => .event
  | .fenceComplete _ => .event
  | .enqSpaceAvailable _ => .event
  | .efenceComplete _ => .event
  | .leaseGrant _ => .event
  | .lrelComplete _ => .event
  | .leaseExhaustion _ => .event
  | .leaseRevocation _ => .event
  | .pacqGrant _ => .event
  | .wfeWake _ => .event
  | .chinswRetry _ => .event
  | .chargeWaitStart _ _ => .event
  | .bucketRampTick _ => .event
  | .wthreshExpiry _ => .event
  | .budgetExpiry _ => .event
  | .sliceEnd _ => .event
  | .preemptionRequest _ => .event
  | .preemptionForceStop _ => .event
  | .preemptionHang _ => .event
  | .teamSaveComplete _ => .event
  | .unitRetire _ => .event
  | .bindStage _ _ _ => .event
  | .bindUnbind _ _ => .event
  | .slotStart _ => .event
  | .graphLoad _ _ _ => .event
  | .churnBoundDispatch _ _ => .event
  | .compensationStart _ _ => .event
  | .compensationEnd _ => .event
  | .removalRequest _ => .event
  | .removalRelease _ => .event
  | .checkerMismatch _ _ => .event
  | .eccCorrectable _ => .event
  | .eccUncorrectable _ _ => .event
  | .arrayVerdict _ _ _ => .event
  | .selfTest _ _ _ => .event
  | .rpctlRecoveryPoint _ => .event
  | .rpctlRollback _ => .event
  | .rpctlSeal _ => .event
  | .recoveryRequestEnd _ => .event
  | .escapedLogThreshold _ => .event
  | .tlbiPage _ _ => .event
  | .tlbiAsid _ _ => .event
  | .tlbiAll _ => .event
  | .tlbiDone _ => .event
  | .clintWrite _ _ => .event
  | .clpctlQuiesce _ => .event
  | .clpctlRetain _ => .event
  | .clpctlOff _ => .event
  | .clpctlRun _ => .event
  | .quiescedReached _ => .event
  | .retainedReached _ => .event
  | .clretsvSave _ => .event
  | .clretsvRestore _ => .event
  | .retentionSaveDone _ => .event
  | .clgateWrite _ _ => .event
  | .clwakeWrite _ _ => .event
  | .wakeComplete _ => .event
  | .clbktWrite _ _ => .event
  | .pcapWrite _ => .event
  | .ecntWrap _ _ => .event
  | .registerWrite _ _ _ => .event
  | .submissionDoorbell _ => .event
  | .completionRingTail _ _ => .event
  | .partitionTableWrite _ _ _ _ _ => .event
  | .safeTierWrite _ _ _ _ => .event
  | .readRequest _ _ _ _ => .event
  | .readCompletion _ _ _ _ _ => .event
  | .postedWrite _ _ _ _ => .event
  | .interruptMessage => .event
  | .durableWrite _ _ _ _ _ => .event
  | .durableAcknowledgement _ _ _ => .event
  | .linkRetry _ => .event
  | .dieLinkReroute _ _ => .event
  | .peerWriteArrival _ _ _ _ => .event
  | .powerOnReset => .event
  | .bootImageVerify _ _ _ => .event
  | .crierTakeover => .event
  | .attestationRequest _ => .event
  | .teamRestoreComplete _ => .event
  | .retentionRestoreDone _ => .event
  | .firmwareMeasurement _ _ _ => .event

/-- The queue classes whose queues hold the word of an engine instruction (R63-R65). -/
def classOk (e : Eng) : Instr → Bool
  | .add _ _ _ _ => false
  | .sub _ _ _ _ => false
  | .and _ _ _ _ => false
  | .or _ _ _ _ => false
  | .xor _ _ _ _ => false
  | .andn _ _ _ _ => false
  | .shl _ _ _ _ => false
  | .shr _ _ _ _ => false
  | .sar _ _ _ _ => false
  | .rol _ _ _ _ => false
  | .min _ _ _ _ => false
  | .max _ _ _ _ => false
  | .minu _ _ _ _ => false
  | .maxu _ _ _ _ => false
  | .clz _ _ _ => false
  | .ctz _ _ _ => false
  | .popc _ _ _ => false
  | .sextB _ _ _ => false
  | .sextH _ _ _ => false
  | .sextW _ _ _ => false
  | .zextB _ _ _ => false
  | .zextH _ _ _ => false
  | .zextW _ _ _ => false
  | .shadd1 _ _ _ _ => false
  | .shadd2 _ _ _ _ => false
  | .shadd3 _ _ _ _ => false
  | .shadd4 _ _ _ _ => false
  | .addi _ _ _ _ => false
  | .andi _ _ _ _ => false
  | .ori _ _ _ _ => false
  | .xori _ _ _ _ => false
  | .shli _ _ _ _ => false
  | .shri _ _ _ _ => false
  | .sari _ _ _ _ => false
  | .li _ _ _ => false
  | .lih _ _ _ => false
  | .mul _ _ _ _ => false
  | .mulh _ _ _ _ => false
  | .mulhu _ _ _ _ => false
  | .div _ _ _ _ => false
  | .divu _ _ _ _ => false
  | .rem _ _ _ _ => false
  | .remu _ _ _ _ => false
  | .cmp _ _ _ _ _ => false
  | .cmpi _ _ _ _ _ => false
  | .plog _ _ _ _ _ => false
  | .pset _ _ _ => false
  | .sel _ _ _ _ _ => false
  | .fadd _ _ _ _ => false
  | .fsub _ _ _ _ => false
  | .fmul _ _ _ _ => false
  | .ffma _ _ _ _ => false
  | .fdiv _ _ _ _ => false
  | .fsqrt _ _ _ => false
  | .fmin _ _ _ _ => false
  | .fmax _ _ _ _ => false
  | .fsgnJ _ _ _ _ => false
  | .fsgnN _ _ _ _ => false
  | .fsgnX _ _ _ _ => false
  | .fcmpEq _ _ _ _ => false
  | .fcmpNe _ _ _ _ => false
  | .fcmpLt _ _ _ _ => false
  | .fcmpGe _ _ _ _ => false
  | .fcvtFI _ _ _ => false
  | .fcvtFIu _ _ _ => false
  | .fcvtIF _ _ _ => false
  | .fcvtIuF _ _ _ => false
  | .fcvtFB _ _ _ => false
  | .fcvtBF _ _ _ => false
  | .fclass _ _ _ => false
  | .ld _ _ _ _ _ => false
  | .lduB _ _ _ _ => false
  | .lduH _ _ _ _ => false
  | .lduW _ _ _ _ => false
  | .pref _ _ _ _ => false
  | .st _ _ _ _ _ => false
  | .lds _ _ _ _ _ => false
  | .sts _ _ _ _ _ => false
  | .smap _ _ _ _ => false
  | .sunmap _ _ => false
  | .sflush _ _ _ => false
  | .sinv _ _ _ => false
  | .ttset _ _ _ _ _ => false
  | .ttq _ _ _ => false
  | .twait _ _ _ => false
  | .tdesc _ _ _ _ => false
  | .amoAdd _ _ _ _ _ => false
  | .amoAnd _ _ _ _ _ => false
  | .amoOr _ _ _ _ _ => false
  | .amoXor _ _ _ _ _ => false
  | .amoMin _ _ _ _ _ => false
  | .amoMax _ _ _ _ _ => false
  | .amoMinu _ _ _ _ _ => false
  | .amoMaxu _ _ _ _ _ => false
  | .amoSwap _ _ _ _ _ => false
  | .cas _ _ _ _ _ => false
  | .afadd _ _ _ _ => false
  | .abfadd _ _ _ _ => false
  | .abfsr _ _ _ _ => false
  | .fsetv _ _ _ => false
  | .fsetvR _ _ _ => false
  | .fgetv _ _ _ => false
  | .ftake _ _ _ => false
  | .fenceAcq _ _ => false
  | .fenceRel _ _ => false
  | .fenceFull _ _ => false
  | .fencePub _ _ => false
  | .fencePers _ => false
  | .waitv _ _ _ => false
  | .rsend _ _ _ => false
  | .rrecv _ _ _ => false
  | .rpoll _ _ _ => false
  | .carrive _ _ => false
  | .cwait _ _ => false
  | .pbr _ _ _ => false
  | .pbrr _ _ _ => false
  | .br _ _ _ _ => false
  | .brl _ _ _ _ => false
  | .loop _ _ _ _ => false
  | .loopSwp _ _ _ _ _ => false
  | .lbrk _ _ => false
  | .enq _ _ _ _ _ => false
  | .enqs _ _ _ _ => false
  | .ebusy _ _ _ => false
  | .efence _ _ => false
  | .estat _ _ _ => false
  | .lease _ => false
  | .lrel _ => false
  | .kwait _ _ _ => false
  | .ksig _ _ _ => false
  | .kset _ _ _ => false
  | .kread _ _ _ => false
  | .chins _ _ _ _ _ => false
  | .chinsw _ _ _ _ _ => false
  | .chtake _ _ _ _ => false
  | .chdone _ _ _ => false
  | .chcfg _ _ _ _ _ => false
  | .labegin _ _ _ => false
  | .lastep _ _ _ _ => false
  | .laend _ _ => false
  | .laabort _ _ => false
  | .lactl _ _ _ _ => false
  | .laq _ _ _ => false
  | .pacq _ _ => false
  | .prel _ => false
  | .crr _ _ _ => false
  | .crw _ _ _ _ => false
  | .crs _ _ _ _ => false
  | .crc _ _ _ _ => false
  | .trap _ _ => false
  | .tret _ => false
  | .yield _ => false
  | .wfe _ => false
  | .cancel _ _ _ => false
  | .lit _ => true
  | .ext _ => true
  | .nop => true
  | .dup => true
  | .drop => true
  | .swap => true
  | .overW => true
  | .rot => true
  | .waitk _ => true
  | .sigk _ => true
  | .pred => true
  | .atSlot => true
  | .nsel _ _ => true
  | .mark _ => true
  | .ldT _ => decide (e = .ld)
  | .ldG _ => decide (e = .ld)
  | .ldM _ => decide (e = .ld)
  | .ldS _ => decide (e = .ld)
  | .ldR _ => decide (e = .ld)
  | .pf _ => decide (e = .ld)
  | .stT _ => decide (e = .st)
  | .stS _ => decide (e = .st)
  | .stCv _ => decide (e = .st)
  | .stZ _ => decide (e = .st)
  | .mma _ => decide (e = .mx)
  | .mzero _ => decide (e = .mx)
  | .mloadc _ => decide (e = .mx)
  | .mdrain _ => decide (e = .mx)
  | .mpark _ => decide (e = .mx)
  | .munpark _ => decide (e = .mx)
  | .msyrk _ => decide (e = .mx)
  | .mflags _ => decide (e = .mx)
  | .mchol _ => decide (e = .mx)
  | .mlu _ => decide (e = .mx)
  | .mtrsm _ => decide (e = .mx)
  | .mtrinv _ => decide (e = .mx)
  | .mgqr _ => decide (e = .mx)
  | .mqapply _ => decide (e = .mx)
  | .mperm _ => decide (e = .mx)
  | .mdiag _ => decide (e = .mx)
  | .vld _ => decide (e = .vx)
  | .vst _ => decide (e = .vx)
  | .vldrb _ => decide (e = .vx)
  | .vshp _ => decide (e = .vx)
  | .vadd _ => decide (e = .vx)
  | .vsub _ => decide (e = .vx)
  | .vmul _ => decide (e = .vx)
  | .vfma _ => decide (e = .vx)
  | .vdiv _ => decide (e = .vx)
  | .vmin _ => decide (e = .vx)
  | .vmax _ => decide (e = .vx)
  | .vabs _ => decide (e = .vx)
  | .vneg _ => decide (e = .vx)
  | .vcmp _ => decide (e = .vx)
  | .vsel _ => decide (e = .vx)
  | .vcvt _ => decide (e = .vx)
  | .vred _ => decide (e = .vx)
  | .vbcast _ => decide (e = .vx)
  | .vtrans _ => decide (e = .vx)
  | .vand _ => decide (e = .vx)
  | .vor _ => decide (e = .vx)
  | .vxor _ => decide (e = .vx)
  | .vshl _ => decide (e = .vx)
  | .vshr _ => decide (e = .vx)
  | .vexp _ => decide (e = .vx)
  | .vrcp _ => decide (e = .vx)
  | .vrsq _ => decide (e = .vx)
  | .viota _ => decide (e = .vx)
  | .vclip _ => decide (e = .vx)
  | .vscale _ => decide (e = .vx)
  | .vpoisq _ => decide (e = .vx)
  | .vmovs _ => decide (e = .vx)
  | .rmax _ => decide (e = .rw)
  | .rexpsum _ => decide (e = .rw)
  | .rscale _ => decide (e = .rw)
  | .rmean _ => decide (e = .rw)
  | .rvar _ => decide (e = .rw)
  | .rnorm _ => decide (e = .rw)
  | .rmask _ => decide (e = .rw)
  | .rttab _ => decide (e = .rw)
  | .cpy _ => decide (e = .cp)
  | .cpy2 _ => decide (e = .cp)
  | .cpyt _ => decide (e = .cp)
  | .gath _ => decide (e = .cp)
  | .scat _ => decide (e = .cp)
  | .cconv _ => decide (e = .cp)
  | .mcast _ => decide (e = .cp)
  | .rsts _ => decide (e = .cp)
  | .cred _ => decide (e = .cp)
  | .cfill _ => decide (e = .cp)
  | .cchk _ => decide (e = .cp)
  | .cchins _ => decide (e = .cp)
  | .cwake _ => decide (e = .cp)
  | .entryCompletion _ _ => false
  | .interrupt _ => false
  | .engineTrapDelivery _ => false
  | .ringSendComplete _ => false
  | .ringReceiveComplete _ => false
  | .kwaitRelease _ => false
  | .cwaitRelease _ => false
  | .twaitRelease _ => false
  | .waitvRetest _ => false
  | .futureWaitRelease _ => false
  | .fenceComplete _ => false
  | .enqSpaceAvailable _ => false
  | .efenceComplete _ => false
  | .leaseGrant _ => false
  | .lrelComplete _ => false
  | .leaseExhaustion _ => false
  | .leaseRevocation _ => false
  | .pacqGrant _ => false
  | .wfeWake _ => false
  | .chinswRetry _ => false
  | .chargeWaitStart _ _ => false
  | .bucketRampTick _ => false
  | .wthreshExpiry _ => false
  | .budgetExpiry _ => false
  | .sliceEnd _ => false
  | .preemptionRequest _ => false
  | .preemptionForceStop _ => false
  | .preemptionHang _ => false
  | .teamSaveComplete _ => false
  | .unitRetire _ => false
  | .bindStage _ _ _ => false
  | .bindUnbind _ _ => false
  | .slotStart _ => false
  | .graphLoad _ _ _ => false
  | .churnBoundDispatch _ _ => false
  | .compensationStart _ _ => false
  | .compensationEnd _ => false
  | .removalRequest _ => false
  | .removalRelease _ => false
  | .checkerMismatch _ _ => false
  | .eccCorrectable _ => false
  | .eccUncorrectable _ _ => false
  | .arrayVerdict _ _ _ => false
  | .selfTest _ _ _ => false
  | .rpctlRecoveryPoint _ => false
  | .rpctlRollback _ => false
  | .rpctlSeal _ => false
  | .recoveryRequestEnd _ => false
  | .escapedLogThreshold _ => false
  | .tlbiPage _ _ => false
  | .tlbiAsid _ _ => false
  | .tlbiAll _ => false
  | .tlbiDone _ => false
  | .clintWrite _ _ => false
  | .clpctlQuiesce _ => false
  | .clpctlRetain _ => false
  | .clpctlOff _ => false
  | .clpctlRun _ => false
  | .quiescedReached _ => false
  | .retainedReached _ => false
  | .clretsvSave _ => false
  | .clretsvRestore _ => false
  | .retentionSaveDone _ => false
  | .clgateWrite _ _ => false
  | .clwakeWrite _ _ => false
  | .wakeComplete _ => false
  | .clbktWrite _ _ => false
  | .pcapWrite _ => false
  | .ecntWrap _ _ => false
  | .registerWrite _ _ _ => false
  | .submissionDoorbell _ => false
  | .completionRingTail _ _ => false
  | .partitionTableWrite _ _ _ _ _ => false
  | .safeTierWrite _ _ _ _ => false
  | .readRequest _ _ _ _ => false
  | .readCompletion _ _ _ _ _ => false
  | .postedWrite _ _ _ _ => false
  | .interruptMessage => false
  | .durableWrite _ _ _ _ _ => false
  | .durableAcknowledgement _ _ _ => false
  | .linkRetry _ => false
  | .dieLinkReroute _ _ => false
  | .peerWriteArrival _ _ _ _ => false
  | .powerOnReset => false
  | .bootImageVerify _ _ _ => false
  | .crierTakeover => false
  | .attestationRequest _ => false
  | .teamRestoreComplete _ => false
  | .retentionRestoreDone _ => false
  | .firmwareMeasurement _ _ _ => false

/-- The instruction in the bytes of a scalar word, little-endian at the lowest address (R55). -/
def decodeBytes (b0 b1 b2 b3 : Byte) : Except DecodeErr Instr := decode32 (b3 ++ b2 ++ b1 ++ b0)

/-- The word of the opcode table's numbering, given to the decoder in its memory bytes. A 16-bit
launch word is read as the word of a vector queue: its class is its queue's (R65). -/
def decodeTableWord (nbits w : Nat) : Option Instr :=
  let b (k : Nat) : Byte := BitVec.ofNat 8 (w / 2 ^ (8 * k))
  let r := if nbits = 16 then decode16 .vx (b 1 ++ b 0) else decodeBytes (b 0) (b 1) (b 2) (b 3)
  match r with
  | .ok i => some i
  | .error _ => none

end Sys2Proof
end

