-- ==== Sys2Proof/Machine/Sequencer.lean ====
section
/-!
DEFINITION. The step sequencer: activities, their state words, the compensation records and their slots (22 R379-R383, R390,
R392).
-/
namespace Sys2Proof.Machine

/-- The job of the team on a core. -/
def jobAt (s : State) (id : CoreId) : Option (BitVec 32) := (teamOf s id).map (·.job)

/-- R379: phase codes. -/
def phaseCode : LaPhase → Nat
  | .opened => 1
  | .committed => 2
  | .abandoning => 3
  | .abandoned => 4
  | .frozen => 5
  | .halted => 6

/-- R381: bytes 8-15 of the state word. -/
def stateWord (a : Activity) : Word :=
  BitVec.ofNat 64 (phaseCode a.phase * 2 ^ 60 + a.fail.toNat * 2 ^ 48 + a.done.toNat * 2 ^ 16 + a.steps.toNat)

/-- R380, R381: the sequencer writes the cell at its home slice, after its earlier steps and what came before them (clock 18). -/
def writeStateWord (s : State) (a : Activity) : State :=
  agentPut 18 a.swKey false s a.swPa (leBytes 8 a.laid.toNat ++ leBytes 8 (stateWord a).toNat)

def actOf (s : State) (laid : Word) : Option Activity := s.pkg.acts.find? fun a => a.laid = laid

/-- R381: change an activity and write its state word. -/
def modAct (s : State) (laid : Word) (f : Activity → Activity) : State :=
  match actOf s laid with
  | none => s
  | some a =>
    writeStateWord (modPkg s fun p => { p with acts := p.acts.map fun b => if b.laid = laid then f b else b }) (f a)

/-- Every record of the package, with its die. -/
def allRecs (s : State) : List (Nat × LaRec) := s.dies.flatMap fun d => d.2.las.map fun r => (d.1, r)

/-- R383: a record as the 128 bytes of its slot. -/
def recBytes (r : LaRec) : List Byte :=
  leBytes 8 r.seq.toNat ++ leBytes 8 r.laid.toNat ++ leBytes 8 r.entry.toNat ++ r.args ++
    leBytes 8 ((if r.done then 2 else if r.running then 1 else 0) + (if r.skip then 4 else 0) + r.fail.toNat * 256 + r.step.toNat * 2 ^ 48)
    ++ leBytes 4 r.job.toNat ++ leBytes 4 r.lcid ++ leBytes 8 r.sw.toNat ++ List.replicate 32 0

/-- R383: a record stands in its slot of a die's region. -/
def writeRec (s : State) (die : Nat) (r : LaRec) : State :=
  physWrite s (bitsAt (dieOf s die).lasbase 12 40 * 4096 + 128 * r.slot) (recBytes r) false

/-- R383: change the record with a sequence number. -/
def modRec (s : State) (seq : Word) (f : LaRec → LaRec) : State :=
  match (allRecs s).find? fun e => e.2.seq = seq with
  | none => s
  | some e =>
    writeRec (modDie s e.1 fun d => { d with las := d.las.map fun r => if r.seq = seq then f r else r }) e.1 (f e.2)

/-- R383: free the slots of an activity's records. A die left at its reset value is listed no more. -/
def dropRecs (s : State) (laid : Word) : State :=
  let ds := s.dies.map fun d => (d.1, { d.2 with las := d.2.las.filter fun r => r.laid ≠ laid })
  { s with dies := ds.filter fun d => d.2 ≠ {} }

/-- R380: an activity reaches a final phase: the state word, its slots and its table entry. -/
def endAct (s : State) (laid : Word) (ph : LaPhase) : State :=
  let s1 := dropRecs (modAct s laid fun a => { a with phase := ph }) laid
  modPkg s1 fun p => { p with acts := p.acts.filter fun a => a.laid ≠ laid }

/-- R383: a PENDING record. -/
def isPending (r : LaRec) : Bool := !r.running && !r.done
def hasPending (s : State) (laid : Word) : Bool := (allRecs s).any fun e => e.2.laid = laid && isPending e.2

/-- R379, R392: an ABANDONING activity without a PENDING record is ABANDONED (DEDUCED for an activity
without any record, log 24). -/
def settleAct (s : State) (laid : Word) : State :=
  match actOf s laid with
  | some a => if a.phase = .abandoning && !hasPending s laid then endAct s laid .abandoned else s
  | none => s

/-- R380: the next sequence number. -/
def takeSeq (s : State) : Word × State := (s.pkg.seq, modPkg s fun p => { p with seq := p.seq + 1 })

/-- R379: the OPEN activity of a unit of a number. -/
def openOf (s : State) (uid : Nat) : Option Activity := s.pkg.acts.find? fun a => a.phase = .opened && a.uid = uid

/-- R379: the OPEN activity of the unit on a core. -/
def openAct (s : State) (id : CoreId) : Option Activity :=
  match (coreOf s id).unit with
  | none => none
  | some u => openOf s u.uid

/-- The largest logical time of an agent of a core. -/
def coreTime (c : Core) : Nat := [c.ctxL.pts, c.ctxX.pts, c.ctxS.pts, c.stashPts, c.engWts].foldl Nat.max 0

/-- R390: an OPEN activity becomes ABANDONING. -/
def abandonAct (s : State) (a : Activity) : State :=
  settleAct (modAct s a.laid fun a => { a with phase := .abandoning }) a.laid

/-- R390, R393: an OPEN activity of a unit becomes ABANDONING, after all that the unit has done. -/
def abandonUnit (s : State) (id : CoreId) : State :=
  match openAct s id with
  | none => s
  | some a => abandonAct (raiseClock s 18 (coreTime (coreOf s id))) a

end Sys2Proof.Machine
end

