-- ==== Sys2Proof/Machine/Dump.lean ====
section
/-!
DEFINITION. The first level of a removal: the cause chain and the dump of the unit's state
(17 R340, R341, R429).
-/
namespace Sys2Proof.Machine

/-- R429: the stopped-queue identity: [63] valid, [20:16] ENG, [15:0] INDEX. -/
def stopWord : Option StopId → Nat
  | none => 0
  | some i => 2 ^ 63 + engCode i.eng * 2 ^ 16 + i.index.toNat

/-- Pieces of a dump: an offset and the bytes there. -/
abbrev Piece := Nat × List Byte

/-- A piece that is a little-endian number of n bytes. -/
def pcNum (off n v : Nat) : Piece := (off, leBytes n v)

/-- Pack truth values k < n as a number. -/
def packBits (n : Nat) (f : Nat → Bool) : Nat :=
  (List.range n).foldl (fun a k => if f k then a + 2 ^ k else a) 0

/-- R429: a context area of 1 KiB at `o`; `pend` are its pending engine traps by code. -/
def dumpCtx (o : Nat) (c : Ctx) (pend : Nat) : List Piece :=
  ((List.range 32).map fun n => pcNum (o + 8 * n) 8 (readX c (BitVec.ofNat 5 n)).val.toNat)
  ++ [pcNum (o + 0x100) 4 (packBits 32 fun n => (readX c (BitVec.ofNat 5 n)).poison),
      pcNum (o + 0x104) 1 (packBits 8 fun n => readP c (BitVec.ofNat 3 n))]
  ++ ((List.range 8).map fun n => pcNum (o + 0x108 + 8 * n) 8 (readB c (BitVec.ofNat 3 n)).toNat)
  ++ ((List.range 4).map fun n => pcNum (o + 0x148 + 4 * n) 4 (readLc c n).lc.toNat)
  ++ [pcNum (o + 0x158) 8 c.pc.toNat]
  ++ ([c.fctl.toNat, c.srseed.toNat, c.tstat.toNat, c.tsave.toNat, c.tepc.toNat, c.tval.toNat,
       c.tvec.toNat, c.tscratch.toNat, c.tentry.toNat, c.intp.toNat, c.wthresh.toNat].zipIdx.map
        fun p => pcNum (o + 0x160 + 8 * p.2) 8 p.1)
  ++ ((List.range 4).flatMap fun n =>
        let l := readLc c n
        let b := o + 0x1C0 + 32 * n
        [pcNum b 8 l.start.toNat, pcNum (b + 8) 8 l.stop.toNat, pcNum (b + 16) 4 l.n.toNat,
         pcNum (b + 20) 4 l.iter.toNat, pcNum (b + 24) 4 l.rem.toNat,
         pcNum (b + 28) 1 (if l.active then 1 else 0), pcNum (b + 29) 1 (if l.swp then 1 else 0),
         pcNum (b + 30) 1 l.stg.toNat, pcNum (b + 31) 1 (if l.pree then 1 else 0)])
  ++ [pcNum (o + 0x240) 1 ((if c.latch then 1 else 0) + (if c.nest then 2 else 0)),
      pcNum (o + 0x248) 8 c.enqsCount, pcNum (o + 0x250) 8 (c.enqsAddr.getD 0).toNat,
      pcNum (o + 0x258) 8 pend]
  ++ ([c.save2.tsave.toNat, c.save2.tepc.toNat, c.save2.tval.toNat, c.save2.tentry.toNat,
       c.save2.cause.toNat, stopWord c.save2.stopped, c.save2.entryCycle].zipIdx.map
        fun p => pcNum (o + 0x260 + 8 * p.2) 8 p.1)
  ++ [pcNum (o + 0x298) 8 (stopWord c.stopped), pcNum (o + 0x2A0) 8 c.entryCycle]
  ++ ((List.range 32).map fun n => pcNum (o + 0x300 + 8 * n) 8 (readX c (BitVec.ofNat 5 n)).origin.toNat)

/-- R175: the codes of the tile states. -/
def tileCode : TileSt → Nat
  | .empty => 0
  | .filling => 1
  | .ready => 2
  | .draining => 3

/-- R172: the base word and the geometry word of a tile. -/
def tileBase (t : Tile) : Nat := if t.bound then t.base.toNat else 0
def tileGeom (t : Tile) : Nat :=
  if t.bound then
    t.pitch.toNat * 2 ^ 32 + t.fmt.toNat * 2 ^ 14 + t.cols.toNat * 2 ^ 7 + t.rows.toNat
  else 0

/-- Engine traps pending for a context: queues it feeds that stopped and are not yet taken. -/
def pendMask (c : Core) (k : CtxKind) : Nat :=
  packBits 6 fun e => match engOfCode e with
    | some g => feederOf g = k && (match (queueIn g c).stop with | some t => !t.taken | none => false)
    | none => false

/-- A stash offset lies in a mapped region (R169). -/
def inMap (maps : List MapEntry) (off : Nat) : Bool :=
  maps.any fun m => m.off ≤ off && off < m.off + m.len

/-- R429: the core's state, in ascending offset order but for the opaque parts. -/
def dumpCore (c : Core) (cl : Cluster) (rank : Nat) : List Piece :=
  dumpCtx 0x1000 c.ctxL (pendMask c .load) ++ dumpCtx 0x1400 c.ctxX (pendMask c .exec)
  ++ dumpCtx 0x1800 c.ctxS (pendMask c .store)
  ++ ((List.range 64).flatMap fun n =>
        let t := mget {} c.tiles n
        [pcNum (0x2000 + 16 * n) 8 (tileBase t + tileCode t.st * 2 ^ 62),
         pcNum (0x2008 + 16 * n) 8 (tileGeom t)])
  ++ ((List.range 4).flatMap fun r =>
        let es := mget [] c.rings r
        [pcNum (0x2400 + 0x210 * r) 8 es.length,
         pcNum (0x2408 + 0x210 * r) 8 (packBits 64 fun k => match es[k]? with | some e => e.poison | none => false)]
        ++ (es.zipIdx.map fun p => pcNum (0x2410 + 0x210 * r + 8 * p.2) 8 p.1.val.toNat))
  ++ ((List.range 32).map fun k =>
        let m := mget {} c.sems k
        pcNum (0x2A00 + 4 * k) 4 (m.count.toNat + (if m.ovf then 2 ^ 16 else 0)))
  ++ ((List.range 128).map fun k =>
        let t := mget {} c.stats k
        pcNum (0x3000 + 8 * k) 8 (t.m.toNat + t.s.toNat * 2 ^ 32))
  ++ [pcNum 0x3400 32 (packBits 256 fun k =>
        let t := mget {} c.stats (k / 2)
        if k % 2 = 0 then t.mPoison else t.sPoison),
      pcNum 0x3420 1 c.slotLen.toNat]
  ++ (c.vec.elts.map fun e => pcNum (0x10000 + 4 * e.1) 4 e.2.bits.toNat)
  ++ ((List.range 16).map fun r =>
        pcNum (0x20000 + 128 * r) 128 (packBits 1024 fun k => (mget {} c.vec.elts (1024 * r + k)).poison))
  ++ ((List.range 16).flatMap fun r =>
        let t := mget {} c.vec.tags r
        let b := 0x20800 + 160 * r
        [pcNum b 1 t.fmt.toNat, pcNum (b + 1) 1 t.tr, pcNum (b + 2) 1 t.tc]
        ++ ((List.range 64).map fun k => pcNum (b + 32 + (if t.fmt = 5 then k else 2 * k))
              (if t.fmt = 5 then (if k < 32 then 1 else 0) else 2) (mget 0 c.vec.scales (64 * r + k)).toNat))
  ++ [pcNum 0x21200 2 ((c.vec.rows - 1) + (c.vec.cols - 1) * 256)]
  ++ (c.rbuf.map fun e => pcNum (0x30000 + 512 * (e.1 / 128) + 4 * (e.1 % 128)) 4 e.2.toNat)
  ++ ((List.range 8).map fun b =>
        let br := mget {} cl.barriers b
        pcNum (0x70000 + 16 * b) 16 (br.g.toNat + (mget 0 br.t rank).toNat * 2 ^ 32
          + (if br.a.getLsbD rank then 2 ^ 64 else 0)))
  ++ ((List.range 4).map fun n => pcNum (0x70080 + 8 * n) 8 (mget 0 cl.mcwin n).toNat)
  ++ [pcNum 0x80000 64 (packBits 512 fun b => mget false c.stashWritten b)]
  ++ (c.stash.filterMap fun e =>
        if mget false c.stashWritten (e.1 / 4096) && !inMap c.maps e.1 then some (0x100000 + e.1, [e.2]) else none)

/-- R341: a cause record of 32 bytes. -/
def linkBytes (l : Link) : List Byte :=
  [l.cause, l.src] ++ leBytes 2 l.entry.toNat ++ [0, 0, 0, 0] ++ leBytes 8 l.pc.toNat
    ++ leBytes 8 l.val.toNat ++ leBytes 8 l.time

/-- The opaque parts of a dump (the six queues and the park area) hold free words (R429). -/
def dumpOpaque (tick : Nat) : List Piece :=
  ((List.range 0xC00).map fun k => pcNum (0x4000 + 8 * k) 8 (Config.freeWord (tick + k)).toNat)
  ++ ((List.range 0x4200).map fun k =>
        pcNum (0x40000 + 8 * k) 8 (Config.freeWord (tick + 0xC00 + k)).toNat)

/-- Replace [lo, lo + n) of memory by the pieces given. -/
def physReplace (s : State) (lo n : Nat) (ps : List Piece) : State :=
  let s0 := { s with mem := mclear s.mem lo n, memPoison := mclear s.memPoison (lo / 4) (n / 4)
                     pkg := { s.pkg with home := bumpHome s.pkg.home lo n } }
  ps.foldl (fun s p => physWrite s (lo + p.1) p.2 false) s0

/-- R341: a trap held in a save level as a link: an engine trap by its queue and entry. -/
def heldLink (k : CtxKind) (cause : BitVec 8) (stopped : Option StopId) (pc val : Word) (time : Nat) : Link :=
  match stopped with
  | some i => { cause := cause, src := BitVec.ofNat 8 (0x10 + engCode i.eng), entry := i.index,
                pc := pc, val := val, time := time }
  | none => { cause := cause, src := BitVec.ofNat 8 (ctxCode k), entry := 0, pc := pc, val := val, time := time }

/-- R341: the traps held in the two save levels of a context, oldest first. -/
def heldLinks (k : CtxKind) (c : Ctx) : List Link :=
  (if c.nest then
    [heldLink k c.save2.cause c.save2.stopped c.save2.tepc c.save2.tval c.save2.entryCycle] else [])
  ++ (if tsInh c.tstat then
    [heldLink k (tsCause c.tstat) c.stopped c.tepc c.tval c.entryCycle] else [])

/-- R341: the pending engine traps of a core, in engine order. -/
def pendLinks (c : Core) : List Link :=
  allEngs.filterMap fun e => match (queueIn e c).stop with
    | some t => if t.taken then none else
        some { cause := t.cause, src := BitVec.ofNat 8 (0x10 + engCode e), entry := t.index,
               pc := 0, val := t.tval, time := t.since }
    | none => none

/-- The PC of each engine link is the TEPC of the feeding context (DEDUCED: an engine trap's TEPC
is the address before which it would be taken, R211). -/
def pendLinksPc (c : Core) : List Link :=
  (pendLinks c).map fun l => match engOfCode (l.src.toNat - 0x10) with
    | some e => { l with pc := (ctxIn (feederOf e) c).pc }
    | none => l

/-- R340, R341, R390: the trigger of a removal, with the links of its chain. The contexts of the unit issue nothing from
here on, and its open activity is abandoned; the dump goes to the next slot of the job's dump area, or the job's event log notes the index. A trigger
for a core without a unit or under removal is ignored. -/
def removeUnit (s : State) (id : CoreId) (links : List Link) : State :=
  let c := coreOf s id
  match c.unit, c.removal with
  | some u, none =>
    let kept := links.take 16
    let past : Bool := 16 < links.length
    let s1 := abandonUnit (modCore s id fun c =>
      { c with
        removal := some { links := kept, overflow := past, since := s.cyc.toNat }
        unit := some { u with removed := true } }) id
    match teamOf s id with
    | none => s1
    | some t =>
      let idx := physNat s (t.jcb + 0x068) 4
      let s2 := physPut s1 (t.jcb + 0x068) 4 (idx + 1)
      if idx < physNat s (t.jcb + 0x060) 2 then
        let base := physNat s (t.jcb + 0x020) 8 + idx * 0x400000
        let header := leBytes 4 u.lcid ++ leBytes 1 kept.length ++ leBytes 3 (if past then 1 else 0)
          ++ leBytes 8 u.lid.toNat
        let recs := kept.zipIdx.map fun p => (0x40 + 32 * p.2, linkBytes p.1)
        let s3 := physReplace s2 base 0x400000
          ((0, header) :: recs ++ dumpCore c (clusOf s (CoreId.cl id)) id.rank ++ dumpOpaque s.tick)
        { s3 with tick := s3.tick + 0xC00 + 0x4200 }
      else jobEvent s2 id.die t.job (.removal idx)
  | _, _ => s

/-- R341: a removal's chain: the traps held, any pending engine traps, the trigger. -/
def startRemoval (s : State) (id : CoreId) (held : List Link) (trigger : Link) : State :=
  removeUnit s id (held ++ pendLinksPc (coreOf s id) ++ [trigger])

end Sys2Proof.Machine
end

