-- ==== Sys2Proof/Machine/Ops.lean ====
section
/-!
DEFINITION. Taking a trap and returning from one, the resolution of a stopped queue, the loop end
test, and the frame every scalar instruction runs in: decode checks, guard, effect, next PC
(01 R21-R27; 05 R107, R122; 17 R326-R336).
-/
namespace Sys2Proof.Machine

/-- R329: the cause codes. -/
def cILLOP : BitVec 8 := 0x01
def cPRIV : BitVec 8 := 0x02
def cALIGN : BitVec 8 := 0x03
def cPAGE : BitVec 8 := 0x04
def cPROT : BitVec 8 := 0x05
def cPOISON : BitVec 8 := 0x06
def cPIPE : BitVec 8 := 0x07
def cSCHED : BitVec 8 := 0x08
def cCURRENT : BitVec 8 := 0x09
def cBUDGET : BitVec 8 := 0x0A
def cBREAKDOWN : BitVec 8 := 0x0B
def cFPE : BitVec 8 := 0x0C
def cTRAPI : BitVec 8 := 0x0D
def cBADRET : BitVec 8 := 0x0E
def cENGERR : BitVec 8 := 0x0F
def cLEASE : BitVec 8 := 0x10
def cCOMPFAIL : BitVec 8 := 0x11
def cFUTURE : BitVec 8 := 0x12
def cCHURN : BitVec 8 := 0x13
def cDETVIOL : BitVec 8 := 0x14
def cRINGERR : BitVec 8 := 0x15
def cREPLAYX : BitVec 8 := 0x16
def cINTERRUPT : BitVec 8 := 0x20

/-- R128: the q.xl tags of control registers that the hardware writes with values of its own are gone. -/
def untag (rs : List Nat) (m : SMap Bool) : SMap Bool := rs.foldl (fun m r => mset false m r false) m

/-- R27: trap entry of one context; `stopped` is the queue of an engine trap (R332), and `cyc` is
kept as the trap's entry cycle (R330). TSAVE takes TSTAT with its q.xl tag (R128). -/
def enterTrap (cyc : Nat) (cause : BitVec 8) (tval epc : Word) (stopped : Option StopId) (c : Ctx) : Ctx :=
  { c with
    run := .running
    tsave := c.tstat
    tstat := tsPack true 1 (tsPm c.tstat) false (tsIe c.tstat) cause
    tepc := epc
    tval := tval
    tentry := match stopped with
      | some i => BitVec.ofNat 64 (engCode i.eng * 2 ^ 16 + i.index.toNat)
      | none => c.tentry
    pc := maskPc (c.tvec + BitVec.ofNat 64 (cause.toNat * 64))
    wait := none
    stopped := stopped
    entryCycle := cyc
    crdep := untag (if stopped.isSome then [0x12, 0x13, 0x16] else [0x12, 0x13])
      (mset false c.crdep 0x11 (mget false c.crdep 0x10)) }

/-- R330: the outer trap goes to the second save level. -/
def pushLevel (c : Ctx) : Ctx :=
  { c with
    nest := true
    save2 := { tsave := c.tsave, tepc := c.tepc, tval := c.tval, tentry := c.tentry,
               cause := tsCause c.tstat, stopped := c.stopped, entryCycle := c.entryCycle, crdep := c.crdep } }

/-- R330: the causes that nest. -/
def nestable (cause : BitVec 8) : Bool := cause = cPAGE || cause = cPOISON || cause = cPIPE

/-- A pre-emption request is pending for the team of a core (R335). -/
def preempting (s : State) (id : CoreId) : Bool :=
  match teamOf s id with
  | some t => t.preempt.isSome
  | none => false

/-- TAKING A TRAP (R27, R330): entry, nested entry, or escalation to removal of the unit. A context
that takes a trap while a pre-emption request is pending stops at its handler (R335). -/
def takeTrap (s : State) (id : CtxId) (cause : BitVec 8) (tval epc : Word) (stopped : Option StopId) : State :=
  let c := ctxOf s id
  let s1 := if id.kind = .store then s else count s id.core 0x33 1 (isSuper c)
  let enter (c : Ctx) : Ctx :=
    let c1 := enterTrap s.cyc.toNat cause tval epc stopped c
    { c1 with held := c1.held || preempting s id.core }
  if !tsInh c.tstat then modCtx s1 id enter
  else if nestable cause && !c.nest then modCtx s1 id fun c => enter (pushLevel c)
  else
    startRemoval s id.core (heldLinks id.kind c)
      (heldLink id.kind cause stopped epc tval s.cyc.toNat)

/-- R331: leaving the second save level. -/
def popLevel (c : Ctx) : Ctx :=
  if c.nest then
    { c with
      nest := false
      tsave := c.save2.tsave
      tepc := c.save2.tepc
      tval := c.save2.tval
      tentry := c.save2.tentry
      tstat := tsPack (tsInh c.tstat) (tsPm c.tstat) (tsPpm c.tstat) (tsIe c.tstat) (tsPie c.tstat) c.save2.cause
      stopped := c.save2.stopped
      entryCycle := c.save2.entryCycle
      crdep := [0x11, 0x12, 0x13, 0x16].foldl (fun m r => mset false m r (mget false c.save2.crdep r)) c.crdep }
  else { c with stopped := none }

/-- R122: status and PC restored by TRET; CAUSE is left. -/
def restoreStatus (c : Ctx) : Ctx :=
  { c with
    tstat := tsPack (tsInh c.tsave) (tsPm c.tsave) (tsPpm c.tsave) (tsIe c.tsave) (tsPie c.tsave) (tsCause c.tstat)
    pc := c.tepc
    run := if c.tepc = 0 then .ended else .running
    crdep := mset false c.crdep 0x10 (mget false c.crdep 0x10 || mget false c.crdep 0x11) }

/-- R122: a TSAVE that TRET refuses: a reserved bit, or a mode above 1. -/
def badSave (t : Word) : Bool :=
  (t &&& 0xFFFFFFFFFF00FF80#64) != 0 || 1 < (tsPm t).toNat || 1 < (tsPpm t).toNat

/-- The words of a queue's head entry: through its first launch word. -/
def isLaunch (w : BitVec 16) : Bool := w.extractLsb' 14 2 = 1
def dropEntry : List QWord → List QWord
  | [] => []
  | q :: t => if isLaunch q.w then t else dropEntry t

/-- R334: what a skipped entry had done to tiles is undone: FILLING to EMPTY, DRAINING to READY. -/
def undoTile (a : TileAct) (t : Tile) : Tile :=
  match a with
  | .filled => { t with st := .empty }
  | .drained _ => { t with st := .ready }
  | .readDone => { t with readers := t.readers - 1 }
  | .writeDone => { t with writers := t.writers - 1 }

/-- Row pitch of a tile in bytes (02 R48). -/
def tilePitch (t : Tile) : Nat := t.pitch.toNat * 32

/-- R334: the contents of a tile that a skipped entry was filling are open, scales included (R48): a free byte each. -/
def freeTile (s : State) (id : CoreId) (t : Tile) : State :=
  let r := t.rows.toNat + 1
  let c := t.cols.toNat + 1
  let n := r * tilePitch t +
    (if t.fmt = 5 then r * (c / 32) else if 6 ≤ t.fmt.toNat && t.fmt.toNat ≤ 8 then r / 4 * (c / 4) * 2 else 0)
  let bytes := (List.range n).map fun k => (Config.freeWord (s.tick + k)).setWidth 8
  modCore { s with tick := s.tick + n } id fun c =>
    { c with stash := putBytes c.stash t.base.toNat bytes }

def undoTiles (s : State) (l : List (CoreId × BitVec 6 × TileAct)) : State :=
  l.foldl (fun s a =>
    let t := mget {} (coreOf s a.1).tiles a.2.1.toNat
    let s1 := match a.2.2 with | .filled => freeTile s a.1 t | _ => s
    modCore s1 a.1 fun c => { c with tiles := mmod {} c.tiles a.2.1.toNat (undoTile a.2.2) }) s

/-- The entry at which a queue is stopped is one that awaits its completion. -/
def stopRuns (q : Queue) : Bool := match q.stop with | some st => q.running.any fun r => r.index = st.index | none => false

/-- What the stopped entry of a queue has done to tiles. -/
def stopTiles (q : Queue) : List (CoreId × BitVec 6 × TileAct) :=
  match q.stop with
  | none => []
  | some st =>
    match q.running.find? fun r => r.index = st.index with
    | some r => r.tiles
    | none => match q.entry with | some e => if e.index = st.index then e.tiles else [] | none => []

/-- The parameter stack, with its marks, as an entry that has started found it. -/
def stackBefore (q : Queue) (i : BitVec 16) : Option (List Word × BitVec 8) :=
  (((q.running.filterMap (·.late)).map (·.en) ++ q.window.map (·.entry)).find? fun e => e.index = i).map fun e => (e.stack0, e.marks0)

/-- The queue with the parameter stack that an entry found; what is at its head begins again. -/
def backStack (q : Queue) (b : List Word × BitVec 8) : Queue :=
  let set := if q.pos = 0 then q.set else q.set0
  { q with set := { set with stack := b.1, marks := b.2 }, pos := 0, waitks := [], sigks := [], slot := none, waiting := false,
           tileSince := none, waitTicket := 0, charge := none }

/-- R334: SKIP the stopped entry of a queue: its parameter stack goes back, and words of the next entry that have run since run again
(DEDUCED, log 129). One at which a replay has stopped is left out of it, and the replay goes on; an entry of the window that had retired
before leaves nothing to skip. -/
def skipQueue (q : Queue) : Queue :=
  match q.stop with
  | none => q
  | some st =>
    let q1 := { q with stop := none, redo := false, untimed := false, running := q.running.filter (fun r => r.index ≠ st.index) }
    let drop (w : WinEntry) : WinEntry := if w.entry.index = st.index then { w with entry := { w.entry with nullified := true } } else w
    match q.redoFrom, q.entry with
    | some e, _ => { q1 with window := q.window.map drop, redoFrom := some { e with nullified := true } }
    | none, some e =>
      if e.index = st.index then { backStack q1 (e.stack0, e.marks0) with entry := none }
      else if stopRuns q then match stackBefore q st.index with | some b => backStack q1 b | none => q1
      else q1
    | none, none =>
      if stopRuns q then match stackBefore q st.index with | some b => backStack q1 b | none => q1
      else if q.headIdx = st.index then
        { backStack q1 (q.set0.stack, q.set0.marks) with words := dropEntry q.words, headIdx := q.headIdx + 1 }
      else q1

/-- R334: FLUSH: skip, then discard every later word. -/
def flushQueue (q : Queue) : Queue :=
  let q1 := skipQueue q
  { q1 with words := [], pos := 0, set := { q1.set with stack := [], marks := 0, latch := true }, window := [],
            winStack := [], headIdx := q1.enqIdx, waitks := [], sigks := [], slot := none, redoFrom := none }

/-- R333: resume the stopped entry. -/
def resumeQueue (q : Queue) : Queue :=
  match q.stop with
  | some st =>
    { q with stop := none
             untimed := st.resume = .untimed
             redo := st.resume = .replay }
  | none => q

/-- R332: the resolution of queue E stopped at entry I by the TENTRY value the handler leaves. -/
def resolve (s : State) (id : CoreId) (i : StopId) (tentry : Word) : State :=
  let q := queueOf s id i.eng
  let undone (f : Queue → Queue) : State := modQueue (undoTiles s (stopTiles q)) id i.eng f
  if bitsAt tentry 16 5 ≠ engCode i.eng then
    modQueue s id i.eng fun q => { q with stop := q.stop.map fun t => { t with taken := false } }
  else if tentry.extractLsb' 0 16 = i.index then modQueue s id i.eng resumeQueue
  else if tentry.extractLsb' 0 16 = i.index + 1 then undone skipQueue
  else undone flushQueue

/-- RETURN FROM A TRAP (R122, R331, R332), the checks having passed. -/
def trapReturn (s : State) (id : CtxId) : State :=
  let c := ctxOf s id
  let s1 := match c.stopped with
    | some i => resolve s id.core i c.tentry
    | none => s
  modCtx s1 id fun c => popLevel (restoreStatus c)

/-- R107, R108, R128: stage predicates p4.. of a loop at iteration `iter` of `n`, with the q.xl tag of its count. -/
def stagePreds (l : LoopCtr) (c : Ctx) : Ctx :=
  (List.range (l.stg.toNat + 1)).foldl (fun c k =>
    writeP c (BitVec.ofNat 3 (4 + k))
      (decide (k ≤ l.iter.toNat) && decide (l.iter.toNat + 1 ≤ k + l.n.toNat)) l.dep) c

/-- The armed loop with this END that was armed most recently. -/
def loopAt (c : Ctx) (pc : Word) : Option Nat :=
  ((List.range 4).filter fun n => (readLc c n).active && (readLc c n).stop = pc).foldl
    (fun a n => match a with
      | none => some n
      | some m => if (readLc c m).armed < (readLc c n).armed then some n else some m) none

/-- R107, R336: the loop end test at next PC `npc`, `pend` when a pre-emption request is pending.
The last result says that the context stops here. A drain that completes with no request pending (the forced stop of
R335 saved the loop inside it) arms the loop again with its rest, as under a request (DEDUCED, log 128). -/
def endTest (pend : Bool) : Nat → Word → Ctx → Ctx × Word × Bool
  | 0, npc, c => (c, npc, false)
  | fuel + 1, npc, c =>
    match loopAt c npc with
    | none => (c, npc, false)
    | some k =>
      let l0 := readLc c k
      let l := { l0 with lc := l0.lc - 1 }
      let again (l : LoopCtr) : Ctx × Word :=
        let l' := { l with iter := l.iter + 1 }
        let c1 := writeLc c k l'
        (if l'.swp then stagePreds l' c1 else c1, l'.start)
      if pend && l.swp && !l.pree && decide (l.stg.toNat < l.lc.toNat) then
        let started := l.iter + 1
        let r := again { l with rem := l.n - started, n := started, lc := l.stg.setWidth 32, pree := true }
        (r.1, r.2, false)
      else if l.lc = 0 && l.pree then
        let l' := { l with n := l.rem, iter := 0, lc := l.rem + l.stg.setWidth 32, pree := false }
        (stagePreds l' (writeLc c k l'), l'.start, pend)
      else if l.lc = 0 then
        let r := endTest pend fuel npc (writeLc c k { l with active := false })
        (r.1, r.2.1, pend)
      else
        let r := again l
        (r.1, r.2, pend && !l.pree)

/-- Some loop is armed. -/
def anyLoop (c : Ctx) : Bool := (List.range 4).any fun n => (readLc c n).active

/-- R21, R107, R142, R206, R335: an instruction of the current context completes at `npc`. -/
def complete (s : State) (npc : Word) : State :=
  let pend := preempting s s.cur.core
  modCtx s s.cur fun c =>
    let r := endTest pend 5 npc c
    let c1 := r.1
    let pc := maskPc r.2.1
    { c1 with
      pc := pc
      wait := none
      run := if pc = 0 then .ended else c1.run
      enqsCount := if tsInh c1.tstat then c1.enqsCount else 0
      enqsAddr := if tsInh c1.tstat then c1.enqsAddr else none
      held := c1.held || (pend && (r.2.2 || !anyLoop c1 || tsInh c1.tstat)) }

/-- How the effect of an instruction ends; `left` has set the context itself. -/
inductive Res where
  | done (s : State) (npc : Word)
  | trap (s : State) (cause : BitVec 8) (tval : Word)
  | poisoned (reg : BitVec 5)
  | wait (s : State) (w : Wait)
  | left (s : State)

/-- The waits that a pre-emption abandons (R335): all but WFE and a fence. -/
def abandonable : Wait → Bool
  | .wfe => false
  | .fence _ _ => false
  | _ => true

/-- R206: a wait is abandoned: an ENQS keeps the count of its words and its address. -/
def abandon (c : Ctx) : Ctx :=
  match c.wait with
  | some ⟨.enqs _ _ _ n, _, _⟩ => { c with wait := none, enqsCount := n, enqsAddr := some c.pc }
  | _ => { c with wait := none }

/-- R335, R206: a context stops in a wait that a pre-emption abandons. An ENQS of a handler's own keeps no count (R206), so it
stops inside its wait, which goes on after return (DEDUCED, log 130). -/
def stopInWait (c : Ctx) : Ctx :=
  match c.wait with
  | some ⟨.enqs .., _, _⟩ => { (if tsInh c.tstat then c else abandon c) with held := true }
  | _ => { abandon c with held := true }

/-- The current context begins or continues a wait. Under a pre-emption request it stops at once
and will execute the instruction again (R335). -/
def beginWait (s : State) (w : Wait) : State :=
  if preempting s s.cur.core && abandonable w then
    modCtx s s.cur fun c => stopInWait { c with wait := some ⟨w, 0, 0⟩ }
  else
    match (curCtx s).wait with
    | some v => if v.what = w then s else
        modCtx { s with ticket := s.ticket + 1 } s.cur fun c =>
          { c with wait := some { what := w, since := s.cyc.toNat, ticket := s.ticket } }
    | none =>
        modCtx { s with ticket := s.ticket + 1 } s.cur fun c =>
          { c with wait := some { what := w, since := s.cyc.toNat, ticket := s.ticket } }

/-- R91, R349: a poisoned register is consumed: the class 3 record with the register's origin
(R363), then POISON with the register's number. `originPa` is the physical address of an origin. -/
def poisonTrap (s : State) (reg : BitVec 5) (originPa : XReg → Nat) : State :=
  let c := curCtx s
  let r := readX c reg
  let s1 := logConsumed s s.cur.core 0 (ctxCode s.cur.kind) none c.pc (originPa r) r.origin
  takeTrap s1 s.cur cPOISON (reg.setWidth 64) c.pc none

/-- The instruction word of a scalar instruction, zero-extended. -/
def wordOf (i : Instr) : Word :=
  match encode i with
  | .w32 w => w.setWidth 64
  | .w16 w => w.setWidth 64
  | .event => 0

/-- R21: an instruction that ends without a trap, or with the trap it raises. -/
def finish (originPa : State → XReg → Nat) (s : State) : Res → State
  | .done s' npc => complete s' npc
  | .trap s' cause tval => takeTrap s' s.cur cause tval (curCtx s).pc none
  | .poisoned reg => poisonTrap s reg (originPa s)
  | .wait s' w => beginWait s' w
  | .left s' => s'

/-- The ESEL code of an instruction issued by a context (R422). -/
def issueCode : CtxKind → Nat
  | .load => 0x03
  | .exec => 0x04
  | .store => 0x05

/-- R19, R422: count on w the issue of the instruction that stands before the current context of s, under the selectors of s: the
instruction, and the bundle with the first instruction of a cycle (DEDUCED, log 14). A wait that goes on issues nothing. -/
def countIssueBy (s w : State) : State :=
  let c := curCtx s
  let id := s.cur.core
  let sels := (coreOf s id).esel
  if c.wait.isSome || sels.isEmpty then w
  else
    let w1 := if (coreOf s id).bundleAt = s.cyc.toNat + 1 then w
      else countBy sels (modCore w id fun k => { k with bundleAt := s.cyc.toNat + 1 }) id 0x02 1 (isSuper c)
    countBy sels w1 id (issueCode s.cur.kind) 1 (isSuper c)

/-- R422: count the issue of an instruction. -/
def countIssue (s : State) : State := countIssueBy s s

/-- R21, R22, R66, R67: the frame of a scalar instruction in the current context. `legal` holds the
decode-time checks that depend on the context, before the guard; `priv` marks an instruction that
needs supervisor mode. -/
def scalarWith (originPa : State → XReg → Nat) (i : Instr) (g : BitVec 3) (legal priv : Bool)
    (body : State → Ctx → Res) (s0 : State) : State :=
  let s := countIssue s0
  let c := curCtx s
  if !legal then takeTrap s s.cur cILLOP (wordOf i) c.pc none
  else if !readP c g then complete s (c.pc + 4)
  else if priv && !isSuper c then takeTrap s s.cur cPRIV (wordOf i) c.pc none
  else finish originPa s (body s c)

/-- R91: the first poisoned register among those an instruction consumes, in order. -/
def firstPoison (c : Ctx) : List (BitVec 5) → Option (BitVec 5)
  | [] => none
  | r :: t => if (readX c r).poison then some r else firstPoison c t

/-- R9, R91: go on unless a consumed source is poisoned. -/
def consume (c : Ctx) (rs : List (BitVec 5)) (k : Res) : Res :=
  match firstPoison c rs with
  | some r => .poisoned r
  | none => k

/-- R91, R363, R128: a computed value with the poison, the origin of the first poisoned source in
the order given, and the q.xl tag of its sources. -/
def mkX (v : Word) (srcs : List XReg) : XReg :=
  { val := v
    poison := srcs.any (·.poison)
    origin := match srcs.find? (·.poison) with | some r => r.origin | none => 0
    ostash := match srcs.find? (·.poison) with | some r => r.ostash | none => false
    dep := srcs.any (·.dep) }

/-- Write a register of the current context. -/
def setX (s : State) (d : BitVec 5) (v : XReg) : State := modCtx s s.cur fun c => writeX c d v
/-- Write a predicate of the current context. -/
def setP (s : State) (d : BitVec 3) (v dep : Bool) : State := modCtx s s.cur fun c => writeP c d v dep

/-- Run f with another context current, then put the mover back. -/
def asCtx (s : State) (id : CtxId) (f : State → State) : State :=
  { f { s with cur := id } with cur := s.cur }

end Sys2Proof.Machine
end

