-- ==== Sys2Proof/Machine/Fp.lean ====
section
/-!
DEFINITION. The floating-point formats, exact arithmetic on decoded numbers, and the one
rounding of an exact result (04 R70-R72, R82-R86, R89; 05 R111-R115).
-/
namespace Sys2Proof.Machine

/-- Number of bits of a natural number. -/
def bitLen (m : Nat) : Nat := if m = 0 then 0 else m.log2 + 1

/-- A floating-point format (R70): fraction width, exponent width, bias, and whether the all-ones
exponent is reserved for infinities and NaNs. -/
structure FFmt where
  fw : Nat
  ew : Nat
  bias : Nat
  ieee : Bool
  deriving DecidableEq, Repr

def fp32 : FFmt := ⟨23, 8, 127, true⟩
def bf16 : FFmt := ⟨7, 8, 127, true⟩
def e5m2 : FFmt := ⟨2, 5, 15, true⟩
def e4m3 : FFmt := ⟨3, 4, 7, false⟩

/-- The sign bit's weight. -/
def ffSignBit (f : FFmt) : Nat := 2 ^ (f.ew + f.fw)
/-- The magnitude code of infinity (IEEE formats). -/
def ffInf (f : FFmt) : Nat := (2 ^ f.ew - 1) * 2 ^ f.fw
/-- The magnitude code of the largest finite value. -/
def ffMax (f : FFmt) : Nat := if f.ieee then ffInf f - 1 else 2 ^ (f.ew + f.fw) - 2
/-- The canonical NaN (R70, R71). -/
def ffNan (f : FFmt) : Nat := if f.ieee then ffInf f + 2 ^ (f.fw - 1) else 2 ^ (f.ew + f.fw) - 1
/-- The exponent of the smallest normal value. -/
def ffEmin (f : FFmt) : Int := 1 - (f.bias : Int)

/-- Decode a code exactly (R70); with `ftz` a subnormal input is a zero of its sign (R82). -/
def ffDecode (f : FFmt) (ftz : Bool) (bits : Nat) : Num :=
  let s := (bits / ffSignBit f) % 2 = 1
  let mag := bits % ffSignBit f
  let e := mag / 2 ^ f.fw
  let fr := mag % 2 ^ f.fw
  if f.ieee && e = 2 ^ f.ew - 1 then (if fr = 0 then .inf s else .nan)
  else if !f.ieee && mag = 2 ^ (f.ew + f.fw) - 1 then .nan
  else if e = 0 then (if ftz then .fin s 0 0 else .fin s fr (ffEmin f - f.fw))
  else .fin s (2 ^ f.fw + fr) ((e : Int) - f.bias - f.fw)

/-- FP32 of a 32-bit word. -/
def dec32 (ftz : Bool) (b : BitVec 32) : Num := ffDecode fp32 ftz b.toNat

/-- R83: the magnitude m / 2^sh rounded to an integer; also whether it was inexact. The modes
are 0 RNE, 1 RTZ, 2 RUP, 3 RDN, 4 SR with stamp value z. -/
def roundMag (rm : BitVec 3) (z : Nat) (neg : Bool) (m sh : Nat) : Nat × Bool :=
  let lo := m / 2 ^ sh
  let r := m % 2 ^ sh
  if r = 0 then (lo, false)
  else
    let up : Bool :=
      if rm = 1 then false
      else if rm = 2 then !neg
      else if rm = 3 then neg
      else if rm = 4 then decide (r * 2 ^ 16 / 2 ^ sh > z)
      else decide (2 * r > 2 ^ sh) || (decide (2 * r = 2 ^ sh) && lo % 2 = 1)
    (if up then lo + 1 else lo, true)

/-- The magnitude m * 2^e on the grid 2^q, rounded by R83. -/
def roundAt (rm : BitVec 3) (z : Nat) (neg : Bool) (m : Nat) (e q : Int) : Nat × Bool :=
  if q ≤ e then (m * 2 ^ (e - q).toNat, false)
  else roundMag rm z neg m (q - e).toNat

/-- R85: whether a nonzero exact result is tiny, judged after rounding with an unbounded
exponent range. -/
def isTiny (f : FFmt) (rm : BitVec 3) (z : Nat) (neg : Bool) (m : Nat) (e : Int) : Bool :=
  let top : Int := e + bitLen m - 1
  if ffEmin f ≤ top then false
  else
    let r := (roundAt rm z neg m e (top - f.fw)).1
    !(r = 2 ^ (f.fw + 1) && decide (ffEmin f ≤ top + 1))

/-- Put the sign on a magnitude code. -/
def ffSigned (f : FFmt) (s : Bool) (mag : Nat) : Nat := if s then ffSignBit f + mag else mag

/-- R83-R85, R82: round an exact result once to a format; the code and the flags set. -/
def ffRound (f : FFmt) (rm : BitVec 3) (z : Nat) (ftz : Bool) : Num → Nat × Word
  | .nan => (ffNan f, 0)
  | .inf s => if f.ieee then (ffSigned f s (ffInf f), 0) else (ffSigned f s (ffMax f), flSAT ||| flNX)
  | .fin s m e =>
    if m = 0 then (ffSigned f s 0, 0)
    else
      let top : Int := e + bitLen m - 1
      let base : Int := if ffEmin f ≤ top then top else ffEmin f
      let (sig, inexact) := roundAt rm z s m e (base - f.fw)
      let code := (base - ffEmin f).toNat * 2 ^ f.fw + sig
      if ffMax f < code then
        if !f.ieee then (ffSigned f s (ffMax f), flSAT ||| flNX)
        else if rm = 4 then (ffSigned f s (ffMax f), flSAT ||| flNX)
        else
          let toMax : Bool := rm = 1 || (rm = 2 && s) || (rm = 3 && !s)
          (ffSigned f s (if toMax then ffMax f else ffInf f), flOF ||| flNX)
      else if ftz && 0 < code && code < 2 ^ f.fw then (ffSigned f s 0, flUF ||| flNX)
      else
        (ffSigned f s code,
          flagIf inexact flNX ||| flagIf (inexact && isTiny f rm z s m e) flUF)

/-- Round to FP32. -/
def rnd32 (rm : BitVec 3) (ftz : Bool) (v : Num) : BitVec 32 × Word :=
  let r := ffRound fp32 rm 0 ftz v
  (BitVec.ofNat 32 r.1, r.2)

/-- The sign of a number; a NaN counts as positive. -/
def numSign : Num → Bool
  | .nan => false
  | .inf s => s
  | .fin s _ _ => s

def numNeg : Num → Num
  | .nan => .nan
  | .inf s => .inf (!s)
  | .fin s m e => .fin (!s) m e

def numIsNan : Num → Bool
  | .nan => true
  | _ => false

def numIsZero : Num → Bool
  | .fin _ m _ => m = 0
  | _ => false

/-- An exact integer with its scale as a number; an exact zero takes the sign given. -/
def numOfInt (zeroNeg : Bool) (i : Int) (e : Int) : Num :=
  if i = 0 then .fin zeroNeg 0 0 else .fin (decide (i < 0)) i.natAbs e

/-- The signed magnitude of a finite number on the grid 2^q, q at or below its exponent. -/
def numAt (s : Bool) (m : Nat) (e q : Int) : Int :=
  let v : Int := ((m * 2 ^ (e - q).toNat : Nat) : Int)
  if s then -v else v

/-- Exact sum with the sign IEEE 754 gives an exact zero (R83): +0 but for RDN; NV for
opposite infinities (R85). -/
def numAdd (rm : BitVec 3) : Num → Num → Num × Word
  | .nan, _ => (.nan, 0)
  | _, .nan => (.nan, 0)
  | .inf s, .inf t => if s = t then (.inf s, 0) else (.nan, flNV)
  | .inf s, .fin .. => (.inf s, 0)
  | .fin .., .inf t => (.inf t, 0)
  | .fin s m e, .fin t n f =>
    if m = 0 && n = 0 then (.fin (if s = t then s else rm = 3) 0 0, 0)
    else
      let q := if e ≤ f then e else f
      (numOfInt (rm = 3) (numAt s m e q + numAt t n f q) q, 0)

/-- Exact product; NV for 0 times infinity. -/
def numMul : Num → Num → Num × Word
  | .nan, _ => (.nan, 0)
  | _, .nan => (.nan, 0)
  | .inf s, .inf t => (.inf (s != t), 0)
  | .inf s, .fin t n _ => if n = 0 then (.nan, flNV) else (.inf (s != t), 0)
  | .fin s m _, .inf t => if m = 0 then (.nan, flNV) else (.inf (s != t), 0)
  | .fin s m e, .fin t n f => (.fin (s != t) (m * n) (e + f), 0)

/-- R111: exact a * b + c; a product 0 times infinity sets NV even when c is a NaN. -/
def numFma (rm : BitVec 3) (a b c : Num) : Num × Word :=
  let p := numMul a b
  let r := numAdd rm p.1 c
  (r.1, p.2 ||| r.2)

/-- The quotient of two naturals to at least 96 bits with a sticky last bit: the value is
between the exact quotient's neighbours, and is exact when the sticky bit is 0. -/
def divSticky (m n : Nat) : Nat × Nat :=
  let k := bitLen n + 96
  let q := m * 2 ^ k / n
  let r := m * 2 ^ k % n
  (2 * q + (if r = 0 then 0 else 1), k + 1)

/-- R111: the quotient, DZ and NV. -/
def numDiv : Num → Num → Num × Word
  | .nan, _ => (.nan, 0)
  | _, .nan => (.nan, 0)
  | .inf _, .inf _ => (.nan, flNV)
  | .inf s, .fin t _ _ => (.inf (s != t), 0)
  | .fin s _ _, .inf t => (.fin (s != t) 0 0, 0)
  | .fin s m e, .fin t n f =>
    if n = 0 then (if m = 0 then (.nan, flNV) else (.inf (s != t), flDZ))
    else if m = 0 then (.fin (s != t) 0 0, 0)
    else
      let (q, k) := divSticky m n
      (.fin (s != t) q (e - f - k), 0)

/-- One bit of the integer square root at a time, from bit i - 1 down. -/
def isqrtGo (n : Nat) : Nat → Nat → Nat
  | 0, r => r
  | i + 1, r =>
    let r' := r + 2 ^ i
    if r' * r' ≤ n then isqrtGo n i r' else isqrtGo n i r

/-- The integer square root. -/
def isqrt (n : Nat) : Nat := isqrtGo n (bitLen n / 2 + 1) 0

/-- The square root of m * 2^e with a sticky last bit. -/
def sqrtSticky (m : Nat) (e : Int) : Nat × Int :=
  let k := 100 + bitLen m
  let (m', e') := if e % 2 = 0 then (m, e) else (2 * m, e - 1)
  let n := m' * 2 ^ (2 * k)
  let r := isqrt n
  (2 * r + (if r * r = n then 0 else 1), e' / 2 - k - 1)

/-- R111: the square root; -0 gives -0, a value below zero the NaN and NV. -/
def numSqrt : Num → Num × Word
  | .nan => (.nan, 0)
  | .inf s => if s then (.nan, flNV) else (.inf false, 0)
  | .fin s m e =>
    if m = 0 then (.fin s 0 0, 0)
    else if s then (.nan, flNV)
    else
      let (r, q) := sqrtSticky m e
      (.fin false r q, 0)

/-- The square root of (num / den) * 2^e for den > 0 with a sticky last bit. -/
def sqrtRatio (num den : Nat) (e : Int) : Nat × Int :=
  let k := 100 + bitLen num + bitLen den
  let (num', e') := if e % 2 = 0 then (num, e) else (2 * num, e - 1)
  let n := num' * 2 ^ (2 * k)
  let r := isqrt (n / den)
  (2 * r + (if r * r * den = n then 0 else 1), e' / 2 - k - 1)

/-- R284: 1 / sqrt(A); zeros give infinities of their sign with DZ. -/
def numRsqrt : Num → Num × Word
  | .nan => (.nan, 0)
  | .inf s => if s then (.nan, flNV) else (.fin false 0 0, 0)
  | .fin s m e =>
    if m = 0 then (.inf s, flDZ)
    else if s then (.nan, flNV)
    else
      let (r, q) := sqrtRatio 1 m (-e)
      (.fin false r q, 0)

/-- Working precision of the exponential. -/
def expPrec : Nat := 320

/-- Taylor sum of e^x - with x the fixed-point |x| at 2^-expPrec and its sign - to `n` terms. -/
def expTaylor (x : Int) : Nat → Nat → Int → Int → Int
  | 0, _, _, acc => acc
  | n + 1, i, term, acc =>
    let t := term * x / (2 ^ expPrec : Int) / ((i : Int) + 1)
    expTaylor x n (i + 1) t (acc + t)

/-- Square a fixed-point value n times. -/
def sqTimes : Nat → Nat → Nat
  | 0, v => v
  | n + 1, v => sqTimes n (v * v / 2 ^ expPrec)

/-- e^A (R284, R295), correctly rounded by a 320-bit evaluation with a sticky last bit
(DEDUCED, log 7): e^0 is exact, every other finite argument's exponential is irrational. -/
def numExp : Num → Num
  | .nan => .nan
  | .inf s => if s then .fin false 0 0 else .inf false
  | .fin s m e =>
    if m = 0 then .fin false 1 0
    else if 8 < e + bitLen m then (if s then .fin false 1 (-400) else .fin false 1 400)
    else
      let sh : Int := e + (expPrec : Int) - 12
      let f : Nat := if 0 ≤ sh then m * 2 ^ sh.toNat else m / 2 ^ (-sh).toNat
      let x : Int := if s then -(f : Int) else (f : Int)
      let y := expTaylor x 80 0 (2 ^ expPrec : Int) (2 ^ expPrec : Int)
      .fin false (2 * sqTimes 12 y.toNat + 1) (-(expPrec : Int) - 1)

/-- Compare two finite or infinite numbers by value; zeros of both signs are equal. -/
def numLt : Num → Num → Bool
  | .nan, _ => false
  | _, .nan => false
  | .inf s, .inf t => s && !t
  | .inf s, .fin .. => s
  | .fin .., .inf t => !t
  | .fin s m e, .fin t n f =>
    let q := if e ≤ f then e else f
    decide (numAt s m e q < numAt t n f q)

def numEq (a b : Num) : Bool := !numIsNan a && !numIsNan b && !numLt a b && !numLt b a

/-- R112: the smaller input with -0 below +0; one NaN gives the other input. -/
def numMin (a b : Num) : Num :=
  if numIsNan a then b else if numIsNan b then a
  else if numLt a b then a else if numLt b a then b
  else if numSign a then a else b

/-- R112: the larger input. -/
def numMax (a b : Num) : Num :=
  if numIsNan a then b else if numIsNan b then a
  else if numLt a b then b else if numLt b a then a
  else if numSign a then b else a

/-- R113: the test cc (0 EQ, 1 NE, 2 LT, 3 GE) on numbers and whether NV is set. -/
def numTest (cc : BitVec 3) (a b : Num) : Bool × Word :=
  let nan := numIsNan a || numIsNan b
  if cc = 0 then (numEq a b, 0)
  else if cc = 1 then (!numEq a b, 0)
  else if cc = 2 then (numLt a b, flagIf nan flNV)
  else (!nan && !numLt a b, flagIf nan flNV)

/-- R89, R114: round to an integer by R83, then bring into [lo, hi]; a NaN gives 0. -/
def numToInt (rm : BitVec 3) (z : Nat) (lo hi : Int) : Num → Int × Word
  | .nan => (0, flNV)
  | .inf s => (if s then lo else hi, flNV ||| flNX)
  | .fin s m e =>
    let (r, inexact) := roundAt rm z s m e 0
    let v : Int := if s then -(r : Int) else (r : Int)
    if v < lo then (lo, flNV ||| flNX)
    else if hi < v then (hi, flNV ||| flNX)
    else (v, flagIf inexact flNX)

/-- Scale a finite number by 2^d exactly. -/
def numScale (d : Int) : Num → Num
  | .fin s m e => .fin s m (e + d)
  | v => v

/-- R115: the one-hot class of an FP32 word. -/
def fclass32 (b : BitVec 32) : Word :=
  let s := b.getLsbD 31
  let e := (b.extractLsb' 23 8).toNat
  let f := (b.extractLsb' 0 23).toNat
  if e = 255 then (if f ≠ 0 then 0x100 else if s then 0x1 else 0x80)
  else if e = 0 then
    (if f = 0 then (if s then 0x8 else 0x10) else (if s then 0x4 else 0x20))
  else (if s then 0x2 else 0x40)

/-- R86: the stamp generator. -/
def stampZ (seed : BitVec 32) (a : BitVec 32) (s : BitVec 16) : Nat :=
  ((seed + a * 0xC2B2AE35#32 + s.setWidth 32 * 0x9E3779B9#32) >>> 16).toNat

/-- Rounding by RM where SR acts as RNE (R110, R283). -/
def rmNoSr (rm : BitVec 3) : BitVec 3 := if rm = 4 then 0 else rm

end Sys2Proof.Machine
end

