-- ==== Sys2Proof/Machine/Quant.lean ====
section
/-!
DEFINITION. The element formats by their codes (07 R156), the blocks of the SQ family and of
MXFP4, their one quantisation rule each, scale composition and transposition
(04 R69-R81, R88, R89).
-/
namespace Sys2Proof.Machine

/-- Bits of an element of a format code: 0 raw, 1 FP32, 2 BF16, 3 E4M3, 4 E5M2, 5 MXFP4, 6 SQ2,
7 SQ4, 8 SQ8, 9 INT8, 10 INT32. -/
def eltBits (fmt : BitVec 4) : Nat :=
  if fmt = 1 || fmt = 10 then 32
  else if fmt = 2 then 16
  else if fmt = 5 || fmt = 7 then 4
  else if fmt = 6 then 2
  else 8

/-- SQ2, SQ4 or SQ8. -/
def isSq (fmt : BitVec 4) : Bool := fmt = 6 || fmt = 7 || fmt = 8

/-- A format with block scales: an SQ format or MXFP4. -/
def isBlocked (fmt : BitVec 4) : Bool := isSq fmt || fmt = 5

/-- Magnitude bits m of an SQ format (R75). -/
def sqBits (fmt : BitVec 4) : Nat := if fmt = 6 then 1 else if fmt = 7 then 3 else 7

/-- Decode an element of an unblocked numeric format exactly (R69, R70); raw bytes count as
unsigned integers. -/
def decElt (fmt : BitVec 4) (ftz : Bool) (bits : Nat) : Num :=
  if fmt = 1 then ffDecode fp32 ftz bits
  else if fmt = 2 then ffDecode bf16 ftz bits
  else if fmt = 3 then ffDecode e4m3 ftz bits
  else if fmt = 4 then ffDecode e5m2 ftz bits
  else if fmt = 9 then numOfInt false (BitVec.ofNat 8 bits).toInt 0
  else if fmt = 10 then numOfInt false (BitVec.ofNat 32 bits).toInt 0
  else numOfInt false (bits : Int) 0

/-- R89: convert to an unblocked format; the code and the flags. -/
def encElt (fmt : BitVec 4) (rm : BitVec 3) (z : Nat) (ftz : Bool) (v : Num) : Nat × Word :=
  if fmt = 1 then ffRound fp32 rm z ftz v
  else if fmt = 2 then ffRound bf16 rm z ftz v
  else if fmt = 3 then ffRound e4m3 rm z ftz v
  else if fmt = 4 then ffRound e5m2 rm z ftz v
  else if fmt = 10 then
    let r := numToInt rm z (-(2 ^ 31 : Int)) (2 ^ 31 - 1) v
    ((BitVec.ofInt 32 r.1).toNat, r.2)
  else
    let r := numToInt rm z (-128) 127 v
    ((BitVec.ofInt 8 r.1).toNat, r.2)

/-- R82: a subnormal FP32 value as an input under FTZ. -/
def flush32 (ftz : Bool) (v : Num) : Num :=
  match v with
  | .fin s m e => if ftz && m ≠ 0 && decide (e + bitLen m - 1 < -126) then .fin s 0 0 else v
  | _ => v

/-- Fields of an SQ scale word (R75). -/
def sqE (sc : BitVec 16) : Nat := (sc.extractLsb' 0 8).toNat
def sqUr (sc : BitVec 16) (i : Nat) : Nat := if sc.getLsbD (8 + i) then 1 else 0
def sqUc (sc : BitVec 16) (j : Nat) : Nat := if sc.getLsbD (12 + j) then 1 else 0

/-- R76: the value of element (i, j) with code `c` under the scale word. -/
def sqValue (fmt : BitVec 4) (sc : BitVec 16) (i j c : Nat) : Num :=
  let m := sqBits fmt
  if sqE sc = 0 then .fin false 0 0
  else if sqE sc = 255 then .nan
  else .fin (c / 2 ^ m % 2 = 1) (c % 2 ^ m)
    ((sqE sc : Int) - 127 - sqUr sc i - sqUc sc j - ((m : Int) - 1))

/-- R73: the value of an MXFP4 element with code `c` under scale code `sc`. -/
def mxValue (sc c : Nat) : Num :=
  if sc = 255 then .nan
  else
    let s : Bool := c / 8 % 2 = 1
    let e := c / 2 % 4
    let f := c % 2
    if e = 0 then .fin s f ((sc : Int) - 127 - 1) else .fin s (2 + f) ((sc : Int) - 127 + e - 2)

/-- floor(log2 |x|) of a nonzero finite value. -/
def numLog2 : Num → Option Int
  | .fin _ m e => if m = 0 then none else some (e + bitLen m - 1)
  | _ => none

/-- The greatest of the logarithms, none when every value is zero. -/
def maxLog2 (xs : List Num) : Option Int :=
  xs.foldl (fun a x => match a, numLog2 x with
    | none, l => l
    | some m, none => some m
    | some m, some l => some (if m < l then l else m)) none

/-- Some value is a NaN or infinite. -/
def anySpecial (xs : List Num) : Bool :=
  xs.any fun x => match x with
    | .fin .. => false
    | _ => true

/-- Every nonzero value of the list has its logarithm at or below the bound. -/
def allLog2Le (xs : List Num) (b : Int) : Bool :=
  xs.all fun x => match numLog2 x with
    | none => true
    | some l => decide (l ≤ b)

/-- Element (i, j) of a 4 x 4 block in row-major order. -/
def blk (xs : List Num) (i j : Nat) : Num := xs.getD (4 * i + j) (.fin false 0 0)

/-- R78: the block of values whose E would pass 254, which the spec says of no FP32 source: open, flags among those of a
quantisation (log 138). -/
def sqOpen (fmt : BitVec 4) (rm : BitVec 3) (z : Nat → Nat) (xs : List Num) : BitVec 16 × List Nat × Word :=
  let f := Config.sqBeyond fmt rm (xs.map fun x => match x with | .fin s a e => (s, a, e) | _ => (false, 0, 0)) ((List.range 16).map z)
  ((f 16).setWidth 16, (List.range 16).map fun k => (f k).toNat % 2 ^ (sqBits fmt + 1), f 17 &&& (flNV ||| flNX ||| flSQOF ||| flSQUF ||| flSAT))

/-- R78: quantise sixteen values, row-major, to an SQ format: the scale word, the element codes
and the flags. `z k` is the stamp value of element k. -/
def sqQuant (fmt : BitVec 4) (rm : BitVec 3) (z : Nat → Nat) (xs : List Num) :
    BitVec 16 × List Nat × Word :=
  let m := sqBits fmt
  let ix := List.range 4
  if anySpecial xs then (0x00FF, List.replicate 16 0, flNV)
  else match maxLog2 xs with
  | none => (0, List.replicate 16 0, 0)
  | some emax =>
    if emax + 127 < 1 then (0, List.replicate 16 0, flSQUF)
    else if 127 < emax then sqOpen fmt rm z xs
    else
      let E : Int := emax + 127
      let ur := ix.map fun i => if allLog2Le (ix.map fun j => blk xs i j) (E - 128) then 1 else 0
      let uc := ix.map fun j =>
        if ix.all fun i => allLog2Le [blk xs i j] (E - 128 - (ur.getD i 0 : Nat)) then 1 else 0
      let sc : BitVec 16 := BitVec.ofNat 16
        (E.toNat + 256 * ((ur.zipIdx.map fun p => p.1 * 2 ^ p.2).sum
          + 16 * (uc.zipIdx.map fun p => p.1 * 2 ^ p.2).sum))
      let codes := (List.range 16).map fun k =>
        match xs.getD k (.fin false 0 0) with
        | .fin s a e =>
          let q : Int := E - 127 - (ur.getD (k / 4) 0 : Nat) - (uc.getD (k % 4) 0 : Nat) - ((m : Int) - 1)
          let M := (roundAt rm (z k) s a e q).1
          (if s then 2 ^ m else 0) + (if 2 ^ m - 1 < M then 2 ^ m - 1 else M)
        | _ => 0
      let nx := (List.range 16).any fun k =>
        !numEq (sqValue fmt sc (k / 4) (k % 4) (codes.getD k 0)) (xs.getD k (.fin false 0 0))
      (sc, codes, flagIf nx flNX)

/-- Round a magnitude to the E2M1 grid; a magnitude above 6.0 becomes 6.0 (R89). -/
def e2m1Round (rm : BitVec 3) (z : Nat) (s : Bool) (m : Nat) (e : Int) : Nat × Bool :=
  if m = 0 then (0, false)
  else
    let top : Int := e + bitLen m - 1
    let base : Int := if 0 ≤ top then top else 0
    let (sig, inexact) := roundAt rm z s m e (base - 1)
    let code := base.toNat * 2 + sig
    if 7 < code then (7, true) else (code, inexact)

/-- R89: the MXFP4 rule for a run of values: the scale code, the element codes and the flags. -/
def mxQuant (rm : BitVec 3) (z : Nat → Nat) (xs : List Num) : Nat × List Nat × Word :=
  if anySpecial xs then (255, xs.map fun _ => 0, flNV)
  else match maxLog2 xs with
  | none => (0, xs.map fun x => if numSign x then 8 else 0, 0)
  | some l =>
    let S : Int := l - 2 + 127
    if S < 0 then (0, xs.map fun _ => 0, flSQUF)
    else
      let rs := xs.zipIdx.map fun p =>
        match p.1 with
        | .fin s m e =>
          let r := e2m1Round rm (z p.2) s m (e - (S - 127))
          ((if s then 8 else 0) + r.1, r.2)
        | _ => (0, false)
      (S.toNat, rs.map (·.1), flagIf (rs.any (·.2)) flNX)

/-- R88 for an SQ block: compose the scale exponent with delta. -/
def sqCompose (fmt : BitVec 4) (delta : Int) (sc : BitVec 16) (codes : List Nat) :
    BitVec 16 × List Nat × Word :=
  let m := sqBits fmt
  let E := sqE sc
  if E = 0 || E = 255 then (sc, codes, 0)
  else
    let E' : Int := (E : Int) + delta
    if 254 < E' then
      ((sc &&& 0xFF00) ||| 254,
        codes.map fun c => if c % 2 ^ m = 0 then c else c / 2 ^ m % 2 * 2 ^ m + (2 ^ m - 1), flSQOF)
    else if E' < 1 then (0, codes.map fun _ => 0, flSQUF)
    else ((sc &&& 0xFF00) ||| BitVec.ofNat 16 E'.toNat, codes, 0)

/-- R88 for an MXFP4 block. -/
def mxCompose (delta : Int) (sc : Nat) (codes : List Nat) : Nat × List Nat × Word :=
  if sc = 255 then (sc, codes, 0)
  else
    let S' : Int := (sc : Int) + delta
    if 254 < S' then
      (254, codes.map fun c => if c % 8 = 0 then c else c / 8 % 2 * 8 + 7, flSQOF)
    else if S' < 0 then (0, codes.map fun _ => 0, flSQUF)
    else (S'.toNat, codes, 0)

/-- R89: an SQ element of m magnitude bits to m' bits under the kept scale. -/
def sqResize (src dst : BitVec 4) (rm : BitVec 3) (z : Nat) (c : Nat) : Nat × Word :=
  let m := sqBits src
  let m' := sqBits dst
  let s : Bool := c / 2 ^ m % 2 = 1
  let (r, inexact) := roundAt rm z s (c % 2 ^ m) ((m' : Int) - (m : Int)) 0
  let past := 2 ^ m' - 1 < r
  ((if s then 2 ^ m' else 0) + (if past then 2 ^ m' - 1 else r), flagIf (inexact || past) flNX)

/-- R80: the scale word of a transposed SQ block: UR and UC exchanged. -/
def sqTransScale (sc : BitVec 16) : BitVec 16 :=
  sc.extractLsb' 8 4 ++ sc.extractLsb' 12 4 ++ sc.extractLsb' 0 8

/-- R80: the codes of a transposed 4 x 4 block. -/
def sqTransCodes (codes : List Nat) : List Nat :=
  (List.range 16).map fun k => codes.getD (4 * (k % 4) + k / 4) 0

/-- The FP32 bits of an exactly representable value (widening, R72). -/
def exact32 (v : Num) : BitVec 32 := (rnd32 0 false v).1

end Sys2Proof.Machine
end

