-- ==== Sys2Proof/Machine/Mem.lean ====
section
/-!
DEFINITION. Translation and the accesses of contexts and engines to memory
(07 R151-R161; 05 R116, R117; 23 R397, R401, R402, R405, R406; 18 R358, R360; 25 R423).
-/
namespace Sys2Proof.Machine

/-- The kind of an access. -/
inductive Acc where
  | load
  | store
  | fetch
  deriving DecidableEq, Repr

/-- The bits of a number. -/
def natBits (v lo n : Nat) : Nat := v / 2 ^ lo % 2 ^ n
def natBit (v k : Nat) : Bool := v / 2 ^ k % 2 = 1

/-- R154: index of a level, bytes an entry covers, and the size of the next table. -/
def lvlIndex (lvl va : Nat) : Nat :=
  if lvl = 1 then natBits va 39 17 else if lvl = 2 then natBits va 30 9
  else if lvl = 3 then natBits va 21 9 else natBits va 16 5
def lvlCover (lvl : Nat) : Nat :=
  if lvl = 1 then 2 ^ 39 else if lvl = 2 then 2 ^ 30 else if lvl = 3 then 2 ^ 21 else 2 ^ 16
def nextSize (lvl : Nat) : Nat := if lvl = 3 then 512 else 8192

/-- R156, R157: word 1 of a leaf. -/
def leafW1Ok (w1 : Nat) : Bool :=
  let fmt : BitVec 4 := BitVec.ofNat 4 (natBits w1 0 4)
  let geom := natBits w1 4 8
  let scl := natBits w1 12 40
  natBits w1 52 12 = 0 && fmt.toNat ≤ 9 &&
    (if isSq fmt then [1, 2, 4, 8, 16, 32].contains geom
     else if fmt = 5 then [1, 2, 4].contains geom
     else geom = 0 && scl = 0)

/-- What a walk finds in an entry (R158). -/
inductive Found where
  | page
  | leaf (l : Leaf)
  | next (table : Nat)
  deriving DecidableEq, Repr

/-- R154-R158: the entry of a level for an address, read at its home slice; one outside HBM reads as zero (DESIGN CHOICE, log 162). -/
def readEntry (s : State) (lvl va table : Nat) : Found :=
  let e := table + 16 * lvlIndex lvl va
  let w0 := physNat s e 8
  let w1 := physNat s (e + 8) 8
  let pa := natBits w0 9 43 * 512
  if !natBit w0 0 || natBits w0 52 12 ≠ 0 then .page
  else if natBit w0 1 then
    if lvl = 1 || natBits w0 2 2 = 3 || pa % lvlCover lvl ≠ 0 || !leafW1Ok w1 then .page
    else .leaf { pa := pa, size := lvlCover lvl, va := va - va % lvlCover lvl, cls := natBits w0 2 2,
                 fmt := BitVec.ofNat 4 (natBits w1 0 4), geom := natBits w1 4 8,
                 scl := natBits w1 12 40 * 4096, w0 := w0, entry := e }
  else if lvl = 4 || natBits w0 2 7 ≠ 0 || w1 ≠ 0 || pa % nextSize lvl ≠ 0 then .page
  else .next pa

/-- R159: whether a lookup uses what is cached. An entry may have been replaced at any time, so until it is invalidated
an access uses the old translation or the new one (log 82). -/
def useCached (s : State) (k : Nat) : Bool := Config.freeBool (s.tick + 2 ^ 64 * (k + 1))

/-- R159: a cached pointer entry at an address. -/
def ptrAt (s : State) (ps : List PtrEnt) (entry : Nat) : Option Nat :=
  match ps.find? fun p => p.entry = entry with
  | some p => if useCached s entry then some p.table else none
  | none => none

/-- R154-R158: the walk from a table of a level through cached pointers and entries: the leaf, and the pointer entries it
passed; no leaf is PAGE. -/
def walkFrom (s : State) (ps : List PtrEnt) (asid : BitVec 16) (va : Nat) : Nat → Nat → Nat → Option Leaf × List PtrEnt
  | 0, _, _ => (none, [])
  | fuel + 1, lvl, table =>
    let e := table + 16 * lvlIndex lvl va
    let go (t : Nat) : Option Leaf × List PtrEnt :=
      let r := walkFrom s ps asid va fuel (lvl + 1) t
      (r.1, { asid := asid, entry := e, va := va - va % lvlCover lvl, cover := lvlCover lvl, table := t } :: r.2)
    match ptrAt s ps e with
    | some t => go t
    | none =>
      match readEntry s lvl va table with
      | .page => (none, [])
      | .leaf l => (some l, [])
      | .next t => go t

/-- The translation root and the ASID of the team of a core (R151, R372). -/
def rootOf (s : State) (id : CoreId) : Nat := match teamOf s id with | some t => t.root | none => 0
def asidOf (s : State) (id : CoreId) : BitVec 16 := match teamOf s id with | some t => t.asid | none => 0
/-- The team tag of a core (R369, R378). -/
def acctOf (s : State) (id : CoreId) : Byte := match teamOf s id with | some t => t.acct | none => 0

/-- A walk from a root; a root that is not aligned to its table finds nothing (R154). -/
def walkAt (s : State) (root va : Nat) : Option Leaf :=
  if root % 2 ^ 21 ≠ 0 then none else (walkFrom s [] 0 va 4 1 root).1

/-- R145: the 64 KiB pages of the control block of a graph, in which its counters lie. -/
def graphPages (g : Graph) : List Nat := [g.gcb / 65536, (g.gcb + 0x3F + 8 * g.nodes.length) / 65536]

/-- R144, R145: the 64 KiB pages that hold completion counters of a job: that of a team's own counter, LCTAB, that of the job control
block, and those of the control blocks of its graphs, retired ones too. -/
def counterPages (s : State) (t : Team) : List Nat :=
  (if t.lcntPa = 0 then [] else [t.lcntPa / 65536]) ++ [physNat s (t.jcb + 0x058) 8, t.jcb].map (· / 65536) ++
    (s.pkg.graphs.filter fun g => g.job = t.job).flatMap graphPages ++ (s.pkg.pages.filter fun e => e.1 = t.job).map (·.2)

/-- R145: the virtual address at which the Crier maps a physical page of counters (log 8). -/
def counterVaPage (p : Nat) : Nat := (Config.counterVa p).toNat % 2 ^ 56 / 65536 * 65536

/-- R145: the Crier's mapping of a page of completion counters: coherent, user, readable, not writable. -/
def counterLeaf (s : State) (id : CoreId) (va : Nat) : Option Leaf :=
  match teamOf s id with
  | none => none
  | some t => ((counterPages s t).find? fun p => t.jcb ≠ 0 && counterVaPage p = va / 65536 * 65536).map fun p =>
      { pa := p * 65536, size := 65536, va := va / 65536 * 65536, cls := 2, fmt := 0, geom := 0, scl := 0, w0 := 0x9B, entry := 0 }

/-- R159, R145: the walk of a core's team by its die's walk unit, with the pointers it passed; the counters stand where the job's
own mappings leave free. -/
def walkTeam (s : State) (id : CoreId) (va : Nat) : Option Leaf × List PtrEnt :=
  let r := if rootOf s id % 2 ^ 21 ≠ 0 then (none, [])
    else walkFrom s ((dieOf s id.die).walks.filter fun p => p.asid = asidOf s id) (asidOf s id) va 4 1 (rootOf s id)
  if r.1.isSome then r else (counterLeaf s id va, [])

/-- R159: a cached translation serves an address in an address space. -/
def tlbServes (asid : BitVec 16) (va : Nat) (e : TlbEnt) : Bool :=
  e.asid = asid && e.leaf.va ≤ va && va < e.leaf.va + e.leaf.size

/-- R159: the core's L1 TLB, which its contexts and its load and store engines use (`l1`), then the cluster's, which serves them and the
other engines. -/
def tlbFind (l1 : Bool) (s : State) (id : CoreId) (va : Nat) : Option TlbEnt :=
  ((if l1 then (coreOf s id).tlb else []) ++ (clusOf s (CoreId.cl id)).tlb).find? (tlbServes (asidOf s id) va)

/-- R154-R159: the leaf that an access of a core's team goes through: a cached one or that of a walk. -/
def walkBy (l1 : Bool) (s : State) (id : CoreId) (va : Nat) : Option Leaf :=
  match tlbFind l1 s id va with
  | some e => if useCached s (va / 65536) then some e.leaf else (walkTeam s id va).1
  | none => (walkTeam s id va).1
/-- The same for a context. -/
def walk (s : State) (id : CoreId) (va : Nat) : Option Leaf := walkBy true s id va

/-- R158, R159: the entries that a walk reads at their home slices. -/
def walkReads (s : State) (ps : List PtrEnt) (va : Nat) : Nat → Nat → Nat → List Nat
  | 0, _, _ => []
  | fuel + 1, lvl, table =>
    let e := table + 16 * lvlIndex lvl va
    match ptrAt s ps e with
    | some t => walkReads s ps va fuel (lvl + 1) t
    | none => e :: match readEntry s lvl va table with
      | .next t => walkReads s ps va fuel (lvl + 1) t
      | _ => []

/-- R158, R378: the walk of a core's team reads its entries, on its team's account. -/
def touchWalk (s : State) (id : CoreId) (va : Nat) : State :=
  if rootOf s id % 2 ^ 21 ≠ 0 then s
  else (walkReads s ((dieOf s id.die).walks.filter fun p => p.asid = asidOf s id) va 4 1 (rootOf s id)).foldl
    (fun s e => touchHome s (keyOf s e) (e / 128) (acctOf s id) false) s

/-- R159, R167: A LOOKUP: a miss at the core's L1 TLB is counted, and one at the cluster's too, which walks. -/
def lookUp (l1 : Bool) (s : State) (id : CoreId) (va : Nat) : State :=
  let serves := tlbServes (asidOf s id) va
  let su := isSuper (ctxOf s s.cur)
  if l1 && (coreOf s id).tlb.any serves then s
  else
    let s1 := if l1 then count s id 0x44 1 su else s
    if (clusOf s (CoreId.cl id)).tlb.any serves then s1 else touchWalk (count s1 id 0x45 1 su) id va

/-- R159: a table of translations with one more; a full one loses a free one. -/
def putTlb (cap victim : Nat) (e : TlbEnt) (l : List TlbEnt) : List TlbEnt :=
  let rest := l.filter fun o => !(o.asid = e.asid && o.leaf.va = e.leaf.va && o.leaf.size = e.leaf.size)
  e :: (if rest.length < cap then rest else rest.eraseIdx (victim % rest.length))

/-- R159, R167: A TRANSLATION THAT IS USED is looked up and cached, at the core (`l1`) and at the cluster, the pointers of its walk at
the die. -/
def fillTlbBy (l1 : Bool) (s : State) (id : CoreId) (l : Leaf) : State :=
  let a := asidOf s id
  let cl := CoreId.cl id
  let e : TlbEnt := { asid := a, leaf := l }
  if (!l1 || (coreOf s id).tlb.contains e) && (clusOf s cl).tlb.contains e then s
  else
    let ps := if (clusOf s cl).tlb.any (tlbServes a l.va) then [] else (walkTeam s id l.va).2
    let s2 := lookUp l1 s id l.va
    let v := (Config.freeWord s2.tick).toNat
    let s3 := if l1 then modCore s2 id fun c => { c with tlb := putTlb 64 v e c.tlb } else s2
    let s4 := modClus s3 cl fun c => { c with tlb := putTlb 2048 v e c.tlb }
    modDie { s4 with tick := s2.tick + 1 } id.die fun d =>
      { d with walks := ps ++ d.walks.filter fun p => !ps.any fun q => q.asid = p.asid && q.entry = p.entry }
/-- The same for a context. -/
def fillTlb (s : State) (id : CoreId) (l : Leaf) : State := fillTlbBy true s id l

/-- R158: permission of a leaf's word 0 for an access and mode. -/
def permits (w0 : Nat) (k : Acc) (super : Bool) : Bool :=
  (super || natBit w0 7) &&
    (match k with
     | .load => natBit w0 4
     | .store => natBit w0 5
     | .fetch => natBit w0 6)
def leafPermits (l : Leaf) (k : Acc) (super : Bool) : Bool := permits l.w0 k super

/-- R402: a host-window offset lies in some partition's safe tier. -/
def inTier (s : State) (off : Nat) : Bool :=
  s.pkg.tiers.any fun t => t.2.v &&
    t.2.base.toNat * 4096 ≤ off && off < t.2.base.toNat * 4096 + t.2.size.toNat * 4096

/-- The partition of the unit on a core. -/
def partOf (s : State) (id : CoreId) : Nat := match teamOf s id with | some t => t.part | none => 0

/-- R382, R383: an address in the region of some die's compensation records, which no program can address. One at its reset value
that holds no record is none yet (DEDUCED, log 126). -/
def inLas (s : State) (pa : Nat) : Bool :=
  s.dies.any fun d => (d.2.lasbase ≠ 0 || !d.2.las.isEmpty) &&
    (let b := bitsAt d.2.lasbase 12 40 * 4096
     b ≤ pa && pa < b + 128 * 2 ^ (bitsAt d.2.lasbase 0 4 + 10))

/-- R152, R358, R383, R397, R402, R406: whether any access reaches a physical address through a leaf of a class. -/
def paReached (s : State) (cls pa : Nat) : Bool :=
  match paKind pa with
  | .hbm => !inLas s pa && !mget false (dieOf s (channelOf pa / 128)).channelsOff (channelOf pa % 128)
  | .host off => cls ≠ 2 && !inTier s off
  | .peer _ _ => cls ≠ 2
  | .none => false

/-- R401: whether a unit may reach a physical address at all. An undefined partition bounds nothing (log 22). -/
def paAllowed (s : State) (id : CoreId) (cls pa : Nat) : Bool :=
  let p := mget {} s.pkg.parts (partOf s id)
  paReached s cls pa &&
    (match paKind pa with
     | .hbm => !p.v || (p.hbase.toNat * 2 ^ 30 ≤ pa && pa < p.hlim.toNat * 2 ^ 30)
     | .peer port _ => !p.v || p.peers.getLsbD port
     | _ => true)

/-- Where an access goes: the physical address and the leaf it went through. -/
structure Xl where
  pa : Nat
  leaf : Leaf
  deriving DecidableEq, Repr

/-- R423: an address of the system window. -/
def isSysWin (va : Nat) : Bool := natBits va 48 16 = 0xFF

/-- R151-R158: translate for an access; the cause of the trap otherwise. -/
def translateBy (l1 : Bool) (s : State) (id : CoreId) (super : Bool) (k : Acc) (va : Nat) : Except (BitVec 8) Xl :=
  if 2 ^ 56 ≤ va || isSysWin va then .error cPROT
  else match walkBy l1 s id va with
    | none => .error cPAGE
    | some l =>
      let pa := l.pa + (va - l.va)
      if !leafPermits l k super || !paAllowed s id l.cls pa then .error cPROT
      else .ok { pa := pa, leaf := l }
/-- The same for a context. -/
def translate (s : State) (id : CoreId) (super : Bool) (k : Acc) (va : Nat) : Except (BitVec 8) Xl := translateBy true s id super k va

/-- R167: AN ACCESS THAT A FAULT ENDS was looked up, unless a check before the translation ended it. -/
def faulted (l1 : Bool) (s : State) (id : CoreId) (cause : BitVec 8) (va : Nat) : State :=
  if cause = cALIGN || 2 ^ 56 ≤ va || isSysWin va then s else lookUp l1 s id va

/-- R158: the walk unit sets D at an entry, by an indivisible OR at its home slice. -/
def setEntryDirty (s : State) (id : CoreId) (entry : Nat) : State :=
  let s1 := touchHome s (keyOf s entry) (entry / 128) (acctOf s id) true
  physPut s1 entry 8 (physNat s1 entry 8 ||| 256)

/-- R158: a store through a leaf with D = 0 sets D at the entry. -/
def setLeafDirty (s : State) (id : CoreId) (l : Leaf) : State := if natBit l.w0 8 then s else setEntryDirty s id l.entry

/-- The physical address a virtual one stands for, 0 where nothing maps it. -/
def vaPa (s : State) (id : CoreId) (va : Nat) : Nat :=
  match walk s id va with
  | some l => l.pa + (va - l.va)
  | none => 0

/-- R363: the physical address of a poison origin, 0 for a stash origin or none. -/
def originPa (s : State) (r : XReg) : Nat :=
  if r.origin = 0 || r.ostash then 0 else vaPa s s.cur.core r.origin.toNat

/-- The frame of a scalar instruction (R21) with the physical origin of a consumed poison. -/
def scalar (i : Instr) (g : BitVec 3) (legal priv : Bool) (body : State → Ctx → Res) (s : State) : State :=
  scalarWith originPa i g legal priv body s

/-- An open value: what a read of the host or of a peer returns (log 3). -/
def freeBytes (tick n : Nat) : List Byte :=
  (List.range n).map fun k => (Config.freeWord (tick + k)).setWidth 8

/-- R398: a read of the host or of a peer sends its request; what comes back is free (log 3). -/
def askBeyond (s : State) (pa n : Nat) : State :=
  match paKind pa with
  | .host off => sendRead s 16 off n
  | .peer port off => sendRead s port off n
  | _ => s

/-- The writing core and launch of a log entry (R360). -/
def writerOf (s : State) (id : CoreId) : Nat × Nat :=
  match (coreOf s id).unit with | some u => (u.lcid, u.lid.toNat) | none => (0, 0)

/-- R360, R405: a write of a unit leaves its partition. -/
def leave (s : State) (id : CoreId) (pa len dest peer : Nat) (w : Leaving) : State :=
  let u := writerOf s id
  escape s (partOf s id)
    { pa := pa, len := len, dest := dest, peer := peer, lcid := u.1, launch := u.2 % 2 ^ 32, cyc := s.cyc.toNat } w

/-- R29: what the package has written to the host or to a peer is known from here on. -/
def knowFar (s : State) (pa : Nat) (bs : List Byte) (poison : Bool) : State :=
  modPkg s fun p =>
    { p with far := (bs.zipIdx).foldl (fun m b => mset none m (pa + b.2) (some b.1)) p.far
             farMarks := (List.range ((pa + bs.length + 3) / 4 - pa / 4)).foldl (fun m k =>
               let w := pa / 4 + k
               if poison then mset none m w (some true)
               else if pa ≤ 4 * w && 4 * w + 4 ≤ pa + bs.length then mset none m w (some false) else m) p.farMarks }

/-- Write bytes at a physical address with their poison. -/
def writePa (s : State) (id : CoreId) (pa : Nat) (bs : List Byte) (poison : Bool) : State :=
  match paKind pa with
  | .hbm => physWrite s pa bs poison
  | .host off => knowFar (leave s id pa bs.length 0 0 (.host off poison bs)) pa bs poison
  | .peer port off => knowFar (leave s id pa bs.length 1 port (.peer port off poison bs)) pa bs poison
  | .none => s

/-- R29: bytes of the host or of a peer as a read finds them: those known, unless another agent has written them since, which is open;
any other is free (log 3). -/
def farBytes (s : State) (pa n : Nat) : List Byte :=
  (List.range n).map fun k =>
    match mget none s.pkg.far (pa + k) with
    | some b => if Config.freeBool (s.tick + 2 ^ 128 + k) then (Config.freeWord (s.tick + k)).setWidth 8 else b
    | none => (Config.freeWord (s.tick + k)).setWidth 8
/-- The marks of n words of them; a word of which a byte was written anew has an open one. -/
def farWords (s : State) (word n : Nat) : List Bool :=
  (List.range n).map fun k =>
    match mget none s.pkg.farMarks (word + k) with
    | some m => if (List.range 4).any fun j => Config.freeBool (s.tick + 2 ^ 128 + 4 * k + j) then Config.freeBool (s.tick + k) else m
    | none => Config.freeBool (s.tick + k)

/-- Sign extension of the low 8 * n bits. -/
def sextBytes (n v : Nat) : Word :=
  if n = 1 then (BitVec.ofNat 8 v).signExtend 64
  else if n = 2 then (BitVec.ofNat 16 v).signExtend 64
  else if n = 4 then (BitVec.ofNat 32 v).signExtend 64
  else BitVec.ofNat 64 v

/-- The effective address base + sext(OFF10) * size (R116). -/
def effAddr (base : Word) (o : BitVec 10) (size : Nat) : Word :=
  base + o.signExtend 64 * BitVec.ofNat 64 size

/-- R116: checks 2-5 of a plain access. -/
def plainXl (s : State) (super : Bool) (k : Acc) (ea : Word) (size : Nat) : Except (BitVec 8) Xl :=
  if 2 ^ 56 ≤ ea.toNat then .error cPROT
  else if ea.toNat % size ≠ 0 then .error cALIGN
  else translate s s.cur.core super k ea.toNat

/-- R363: the virtual address of the lowest word of an access at `pa` for `va` that is marked in `marks`. -/
def poisonOrigin (marks : SMap Bool) (va pa n : Nat) : Word :=
  let w := wordsOf pa n
  match firstMark marks w.1 w.2 with
  | some m => BitVec.ofNat 64 (va - va % 4 + (4 * m - (pa - pa % 4)))
  | none => BitVec.ofNat 64 (va - va % 4)

end Sys2Proof.Machine
end

