-- ==== Sys2Proof/Machine/Operands.lean ====
section
/-!
DEFINITION. The operand forms of the register instructions: two x sources, one x source, an
immediate, a predicate destination, an FP32 result (05 R91-R100, R110-R115).
-/
namespace Sys2Proof.Machine

/-- R91: xD = f(X[A], X[B]) with the poison of both. -/
def binX (d a b : BitVec 5) (f : Word → Word → Word) (s : State) (c : Ctx) : Res :=
  let ra := readX c a
  let rb := readX c b
  .done (setX s d (mkX (f ra.val rb.val) [ra, rb])) (c.pc + 4)

/-- R91: xD = f(X[A]). -/
def unX (d a : BitVec 5) (f : Word → Word) (s : State) (c : Ctx) : Res :=
  let ra := readX c a
  .done (setX s d (mkX (f ra.val) [ra])) (c.pc + 4)

/-- R97: pD = f(X[A], X[B]); a predicate is never poisoned, so a poisoned source traps. -/
def cmpX (d : BitVec 3) (a b : BitVec 5) (f : Word → Word → Bool) (s : State) (c : Ctx) : Res :=
  consume c [a, b]
    (.done (setP s d (f (readX c a).val (readX c b).val) ((readX c a).dep || (readX c b).dep)) (c.pc + 4))

/-- R97, R99: pD = f(X[A]). -/
def cmp1X (d : BitVec 3) (a : BitVec 5) (f : Word → Bool) (s : State) (c : Ctx) : Res :=
  consume c [a] (.done (setP s d (f (readX c a).val) (readX c a).dep) (c.pc + 4))

/-- OR flags into the FCTL of the current context (R13), with the q.xl tag of the operands they come from (R128). -/
def setFlags (s : State) (f : Word) (dep : Bool) : State :=
  if f = 0 then s else modCtx s s.cur fun c =>
    { c with fctl := c.fctl ||| f, crdep := if dep then mset false c.crdep 0 true else c.crdep }

/-- R14, R110: the end of a scalar FP instruction with the flags it would set: a poisoned result sets
no flag and raises nothing; an enabled flag raises FPE and writes nothing. -/
def fpDone (s : State) (c : Ctx) (d : BitVec 5) (v : Word) (flags : Word) (srcs : List XReg) : Res :=
  let r := mkX v srcs
  if r.poison then .done (setX s d r) (c.pc + 4)
  else if raisesFpe c.fctl flags then .trap s cFPE flags
  else .done (setX (setFlags s flags r.dep) d r) (c.pc + 4)

/-- The FP32 value in bits [31:0] of an x register under the context's FTZ (R110, R82). -/
def fpIn (c : Ctx) (r : XReg) : Num := dec32 (fctlFtz c.fctl) (r.val.setWidth 32)
/-- Round to FP32 by the context's mode, SR as RNE (R110). -/
def fpOut (c : Ctx) (v : Num) : Word × Word :=
  let r := rnd32 (rmNoSr (fctlRm c.fctl)) (fctlFtz c.fctl) v
  (r.1.setWidth 64, r.2)

/-- R111: a two-operand FP32 operation with one rounding. -/
def fpBin (d a b : BitVec 5) (f : BitVec 3 → Num → Num → Num × Word) (s : State) (c : Ctx) : Res :=
  let ra := readX c a
  let rb := readX c b
  let v := f (rmNoSr (fctlRm c.fctl)) (fpIn c ra) (fpIn c rb)
  let r := fpOut c v.1
  fpDone s c d r.1 (v.2 ||| r.2) [ra, rb]

/-- R112: sign injection on bits; a NaN in X[A] gives the canonical NaN. -/
def fsgnBits (sign : Bool → Bool → Bool) (a b : BitVec 32) : BitVec 32 :=
  if numIsNan (dec32 false a) then 0x7FC00000
  else (a &&& 0x7FFFFFFF) ||| (if sign (a.getLsbD 31) (b.getLsbD 31) then 0x80000000 else 0)

def fpSgn (d a b : BitVec 5) (sign : Bool → Bool → Bool) (s : State) (c : Ctx) : Res :=
  let ra := readX c a
  let rb := readX c b
  .done (setX s d (mkX ((fsgnBits sign (ra.val.setWidth 32) (rb.val.setWidth 32)).setWidth 64) [ra, rb])) (c.pc + 4)

/-- R113: an FP compare into a predicate. -/
def fpCmp (d : BitVec 3) (a b : BitVec 5) (cc : BitVec 3) (s : State) (c : Ctx) : Res :=
  consume c [a, b] <|
    let r := numTest cc (fpIn c (readX c a)) (fpIn c (readX c b))
    if raisesFpe c.fctl r.2 then .trap s cFPE r.2
    else
      let dep := (readX c a).dep || (readX c b).dep
      .done (setP (setFlags s r.2 dep) d r.1 dep) (c.pc + 4)

/-- R114: a conversion of X[A] to a word and flags. -/
def fpCvt (d a : BitVec 5) (f : Ctx → Word → Word × Word) (s : State) (c : Ctx) : Res :=
  let ra := readX c a
  let r := f c ra.val
  fpDone s c d r.1 r.2 [ra]

/-- R97: the test of a condition code on two words. -/
def ccTest (cc : BitVec 3) (x y : Word) : Bool :=
  if cc = 0 then x == y
  else if cc = 1 then x != y
  else if cc = 2 then x.slt y
  else if cc = 3 then !x.slt y
  else if cc = 4 then x.ult y
  else !x.ult y

end Sys2Proof.Machine
end

