-- ==== Sys2Proof/Machine/Cache.lean ====
section
/-!
DEFINITION. The home slices and the data caches: where a line is homed, the logical times of coherent lines, the owner tags and
the accounts of the traffic, the L1 with its fills, leases and write-backs, and the accesses of contexts and engines to
memory through them (07 R162-R167; 08 R176-R179, R186; 21 R378; 24 R422).
-/
namespace Sys2Proof.Machine

/-- R157, R232: the row pitch of a format page's leaf. -/
def pagePitch (l : Leaf) : Nat := if isSq l.fmt then l.geom * 4 * eltBits l.fmt / 8 else 16 * l.geom

/-- R157: the rows of a band. -/
def bandRows (l : Leaf) : Nat := if isSq l.fmt then 256 else 128

/-- R163, R164: the home key of the payload line at an address of a leaf. -/
def homeKey (l : Leaf) (pa : Nat) : Nat :=
  if isBlocked l.fmt then l.pa + 128 * ((pa - l.pa) / (bandRows l * pagePitch l)) else pa / 128 * 128

/-- R164: the home key of the scale words of a block row of a leaf. -/
def scaleKey (l : Leaf) (blockRow : Nat) : Nat :=
  l.pa + 128 * (blockRow * (if isSq l.fmt then 4 else 1) / bandRows l)

/-- Bytes and marks of a line with the dirty bytes of another copy of it. -/
def patchBytes (dst src : SMap Byte) (dirty : SMap Nat) : SMap Byte :=
  dirty.foldl (fun m e => mset 0 m e.1 (mget 0 src e.1)) dst
/-- R117, R162: a word that is dirty in full takes its mark along; a part of one leaves a mark that is there. -/
def patchMarks (dst src : SMap Bool) (dirty : SMap Nat) : SMap Bool :=
  (dirty.map fun e => e.1 / 4).eraseDups.foldl (fun m w =>
    let full : Bool := (List.range 4).all fun k => mget 0 dirty (4 * w + k) ≠ 0
    mset false m w (mget false src w || (!full && mget false dst w))) dst

/-- The runs of rising addresses with one mark: start, length, mark. -/
def runsOf (marks : SMap Bool) (l : List Nat) : List (Nat × Nat × Bool) :=
  (l.foldl (fun (acc : List (Nat × Nat × Bool)) a =>
    let p := mget false marks (a / 4)
    match acc with
    | (b, n, q) :: t => if b + n = a && q = p then (b, n + 1, q) :: t else (a, 1, p) :: acc
    | [] => [(a, 1, p)]) []).reverse

/-- R169: the filled mapped lines of a core that hold a line of memory, with their stash offsets. -/
def mappedAt (c : Core) (line : Nat) : List (MapEntry × Nat) :=
  c.maps.flatMap fun m => (m.filled.filter fun e => e.2.pa / 128 = line).map fun e => (m, 128 * e.1)

/-- The dirty bytes of a mapped line, at their physical addresses. -/
def mappedDirty (m : MapEntry) (off line : Nat) : SMap Nat :=
  (mslice m.dirty off 128).map fun e => (e.1 - off + 128 * line, e.2)

/-- A line as it stands beyond the caches of a core: at its home slice with the write buffer of the cluster (R179), or at the host or a
peer, whose bytes are known from then on (R29). -/
def homeImage (s : State) (id : CoreId) (line : Nat) : SMap Byte × SMap Bool × State :=
  if paKind (128 * line) = .hbm then
    let w := mget {} (clusOf s (CoreId.cl id)).wbuf line
    (patchBytes (mslice s.mem (128 * line) 128) w.bytes w.dirty, patchMarks (mslice s.memPoison (32 * line) 32) w.poison w.dirty, s)
  else
    let bs := farBytes s (128 * line) 128
    let ws := farWords s (32 * line) 32
    (putBytes [] (128 * line) bs, ws.zipIdx.foldl (fun m w => mset false m (32 * line + w.2) w.1) [],
     modPkg (askBeyond { s with tick := s.tick + 128 } (128 * line) 128) fun p =>
       { p with far := bs.zipIdx.foldl (fun m b => mset none m (128 * line + b.2) (some b.1)) p.far
                farMarks := ws.zipIdx.foldl (fun m w => mset none m (32 * line + w.2) (some w.1)) p.farMarks })

/-- R162, R169, R179: a line as a fill of a core takes it: its own dirty mapped bytes come before what lies beyond. -/
def fillImage (s : State) (id : CoreId) (line : Nat) : SMap Byte × SMap Bool × State :=
  let c := coreOf s id
  (mappedAt c line).foldl (fun r e =>
    let d := mappedDirty e.1 e.2 line
    let src := (mslice c.stash e.2 128).map fun b => (b.1 - e.2 + 128 * line, b.2)
    let marks := (mslice c.stashPoison (e.2 / 4) 32).map fun b => (b.1 - e.2 / 4 + 32 * line, b.2)
    (patchBytes r.1 src d, patchMarks r.2.1 marks d, r.2.2)) (homeImage s id line)

def l1Of (s : State) (id : CoreId) (line : Nat) : L1Line := mget {} (coreOf s id).l1 line
def modL1 (s : State) (id : CoreId) (line : Nat) (f : L1Line → L1Line) : State :=
  modCore s id fun c => { c with l1 := mmod {} c.l1 line f }

/-- R166: the time that a write to a line present at its home slice takes. -/
def storeTime (s : State) (line pts : Nat) : Nat := Nat.max pts ((homeOf s line).rts + 1)

/-- R162, R166, R177: bytes of one line are written at its home slice at a logical time, past the write buffer. -/
def homePut (s : State) (id : CoreId) (key line : Nat) (owner : Byte) (pts : Nat) (ws : List (Nat × List Byte × Bool)) : State :=
  let s1 := touchHome s key line owner true
  stampHome (ws.foldl (fun s w => writePa s id w.1 w.2.1 w.2.2) s1) line (storeTime s1 line pts)

/-- The dirty bytes of a cached line as runs to write. -/
def dirtyRuns (l : L1Line) (ds : SMap Nat) : List (Nat × List Byte × Bool) :=
  (runsOf l.poison (ds.map (·.1))).map fun r => (r.1, getBytes l.bytes r.1 r.2.1, r.2.2)

/-- R179: a line of the write buffer of a cluster's network reaches its home slice. -/
def drainLine (s : State) (id : CoreId) (line : Nat) : State :=
  let l := mget {} (clusOf s (CoreId.cl id)).wbuf line
  if !l.held then s
  else modClus (homePut s id l.key line l.owner 0 (dirtyRuns l l.dirty)) (CoreId.cl id) fun k =>
    { k with wbuf := mset {} k.wbuf line {} }

/-- R166, R179: A WRITE AT THE HOME SLICE of a line by a core, after what its cluster's write buffer holds of it. -/
def homeWrite (s : State) (id : CoreId) (key line : Nat) (owner : Byte) (pts : Nat) (ws : List (Nat × List Byte × Bool)) : State :=
  homePut (drainLine s id line) id key line owner pts ws

/-- R162: write back the dirty bytes of an L1 line that some agents wrote; they become clean. -/
def l1WriteBack (s : State) (id : CoreId) (line : Nat) (which : Nat → Bool) : State :=
  let l := l1Of s id line
  let ds := l.dirty.filter fun e => which e.2
  if ds.isEmpty then s
  else modL1 (homeWrite s id l.key line l.owner 0 (dirtyRuns l ds)) id line fun l =>
    { l with dirty := l.dirty.filter fun e => !which e.2 }

/-- R162: a line leaves the L1, its dirty bytes written back. -/
def l1Drop (s : State) (id : CoreId) (line : Nat) : State :=
  modL1 (l1WriteBack s id line fun _ => true) id line fun _ => {}

/-- R162: room in the set of a line: 8 ways of 64 sets, chosen by the line's address modulo 64 (DESIGN CHOICE, log 119); a
full set loses a free line. -/
def l1Room (s : State) (id : CoreId) (line : Nat) : State :=
  let set := (coreOf s id).l1.filter fun e => e.1 % 64 = line % 64
  if set.length < 8 then s
  else match set[(Config.freeWord s.tick).toNat % set.length]? with
    | some v => l1Drop { s with tick := s.tick + 1 } id v.1
    | none => s

/-- R162: a line enters the L1, or is read again, under a class; dirty bytes that are there stay. -/
def l1Put (s : State) (id : CoreId) (l : Leaf) (line wts rts : Nat) : State :=
  let r := fillImage s id line
  modL1 r.2.2 id line fun o =>
    { o with held := true, cls := l.cls, key := homeKey l (128 * line), wts := wts, rts := rts
             bytes := patchBytes r.1 o.bytes o.dirty, poison := patchMarks r.2.1 o.poison o.dirty }

/-- R162, R166: a copy serves an access of a class at a logical time. -/
def l1Hit (l : L1Line) (cls pts : Nat) : Bool := l.held && (cls ≠ 2 || (l.cls = 2 && pts ≤ l.rts))

/-- R162, R166, R167: THE LINE OF AN ACCESS IS MADE PRESENT: a hit; a fill; or for a coherent line outside its lease a
renewal, with the line when it has been written since, or has left its slice since. -/
def l1Fetch (s : State) (id : CoreId) (x : Xl) (pts : Nat) : State :=
  let line := x.pa / 128
  let l := l1Of s id line
  let su := isSuper (ctxOf s s.cur)
  if l1Hit l x.leaf.cls pts then s
  else
    let s1 := touchHome (if l.held then s else l1Room s id line) (homeKey x.leaf x.pa) line (acctOf s id) false
    if x.leaf.cls ≠ 2 then l1Put (count s1 id 0x40 1 su) id x.leaf line 0 0
    else
      let s2 := renewHome s1 line pts
      let h := homeOf s2 line
      if l.held && l.cls = 2 && l.wts = h.wts && (homeOf s line).present then modL1 (count s2 id 0x41 1 su) id line fun l => { l with rts := h.rts }
      else l1Put (count s2 id (if l.held then 0x42 else 0x40) 1 su) id x.leaf line h.wts h.rts

/-- The logical clock of the current context goes up to a time (R166). -/
def raisePts (s : State) (t : Nat) : State := modCtx s s.cur fun c => { c with pts := Nat.max c.pts t }

/-- R162, R166: A LOAD OF A CONTEXT within one line: its bytes, the marks of the line, the state after. -/
def ctxLoad (s : State) (x : Xl) (n : Nat) : List Byte × SMap Bool × State :=
  let id := s.cur.core
  let s1 := l1Fetch (fillTlb s id x.leaf) id x (curCtx s).pts
  let l := l1Of s1 id (x.pa / 128)
  (getBytes l.bytes x.pa n, l.poison, if x.leaf.cls = 2 then raisePts s1 l.wts else s1)

/-- R162, R169: the copies a core holds of bytes within one line, those that `follows` picks by class and write time, take a value: its
L1 line and its mapped lines. `clean` when the value stands at the home slice. -/
def patchOwn (s : State) (id : CoreId) (pa : Nat) (bs : List Byte) (poison clean : Bool) (follows : Nat → Nat → Bool := fun _ _ => true) : State :=
  let line := pa / 128
  let wipe (d : SMap Nat) (a : Nat) : SMap Nat := if clean then mclear d a bs.length else d
  modCore s id fun c =>
    let l := mget {} c.l1 line
    let l1 := { l with bytes := putBytes l.bytes pa bs, poison := putMarks l.poison pa bs.length poison, dirty := wipe l.dirty pa }
    let c1 := if l.held && follows l.cls l.wts then { c with l1 := mset {} c.l1 line l1 } else c
    ((mappedAt c1 line).filter fun e => let m := mget {} e.1.filled (e.2 / 128); follows m.cls m.wts).foldl (fun c e =>
      let off := e.2 + (pa - 128 * line)
      { c with
        stash := putBytes c.stash off bs
        stashPoison := putMarks c.stashPoison off bs.length poison
        maps := c.maps.map fun m => if m.off = e.1.off then { m with dirty := wipe m.dirty off } else m }) c1

/-- Cut [off, off + bytes) at the 128-byte lines. -/
def cutLines : Nat → Nat → List Byte → List (Nat × List Byte)
  | 0, _, _ => []
  | fuel + 1, off, bs =>
    if bs.isEmpty then []
    else
      let n := 128 - off % 128
      (off, bs.take n) :: cutLines fuel (off + n) (bs.drop n)

/-- R166, R176: a coherent copy whose write time is w0, that of its line at the home slice, is up to date. -/
def upToDate (w0 cls wts : Nat) : Bool := cls ≠ 2 || wts = w0

/-- R166: the coherent copies of a line that a core holds and that were up to date take the time of its own store. -/
def stampOwn (s : State) (id : CoreId) (line w0 t : Nat) : State :=
  modCore s id fun c =>
    let l := mget {} c.l1 line
    { c with
      l1 := if l.held && l.cls = 2 && l.wts = w0 then mset {} c.l1 line { l with wts := t, rts := t } else c.l1
      maps := c.maps.map fun m => { m with filled := m.filled.map fun e =>
        if e.2.pa / 128 = line && e.2.cls = 2 && e.2.wts = w0 then (e.1, { e.2 with wts := t, rts := t }) else e } }

/-- R166, R167, R177: A STORE WITHIN ONE LINE PERFORMED AT ITS HOME SLICE by an agent of a core at a logical time. The core's own copies
follow, those of a coherent line where they were up to date; any other keeps its old bytes under its old lease. -/
def homeStore (s : State) (id : CoreId) (key pa : Nat) (bs : List Byte) (poison coh : Bool) (pts : Nat) : State :=
  let line := pa / 128
  let s1 := touchHome (drainLine s id line) key line (acctOf s id) true
  let w0 := (homeOf s1 line).wts
  let s2 := if coh && pts < (homeOf s1 line).rts + 1 then count s1 id 0x43 1 (isSuper (ctxOf s s.cur)) else s1
  let t := storeTime s2 line pts
  stampOwn (patchOwn (stampHome (writePa s2 id pa bs poison) line t) id pa bs poison true (upToDate w0)) id line w0 t

/-- R166: a coherent store or atomic of the current context. -/
def cohStore (s : State) (key pa : Nat) (bs : List Byte) (poison : Bool) : State :=
  let s1 := homeStore s s.cur.core key pa bs poison true (curCtx s).pts
  raisePts s1 (homeOf s1 (pa / 128)).wts

/-- A context as the writer of dirty bytes (R182). -/
def ctxWriter (s : State) : Nat := 1 + ctxCode s.cur.kind

/-- R183: note a block that a store of the current context reaches. -/
def noteStore (s : State) (pa n : Nat) : State :=
  modCtx s s.cur fun c => { c with stored := markDirty c.stored pa n }

/-- R162: a store of the agent `who` of a core within one line of a private or read-shared page: the bytes stand in the L1, dirty. -/
def l1Store (s : State) (id : CoreId) (x : Xl) (who : Nat) (bs : List Byte) (poison : Bool) : State :=
  modL1 (patchOwn (l1Fetch s id x 0) id x.pa bs poison false) id (x.pa / 128) fun l =>
    { l with owner := acctOf s id
             dirty := (List.range bs.length).foldl (fun d k => mset 0 d (x.pa + k) who) l.dirty }

/-- R117, R158, R162: A STORE OF A CONTEXT within one line: a coherent one at the home slice, any other in the L1. -/
def ctxStore (s : State) (x : Xl) (bs : List Byte) (poison : Bool) : State :=
  let id := s.cur.core
  let s1 := fillTlb (setLeafDirty s id x.leaf) id { x.leaf with w0 := x.leaf.w0 ||| 256 }
  noteStore (if x.leaf.cls = 2 then cohStore s1 (homeKey x.leaf x.pa) x.pa bs poison
    else l1Store s1 id x (ctxWriter s) bs poison) x.pa bs.length

/-- R166, R193, R196: a fresh load of a context at the home slice of a coherent line raises its clock. -/
def homeLoad (s : State) (x : Xl) : State :=
  let line := x.pa / 128
  let s1 := renewHome (touchHome (fillTlb s s.cur.core x.leaf) (homeKey x.leaf x.pa) line (acctOf s s.cur.core) false) line (curCtx s).pts
  raisePts s1 (homeOf s1 line).wts

/-- R162: the moving engine reads and writes memory through the core's L1. -/
def engL1 (s : State) : Bool := s.curEng = .ld || s.curEng = .st

/-- R166: the logical clock of the moving engine, and its rise to a time. -/
def engPts (s : State) : Nat := (queueOf s s.cur.core s.curEng).pts
def raiseEng (s : State) (t : Nat) : State := modQueue s s.cur.core s.curEng fun q => { q with pts := Nat.max q.pts t }
/-- The same to the write time of a line at its home slice, by an access of a class. -/
def raiseTo (s : State) (cls line : Nat) : State := if cls = 2 then raiseEng s (homeOf s line).wts else s

/-- R186: the engine as the writer of dirty bytes: a code beyond those of the contexts. -/
def engWriter : Nat := 4

/-- R162, R166: A STORE OF AN ENGINE: that of the store engine to a private or read-shared page that is no format page in the L1, any
other performed at the home slices. `key` gives the home key of an address. -/
def engStore (s : State) (id : CoreId) (x : Xl) (key : Nat → Nat) (pa : Nat) (bs : List Byte) (poison : Bool) : State :=
  (cutLines (bs.length / 128 + 2) pa bs).foldl (fun s p =>
    if engL1 s && x.leaf.cls ≠ 2 && !isBlocked x.leaf.fmt then l1Store s id { x with pa := p.1 } engWriter p.2 poison
    else raiseTo (homeStore s id (key p.1) p.1 p.2 poison (x.leaf.cls = 2) (engPts s)) x.leaf.cls (p.1 / 128)) s

/-- R251: the lines of one update at the home slices take the same logical time. -/
def levelLines (s : State) (id : CoreId) (lines : List Nat) : State :=
  let t := (lines.map fun l => (homeOf s l).wts).foldl Nat.max 0
  lines.foldl (fun s l => stampOwn (stampHome s l t) id l (homeOf s l).wts t) s

/-- What a context, or an instruction fetch, of a core sees of bytes within one line: its L1 copy, else what a fill would take. -/
def seenBytes (s : State) (id : CoreId) (pa n : Nat) : List Byte :=
  let l := l1Of s id (pa / 128)
  getBytes (if l.held then l.bytes else (fillImage s id (pa / 128)).1) pa n

/-- R21, R378: an instruction fetch reads bytes within one line; it fills no data cache, and its home slice where that has not got the
line. What the instruction caches of a core save is open: no hit at a home slice is counted (log 6). -/
def fetchBytes (s : State) (id : CoreId) (pa n : Nat) : List Byte × State :=
  let line := pa / 128
  (seenBytes s id pa n,
   if (l1Of s id line).held then s
   else if (homeOf s line).present then (fillImage s id line).2.2
   else touchHome (fillImage s id line).2.2 (pa / 128 * 128) line (acctOf s id) false)

/-- R162: at the end of a unit and at a swap-out the dirty bytes of the L1 are written back; private lines go, so that no team
finds them stale (DEDUCED, log 121). -/
def l1Flush (s : State) (id : CoreId) : State :=
  let ls := (coreOf s id).l1.map (·.1)
  let s1 := ls.foldl (fun s l => l1WriteBack s id l fun _ => true) s
  modCore s1 id fun c => { c with l1 := c.l1.filter fun e => e.2.cls ≠ 0 }

/-- R179: the write buffer of a cluster's network reaches the home slices. -/
def flushBuf (s : State) (id : CoreId) : State :=
  (clusOf s (CoreId.cl id)).wbuf.foldl (fun s e => drainLine s id e.1) s

/-- R179: dirty bytes of a line go into the write buffer of the cluster's network. -/
def toBuf (s : State) (id : CoreId) (line key : Nat) (bytes : SMap Byte) (poison : SMap Bool) (dirty : SMap Nat) (owner : Byte) : State :=
  modClus s (CoreId.cl id) fun k =>
    { k with wbuf := mmod {} k.wbuf line fun b =>
        { b with held := true, key := key, owner := owner, bytes := patchBytes b.bytes bytes dirty
                 poison := patchMarks b.poison poison dirty
                 dirty := dirty.foldl (fun d e => mset 0 d e.1 e.2) b.dirty } }

/-- R179, R182: the dirty bytes of a read-shared L1 line that an agent wrote are published: to the home slice, or at scope clus
to the cluster network's write buffer, which may pass them on at once. -/
def l1Publish (s : State) (id : CoreId) (line : Nat) (who : Nat) (buf : Bool) : State :=
  let l := l1Of s id line
  let ds := l.dirty.filter fun e => e.2 = who
  if l.cls ≠ 1 || ds.isEmpty then s
  else if buf then
    modL1 (toBuf s id line l.key l.bytes l.poison ds l.owner) id line fun l =>
      { l with dirty := l.dirty.filter fun e => e.2 ≠ who }
  else l1WriteBack s id line fun k => k = who

end Sys2Proof.Machine
end

