-- ==== Sys2Proof/Machine/Stash.lean ====
section
/-!
DEFINITION. The stash, its map entries and the tile table: shared operations and the instructions
LDS, STS, SMAP, SUNMAP, SFLUSH, SINV, TTSET, TTQ, TDESC (07 R153, R169-R175; 02 R48).
-/
namespace Sys2Proof.Machine

/-- The map entry that holds a stash offset. -/
def mapAt (c : Core) (off : Nat) : Option MapEntry :=
  c.maps.find? fun m => m.off ≤ off && off < m.off + m.len

/-- Change the map entry with a base offset. -/
def modMap (c : Core) (base : Nat) (f : MapEntry → MapEntry) : Core :=
  { c with maps := c.maps.map fun m => if m.off = base then f m else m }

/-- The virtual address that a mapped stash offset stands for. -/
def mapVa (m : MapEntry) (off : Nat) : Nat := m.va.toNat + (off - m.off)

/-- R141, R169: bytes and marks of the stash; a block is written from its first write on. -/
def stashBytes (c : Core) (off n : Nat) : List Byte := getBytes c.stash off n
def stashMark (c : Core) (off n : Nat) : Bool := let w := wordsOf off n; anyMark c.stashPoison w.1 w.2
def stashSet (c : Core) (off : Nat) (bs : List Byte) (poison : Bool) : Core :=
  { c with
    stash := putBytes c.stash off bs
    stashPoison := putMarks c.stashPoison off bs.length poison
    stashWritten := if bs.isEmpty then c.stashWritten else
      (List.range ((off + bs.length - 1) / 4096 - off / 4096 + 1)).foldl
        (fun m k => mset false m (off / 4096 + k) true) c.stashWritten }

/-- A byte or an element code with its poison. -/
abbrev Pz := Nat × Bool

/-- Bytes with marks into the raw stash of a core, 4-byte word by word. -/
def stashSetPz (c : Core) (off : Nat) (bs : List Pz) : Core :=
  (cutWords (bs.length + 1) off bs).foldl (fun c p => stashSet c p.1 (p.2.map fun b => BitVec.ofNat 8 b.1) (p.2.any (·.2))) c
where
  /-- Cut at 4-byte words. -/
  cutWords : Nat → Nat → List Pz → List (Nat × List Pz)
    | 0, _, _ => []
    | fuel + 1, off, bs =>
      if bs.isEmpty then [] else (off, bs.take (4 - off % 4)) :: cutWords fuel (off + (4 - off % 4)) (bs.drop (4 - off % 4))

/-- R189, R190: a window piece lands in the stash of its rank. -/
def landPiece (c : ClusId) (s : State) (p : McPiece) : State := modCore s (coreAt c p.rank) fun co => stashSetPz co p.off p.bytes

/-- R190: the pieces of the present cycle land after an STS of it. -/
def landAgain (s : State) : State :=
  ((curClus s).mcPieces.filter fun p => p.cycle = s.cyc.toNat).foldl (landPiece (CoreId.cl s.cur.core)) s

/-- R169, R162: a line as a fill of the mapped stash takes it: the dirty bytes of the core's L1 come before what lies beyond. -/
def stashImage (s : State) (id : CoreId) (line : Nat) : SMap Byte × SMap Bool × State :=
  let l := l1Of s id line
  let r := fillImage s id line
  (patchBytes r.1 l.bytes l.dirty, patchMarks r.2.1 l.poison l.dirty, r.2.2)

/-- R169: a mapped line takes its line of memory, with its marks: payload only. -/
def fillLine (s : State) (id : CoreId) (m : MapEntry) (off : Nat) (e : MLine) : State :=
  let r := stashImage s id (e.pa / 128)
  modCore r.2.2 id fun c =>
    let marks := (List.range 32).map fun k => mget false r.2.1 (e.pa / 4 + k)
    modMap { c with
      stash := putBytes c.stash off (getBytes r.1 e.pa 128)
      stashPoison := marks.zipIdx.foldl (fun p w => mset false p (off / 4 + w.2) w.1) c.stashPoison } m.off
      fun m => { m with filled := mset {} m.filled (off / 128) e }

/-- R166: a mapped line with its times. -/
def stampLine (s : State) (id : CoreId) (m : MapEntry) (off : Nat) (e : MLine) : State :=
  modCore s id fun c => modMap c m.off fun m => { m with filled := mset {} m.filled (off / 128) e }

/-- R166: the logical time of an access to mapped stash: that of its agent, the context `pts` or the moving engine, with the stash's own
clock (DESIGN CHOICE, log 122). -/
def stashTime (s : State) (id : CoreId) (pts : Option Nat) : Nat := Nat.max (coreOf s id).stashPts (pts.getD (engPts s))

/-- R166: the clocks of the mapped stash and of the agent that reads it go up to a time. -/
def raiseStash (s : State) (id : CoreId) (pts : Option Nat) (w : Nat) : State :=
  let s1 := modCore s id fun c => { c with stashPts := Nat.max c.stashPts w }
  if pts.isSome then raisePts s1 w else raiseEng s1 w

/-- R166, R167: A COHERENT MAPPED LINE IS MADE GOOD for an access: a hit within the lease, or a renewal, with the line when it was
written or left its slice since. -/
def renewLine (s : State) (id : CoreId) (super : Bool) (pts : Option Nat) (m : MapEntry) (off : Nat) (e : MLine) : State :=
  let line := e.pa / 128
  let t := stashTime s id pts
  let raise (s : State) (w : Nat) : State := raiseStash s id pts w
  if e.cls ≠ 2 then s
  else if t ≤ e.rts then raise s e.wts
  else
    let s1 := renewHome (touchHome s e.key line (acctOf s id) false) line t
    let h := homeOf s1 line
    let e1 := { e with wts := h.wts, rts := h.rts }
    raise (if e.wts = h.wts && (homeOf s line).present then stampLine (count s1 id 0x41 1 super) id m off e1
      else fillLine (count s1 id 0x42 1 super) id m off e1) h.wts

/-- R158, R171: a store sets D at the entry its mapped line came by. -/
def dirtyLine (s : State) (id : CoreId) (off : Nat) : State :=
  match mapAt (coreOf s id) off with
  | none => s
  | some m =>
    let e := mget {} m.filled (off / 128)
    if natBit e.w0 8 then s
    else stampLine (setEntryDirty s id e.entry) id m off { e with w0 := e.w0 ||| 256 }

/-- R169, R162, R166: fill a mapped line through a translation. -/
def fillFresh (s : State) (id : CoreId) (pts : Option Nat) (m : MapEntry) (off : Nat) (x : Xl) : State :=
  let line := x.pa / 128
  let key := homeKey x.leaf x.pa
  let s1 := touchHome s key line (acctOf s id) false
  let e : MLine := { held := true, pa := x.pa, cls := x.leaf.cls, key := key, entry := x.leaf.entry, w0 := x.leaf.w0, owner := acctOf s id }
  if x.leaf.cls ≠ 2 then fillLine s1 id m off e
  else
    let s2 := renewHome s1 line (stashTime s id pts)
    let h := homeOf s2 line
    raiseStash (fillLine s2 id m off { e with wts := h.wts, rts := h.rts }) id pts h.wts

/-- R169, R171, R161: MAKE THE MAPPED LINE of `a` PRESENT for an access there. A line that is filled by an entry that permits
the access is not translated again; any other is (log 123). The cause and the virtual address of a fault, and the state after it. -/
def touchLine (s : State) (id : CoreId) (super store : Bool) (pts : Option Nat) (a : Nat) :
    Except (BitVec 8 × Word × State) State :=
  let off := a / 128 * 128
  match mapAt (coreOf s id) off with
  | none => .ok s
  | some m =>
    let e := mget {} m.filled (off / 128)
    let k : Acc := if store then .store else .load
    let l1 : Bool := pts.isSome || engL1 s
    let made : Except (BitVec 8) State :=
      if e.held && permits e.w0 k super then .ok (renewLine s id super pts m off e)
      else match translateBy l1 s id super k (mapVa m off) with
      | .error c => .error c
      | .ok x =>
        let s1 := fillTlbBy l1 s id x.leaf
        .ok (if e.held then renewLine s1 id super pts m off { e with entry := x.leaf.entry, w0 := x.leaf.w0 }
          else fillFresh s1 id pts m off x)
    match made with
    | .error c => .error (c, BitVec.ofNat 64 (mapVa m a), faulted l1 s id c (mapVa m off))
    | .ok s1 => .ok (if store then dirtyLine s1 id off else s1)

/-- R169, R162, R183: after a store of the agent `who` to a mapped line: a coherent line is written through to its home slice, any
other becomes dirty there, and the core's L1 copy follows; `who` is a writer's code. -/
def storeThrough (s : State) (id : CoreId) (who off : Nat) (bs : List Byte) (poison : Bool) : State :=
  match mapAt (coreOf s id) off with
  | none => s
  | some m =>
    let e := mget {} m.filled (off / 128)
    let pa := e.pa + off % 128
    if !e.held then s
    else
      let s1 :=
        if e.cls = 2 then
          if who < 4 then cohStore s e.key pa bs poison
          else
            let s1 := homeStore s id e.key pa bs poison true (stashTime s id none)
            raiseStash s1 id none (homeOf s1 (pa / 128)).wts
        else modCore (patchOwn s id pa bs poison false) id fun c => modMap c m.off fun m =>
          { m with dirty := (List.range bs.length).foldl (fun d k => mset 0 d (off + k) who) m.dirty
                   filled := mset {} m.filled (off / 128) { e with owner := acctOf s id } }
      if who < 4 then noteStore s1 pa bs.length else s1

/-- Write stash bytes by an agent, mapped lines by their class. -/
def stashPutAs (who : Nat) (s : State) (id : CoreId) (off : Nat) (bs : List Byte) (poison : Bool) : State :=
  let s1 := modCore s id fun c => stashSet c off bs poison
  if (coreOf s1 id).maps.isEmpty then s1
  else (cutLines (bs.length / 128 + 2) off bs).foldl (fun s p => storeThrough s id who p.1 p.2 poison) s1

/-- Write stash bytes by an engine. -/
def stashPut (s : State) (id : CoreId) (off : Nat) (bs : List Byte) (poison : Bool) : State := stashPutAs engWriter s id off bs poison

/-- R162, R169, R349: write back the dirty bytes of the mapped line at `off` that some agents wrote; they become clean. -/
def flushLine (s : State) (id : CoreId) (m : MapEntry) (off : Nat) (which : Nat → Bool) : State :=
  let e := mget {} m.filled (off / 128)
  let ds := (mslice m.dirty off 128).filter fun d => which d.2
  if !e.held || ds.isEmpty then s
  else
    let c := coreOf s id
    let ws := (runsOf c.stashPoison (ds.map (·.1))).map fun r => (e.pa + (r.1 - off), getBytes c.stash r.1 r.2.1, r.2.2)
    modCore (homeWrite s id e.key (e.pa / 128) e.owner 0 ws) id fun c => modMap c m.off fun m => { m with dirty := m.dirty.filter fun d => !(ds.any fun x => x.1 = d.1) }

/-- R179, R182: the dirty bytes of a read-shared mapped line that an agent wrote are published, as l1Publish does. -/
def mappedPublish (s : State) (id : CoreId) (m : MapEntry) (off who : Nat) (buf : Bool) : State :=
  let e := mget {} m.filled (off / 128)
  let line := e.pa / 128
  let ds := (mslice m.dirty off 128).filter fun d => d.2 = who
  if e.cls ≠ 1 || ds.isEmpty then s
  else if buf then
    let c := coreOf s id
    let up (d : SMap Nat) : SMap Nat := d.map fun x => (x.1 - off + e.pa, x.2)
    let src := (mslice c.stash off 128).map fun b => (b.1 - off + e.pa, b.2)
    let marks := (mslice c.stashPoison (off / 4) 32).map fun b => (b.1 - off / 4 + e.pa / 4, b.2)
    modCore (toBuf s id line e.key src marks (up ds) e.owner) id fun c => modMap c m.off fun m =>
      { m with dirty := m.dirty.filter fun d => !(ds.any fun x => x.1 = d.1) }
  else flushLine s id m off fun k => k = who

/-- The lines of a map entry that hold dirty bytes. -/
def dirtyLines (m : MapEntry) : List Nat := (m.dirty.map fun e => e.1 / 128 * 128).eraseDups

/-- R170, R143, R169: write back every dirty byte of an entry in the lines that meet [lo, lo + n). -/
def flushEntry (s : State) (id : CoreId) (base lo n : Nat) : State :=
  match (coreOf s id).maps.find? fun m => m.off = base with
  | none => s
  | some m => ((dirtyLines m).filter fun l => lo < l + 128 && l < lo + n).foldl (fun s l => flushLine s id m l fun _ => true) s

/-- R170: write back every dirty byte in the mapped lines that meet a range. -/
def flushRange (s : State) (id : CoreId) (lo n : Nat) : State :=
  if n = 0 then s else (coreOf s id).maps.foldl (fun s m => flushEntry s id m.off lo n) s

/-- R162, R169: write back and drop every mapped line, and write back what the L1 holds (team swap-out, retirement). -/
def flushDrop (s : State) (id : CoreId) : State :=
  modCore (l1Flush (flushRange s id 0 (2 ^ 21)) id) id fun c =>
    { c with maps := c.maps.map fun m => { m with filled := [], dirty := [] } }

/-- R171: where LDS and STS go, by checks 2-6; `tval` is ea for 2-5 and the virtual address for 6. The state is that after the access was
looked up. -/
def stashXl (s : State) (super store : Bool) (ea : Word) (size : Nat) :
    Except (BitVec 8 × Word × State) (CoreId × Nat × State) :=
  let a := ea.toNat
  if 2 ^ 23 ≤ a then .error (cPROT, ea, s)
  else if a % size ≠ 0 then .error (cALIGN, ea, s)
  else
    let r := stashRank a
    let own : Bool := r = s.cur.core.rank
    let id : CoreId := { s.cur.core with rank := r }
    if !own && (teamSize s s.cur.core ≤ r || (coreOf s id).retired || (coreOf s id).unit.isNone) then .error (cPROT, ea, s)
    else if !own && inMap (coreOf s id).maps (stashOff a) then .error (cPROT, ea, s)
    else if own then
      match touchLine s id super store (some (curCtx s).pts) (stashOff a) with
      | .error e => .error e
      | .ok s1 => .ok (id, stashOff a, s1)
    else .ok (id, stashOff a, count s s.cur.core 0x47 1 super)

/-- The size of a W field (R60). -/
def wSize (w : BitVec 2) : Nat := 2 ^ w.toNat

/-- R363: the stash address of the lowest marked word of [off, off + n), for an access at `ea`. -/
def stashOrigin (c : Core) (ea : Word) (off n : Nat) : Word :=
  let w := wordsOf off n
  match firstMark c.stashPoison w.1 w.2 with
  | some k => BitVec.ofNat 64 (ea.toNat - off + 4 * k)
  | none => 0

/-- R171: LDS. -/
def execLds (d a : BitVec 5) (w : BitVec 2) (o : BitVec 10) (g : BitVec 3) (s : State) : Host.Outcome State Fault Refusal :=
  .next (scalar (.lds d a w o g) g true false (fun s c =>
    consume c [a] <|
      let n := wSize w
      let ea := effAddr (readX c a).val o n
      match stashXl s (isSuper c) false ea n with
      | .error e => .trap e.2.2 e.1 e.2.1
      | .ok (id, off, s1) =>
        let core := coreOf s1 id
        let p := stashMark core off n
        .done (setX s1 d
          { val := sextBytes n (leNat (stashBytes core off n)), poison := p,
            origin := stashOrigin core ea off n, ostash := p }) (c.pc + 4)) s)

/-- R171, R190: STS; a poisoned X[D] marks the word (R117). -/
def execSts (d a : BitVec 5) (w : BitVec 2) (o : BitVec 10) (g : BitVec 3) (s : State) : Host.Outcome State Fault Refusal :=
  .next (scalar (.sts d a w o g) g true false (fun s c =>
    consume c [a] <|
      let n := wSize w
      let ea := effAddr (readX c a).val o n
      match stashXl s (isSuper c) true ea n with
      | .error e => .trap e.2.2 e.1 e.2.1
      | .ok (id, off, s1) =>
        .done (landAgain (stashPutAs (ctxWriter s) s1 id off (leBytes n (readX c d).val.toNat) (readX c d).poison)) (c.pc + 4)) s)

/-- Two ranges meet. -/
def rangesMeet (a n b m : Nat) : Bool := a < b + m && b < a + n

/-- R170: SMAP. Raw bytes under the new region are hidden by the unfilled lines. -/
def execSmap (d a b : BitVec 5) (g : BitVec 3) (s : State) : Host.Outcome State Fault Refusal :=
  .next (scalar (.smap d a b g) g true false (fun s c =>
    consume c [a, b, d] <|
      let off := (readX c d).val.toNat
      let va := (readX c a).val
      let len := (readX c b).val.toNat
      let core := curCore s
      if 2 ^ 21 ≤ off || 2 ^ 56 ≤ va.toNat then .trap s cPROT va
      else if off % 4096 ≠ 0 || va.toNat % 4096 ≠ 0 || len % 4096 ≠ 0 || len = 0 || 2 ^ 21 < off + len then .trap s cALIGN va
      else if core.maps.any (fun m => rangesMeet m.off m.len off len) || 8 ≤ core.maps.length then .trap s cPROT va
      else .done (modCore s s.cur.core fun c => { c with maps := c.maps ++ [{ off := off, va := va, len := len }] }) (c.pc + 4)) s)

/-- R170: SUNMAP, after what the write buffer of the cluster's network holds; the contents stay, as raw. -/
def execSunmap (a : BitVec 5) (g : BitVec 3) (s : State) : Host.Outcome State Fault Refusal :=
  .next (scalar (.sunmap a g) g true false (fun s c =>
    consume c [a] <|
      let v := (readX c a).val
      match (curCore s).maps.find? fun m => m.off = v.toNat with
      | none => .trap s cPROT v
      | some m =>
        let s1 := flushEntry (flushBuf s s.cur.core) s.cur.core m.off m.off m.len
        .done (modCore s1 s.cur.core fun c =>
          { c with maps := c.maps.filter (fun e => e.off ≠ m.off)
                   stashWritten := (List.range (m.len / 4096)).foldl
                     (fun w k => mset false w (m.off / 4096 + k) true) c.stashWritten }) (c.pc + 4)) s)

/-- R170: SFLUSH, after what the write buffer of the cluster's network holds. -/
def execSflush (a b : BitVec 5) (g : BitVec 3) (s : State) : Host.Outcome State Fault Refusal :=
  .next (scalar (.sflush a b g) g true false (fun s c =>
    consume c [a, b] <|
      .done (flushRange (flushBuf s s.cur.core) s.cur.core (readX c a).val.toNat (readX c b).val.toNat) (c.pc + 4)) s)

/-- R170: SINV, after what the write buffer holds; the mapped lines of the range are dropped with their dirty bytes. -/
def execSinv (a b : BitVec 5) (g : BitVec 3) (s : State) : Host.Outcome State Fault Refusal :=
  .next (scalar (.sinv a b g) g true false (fun s c =>
    consume c [a, b] <|
      let va := (readX c a).val
      let vb := (readX c b).val
      if va.toNat % 128 ≠ 0 then .trap s cALIGN va
      else if vb.toNat % 128 ≠ 0 then .trap s cALIGN vb
      else .done (modCore (flushBuf s s.cur.core) s.cur.core fun c =>
        { c with maps := c.maps.map fun m =>
            { m with filled := mclear m.filled (va.toNat / 128) (vb.toNat / 128)
                     dirty := mclear m.dirty va.toNat vb.toNat } }) (c.pc + 4)) s)

/-- A tile of a core's table. -/
def tileOf (s : State) (id : CoreId) (t : BitVec 6) : Tile := mget {} (coreOf s id).tiles t.toNat
def modTile (s : State) (id : CoreId) (t : BitVec 6) (f : Tile → Tile) : State :=
  modCore s id fun c => { c with tiles := mmod {} c.tiles t.toNat f }

def tileRows (t : Tile) : Nat := t.rows.toNat + 1
def tileCols (t : Tile) : Nat := t.cols.toNat + 1
/-- R48: the packed bytes of a row of `cols` elements. -/
def packedRow (fmt : BitVec 4) (cols : Nat) : Nat := (cols * eltBits fmt + 7) / 8
/-- R48: the scale bytes of a tile. -/
def scaleBytes (fmt : BitVec 4) (rows cols : Nat) : Nat :=
  if isSq fmt then rows / 4 * (cols / 4) * 2 else if fmt = 5 then rows * cols / 32 else 0

/-- R172, R48: whether a base word and a geometry word bind a tile. -/
def bindingOk (base geom : Word) : Bool :=
  let b := base.toNat
  let pitch := bitsAt geom 32 16 * 32
  let fmt : BitVec 4 := geom.extractLsb' 14 4
  let cols := bitsAt geom 7 7 + 1
  let rows := bitsAt geom 0 7 + 1
  b < 2 ^ 21 && b % 32 = 0 && (geom &&& 0xFFFF0000FFFC0000#64) == 0 && fmt.toNat ≤ 9 && pitch ≠ 0 &&
    packedRow fmt cols ≤ pitch && (!isSq fmt || (rows % 4 = 0 && cols % 4 = 0)) &&
    (fmt ≠ 5 || cols % 32 = 0) && b + rows * pitch + scaleBytes fmt rows cols ≤ 2 ^ 21

/-- R172: the tile that two valid words bind. -/
def bindTile (base geom : Word) : Tile :=
  { base := base.setWidth 21, pitch := geom.extractLsb' 32 16, fmt := geom.extractLsb' 14 4,
    cols := geom.extractLsb' 7 7, rows := geom.extractLsb' 0 7, bound := true }

/-- R175: TTSET. CLR wants every other bit of the geometry word 0; of the base word only reserved bits are
checked then. -/
def execTtset (d a b : BitVec 5) (t : BitVec 6) (g : BitVec 3) (s : State) : Host.Outcome State Fault Refusal :=
  .next (scalar (.ttset d a b t g) g true false (fun s c =>
    consume c [a, b] <|
      let base := (readX c a).val
      let geom := (readX c b).val
      let put (s : State) (v : Word) : Res := .done (setX s d (mkX v [])) (c.pc + 4)
      if (tileOf s s.cur.core t).st ≠ .empty then put s 1
      else if geom = 0x8000000000000000#64 ∧ base.toNat < 2 ^ 21 then put (modTile s s.cur.core t fun _ => {}) 0
      else if bindingOk base geom then put (modTile s s.cur.core t fun _ => bindTile base geom) 0
      else put s 2) s)

/-- R175: TTQ. -/
def execTtq (d : BitVec 5) (t : BitVec 6) (g : BitVec 3) (s : State) : Host.Outcome State Fault Refusal :=
  .next (scalar (.ttq d t g) g true false (fun s c =>
    .done (setX s d (mkX (BitVec.ofNat 64 (tileCode (tileOf s s.cur.core t).st)) [])) (c.pc + 4)) s)

/-- R175, R172: TDESC; an unbound entry reads zeros. -/
def execTdesc (d : BitVec 5) (sel : BitVec 1) (t : BitVec 6) (g : BitVec 3) (s : State) : Host.Outcome State Fault Refusal :=
  .next (scalar (.tdesc d sel t g) g true false (fun s c =>
    let tile := tileOf s s.cur.core t
    .done (setX s d (mkX (BitVec.ofNat 64 (if sel = 1 then tileGeom tile else tileBase tile)) [])) (c.pc + 4)) s)

end Sys2Proof.Machine
end

