-- ==== Sys2Proof/Machine/Atomic.lean ====
section
/-!
DEFINITION. Fences and the operations at the home slices: atomics, WAITV and futures
(08 R179-R184, R191-R198).
-/
namespace Sys2Proof.Machine

/-- R179, R180: the unit that a scope names around a core, as one key. A quad is the clusters 4q to 4q + 3 of a die
(DESIGN CHOICE, log 124). -/
def scopeUnit (s : State) (id : CoreId) (scope : Nat) : Nat :=
  let c := CoreId.cl id
  65536 * scope + (if scope ≤ 1 then coreKey id else if scope = 2 then clusKey c else if scope = 3 then 8 * c.die + c.clus / 4
    else if scope = 4 then c.die else if scope = 5 then partOf s id else 0)

/-- The lines with dirty bytes that an agent wrote, in the L1 and in mapped stash, written to their home slices; those of the
read-shared class only, or all. -/
def writeOut (s : State) (id : CoreId) (who : Nat) (all : Bool) : State :=
  let lines := (coreOf s id).l1.map (·.1)
  let s1 := lines.foldl (fun s l =>
    if all then l1WriteBack s id l fun k => k = who else l1Publish s id l who false) s
  (coreOf s1 id).maps.foldl (fun s m => (dirtyLines m).foldl (fun s l =>
    if all then flushLine s id m l fun k => k = who else mappedPublish s id m l who false) s) s1

/-- The same into the write buffer of the cluster's network. -/
def writeBuf (s : State) (id : CoreId) (who : Nat) : State :=
  let lines := (coreOf s id).l1.map (·.1)
  let s1 := lines.foldl (fun s l => l1Publish s id l who true) s
  (coreOf s1 id).maps.foldl (fun s m => (dirtyLines m).foldl (fun s l => mappedPublish s id m l who true) s) s1

/-- The home lines of the read-shared bytes an agent wrote. -/
def sharedLines (c : Core) (who : Nat) : List Nat :=
  (c.l1.filter fun e => e.2.cls = 1 && e.2.dirty.any fun d => d.2 = who).map (·.1) ++
    c.maps.flatMap fun m => ((m.filled.filter fun e => e.2.cls = 1 &&
      (mslice m.dirty (128 * e.1) 128).any fun d => d.2 = who).map fun e => e.2.pa / 128)

/-- R182: PUBLISH at a scope by the agent `who` of a core. Ctx and core leave the bytes where they are; clus leaves them in the
write buffer of the cluster's network, which may pass them on at once; a wider scope, and eng, at the home slices (R179). The
largest write time goes on record for the unit. What the core's engines have stored in its L1 goes along, so that a chain of releases
and acquires carries it on (DEDUCED, log 120). -/
def publish (s : State) (id : CoreId) (who scope : Nat) : State :=
  if scope < 2 || 10 < scope then s
  else if scope = 2 && Config.freeBool s.tick then writeBuf (writeBuf { s with tick := s.tick + 1 } id engWriter) id who
  else
    let ls := sharedLines (coreOf s id) who ++ sharedLines (coreOf s id) engWriter
    let s0 := flushBuf (if scope = 2 then { s with tick := s.tick + 1 } else s) id
    let s1 := writeOut (writeOut s0 id engWriter false) id who false
    let w := ls.foldl (fun m l => Nat.max m (homeOf s1 l).wts) 0
    if scope = 10 then s1 else modPkg s1 fun p => { p with pubs := mmod 0 p.pubs (scopeUnit s id scope) (Nat.max w) }

/-- R162, R182: the clean read-shared lines of a core's L1 and mapped stash are dropped. -/
def dropShared (c : Core) : Core :=
  { c with
    l1 := c.l1.filter fun e => !(e.2.cls = 1 && e.2.dirty.isEmpty)
    maps := c.maps.map fun m =>
      { m with filled := m.filled.filter fun e => !(e.2.cls = 1 && (mslice m.dirty (e.1 * 128) 128).isEmpty) } }

/-- R182, R186: the largest write time that an ACQUIRE takes over: of what any publication covers (DEDUCED, log 125), and at eng
of what the engines of the core wrote. -/
def acquireTime (s : State) (id : CoreId) (scope : Nat) : Nat :=
  if scope = 10 then (coreOf s id).engWts
  else ((List.range 9).map fun k => mget 0 s.pkg.pubs (scopeUnit s id (k + 1))).foldl Nat.max 0

/-- R182: ACQUIRE at a scope by a context. -/
def acquire (s : State) (ctx : CtxId) (scope : Nat) : State :=
  let id := ctx.core
  if scope = 0 || 10 < scope then s
  else
    let s1 := if scope = 1 || scope = 10 then s else modCore s id dropShared
    modCtx s1 ctx fun c => { c with pts := Nat.max c.pts (acquireTime s id scope) }

/-- R184: the releases of the current context before an effect: publish at each scope. -/
def release (s : State) (scopes : List Nat) : State := scopes.foldl (fun s k => publish s s.cur.core (ctxWriter s) k) s
/-- R184: its acquires after an effect. -/
def acquires (s : State) (scopes : List Nat) : State := scopes.foldl (fun s k => acquire s s.cur k) s

/-- R183, R360: hold the blocks that the context's stores reached in the safe tier, and log each; its dirty bytes reach memory
first, private ones too. -/
def persist (s0 : State) : State :=
  let s := writeOut s0 s0.cur.core (ctxWriter s0) true
  let part := partOf s s.cur.core
  let lo := (mget {} s.pkg.parts part).hbase.toNat * 16384
  let imgs : List (Nat × PageImg) := (curCtx s).stored.map fun e =>
    (e.1 - lo, { mem := mshift (mslice s.mem (e.1 * 65536) 65536) (e.1 * 65536),
                 poison := mshift (mslice s.memPoison (e.1 * 16384) 16384) (e.1 * 16384) })
  let u := writerOf s s.cur.core
  let s1 := imgs.foldl (fun s e => escape s part
    { entryOf s ((lo + e.1) * 65536) 65536 2 with lcid := u.1, launch := u.2 % 2 ^ 32 } .placed) s
  modStore s1 part fun t => { t with persisted := t.persisted.filter (fun e => !imgs.any fun i => i.1 = e.1) ++ imgs }

/-- R128: LOD.FENCE, once per fence. -/
def countFence (s : State) (c : Ctx) : State :=
  if c.wait.isSome then s else count s s.cur.core 0x32 1 (isSuper c)

/-- R179, R182, R183, R405, R407: writes to the host, or from node on to a peer, or at pers pages for the safe tier, wait for room in the
escaped-write log, are held at the egress, or have no acknowledgement yet. -/
def writesHeld (s : State) (scope : Nat) : Bool :=
  7 ≤ scope && scope ≠ 10 &&
    (!(mget {} s.pkg.tiers (partOf s s.cur.core)).stalled.isEmpty ||
      (s.pkg.link.heldOut.any fun w => match w.2 with
        | .host .. => scope ≠ 11
        | .peer .. => scope = 8 || scope = 9
        | .placed => scope = 11
        | _ => false) ||
      s.pkg.link.unacked.any fun port => if port = 16 then scope ≠ 11 else scope = 8 || scope = 9)

/-- R182: a fence does its work, waits, and completes when it is next considered; at scope ctx it
completes at once. One that covers writes to the host or a peer waits while such writes are held. -/
def fenceBody (kind : BitVec 3) (scope : BitVec 4) (work : State → State) (s : State) (c : Ctx) : Res :=
  if scope = 0 then .done s (c.pc + 4)
  else if c.wait.isSome then
    (if kind ≠ 0 && writesHeld s scope.toNat then .wait s (.fence kind scope)
     else .done s (c.pc + 4))
  else .wait (work (countFence s c)) (.fence kind scope)

/-- R182: FENCE.acq. -/
def execFenceAcq (sc : BitVec 4) (g : BitVec 3) (s : State) : Host.Outcome State Fault Refusal :=
  .next (scalar (.fenceAcq sc g) g true false
    (fun s c => fenceBody 0 sc (fun s => acquires s [sc.toNat]) s c) s)

/-- R182: FENCE.rel; every earlier access has been performed. -/
def execFenceRel (sc : BitVec 4) (g : BitVec 3) (s : State) : Host.Outcome State Fault Refusal :=
  .next (scalar (.fenceRel sc g) g true false (fun s c => fenceBody 1 sc id s c) s)

/-- R182: FENCE.full. -/
def execFenceFull (sc : BitVec 4) (g : BitVec 3) (s : State) : Host.Outcome State Fault Refusal :=
  .next (scalar (.fenceFull sc g) g true false
    (fun s c => fenceBody 2 sc (fun s => acquires (release s [sc.toNat]) [sc.toNat]) s c) s)

/-- R182: FENCE.pub. -/
def execFencePub (sc : BitVec 4) (g : BitVec 3) (s : State) : Host.Outcome State Fault Refusal :=
  .next (scalar (.fencePub sc g) g true false
    (fun s c => fenceBody 3 sc (fun s => release s [sc.toNat]) s c) s)

/-- R183: FENCE.pers; without a safe tier PROT with TVAL 0. -/
def execFencePers (g : BitVec 3) (s : State) : Host.Outcome State Fault Refusal :=
  .next (scalar (.fencePers g) g true false (fun s c =>
    if !(mget {} s.pkg.tiers (partOf s s.cur.core)).v then .trap s cPROT 0
    else fenceBody 4 11 (fun s => persist (release s [6])) s c) s)

/-- R191: checks 2-5 of an atomic on an address; `w` is whether check 5 asks for W. -/
def cohXlBy (l1 : Bool) (s : State) (super w : Bool) (ea : Word) (size : Nat) : Except (BitVec 8) Xl :=
  if 2 ^ 56 ≤ ea.toNat then .error cPROT
  else if ea.toNat % size ≠ 0 then .error cALIGN
  else match translateBy l1 s s.cur.core super .load ea.toNat with
    | .error e => .error e
    | .ok x => if x.leaf.cls ≠ 2 || (w && !natBit x.leaf.w0 5) then .error cPROT else .ok x
/-- The same for a context. -/
def cohXl (s : State) (super w : Bool) (ea : Word) (size : Nat) : Except (BitVec 8) Xl := cohXlBy true s super w ea size

/-- R167: the state in which an access of the current context at an address traps. -/
def faultAt (s : State) (cause : BitVec 8) (ea : Word) : State := faulted true s s.cur.core cause ea.toNat

/-- R191 row 6, R349: a poisoned memory operand: the record and POISON. -/
def poisonMem (s : State) (c : Ctx) (ea : Word) (pa n : Nat) : Res :=
  let va := poisonOrigin s.memPoison ea.toNat pa n
  let dpa := pa - pa % 4 + (va.toNat - (ea.toNat - ea.toNat % 4))
  .trap (logConsumed s s.cur.core 0 (ctxCode s.cur.kind) none c.pc dpa va) cPOISON (ea ||| 0x8000000000000000#64)

/-- The source of a context's issue tags, of a CPQ's and of an MXQ's (R195, R251). -/
def ctxSource (id : CtxId) : Nat := coreKey id.core * 4 + ctxCode id.kind
def cpSource (id : CoreId) : Nat := coreKey id * 4 + 3
def mxSource (id : CoreId) : Nat := 2 ^ 32 + coreKey id

/-- R195: keep a tag with its returned value, the last 64 of each source. -/
def keepTag (s : State) (src : Nat) (seq : BitVec 16) (v : Word) : State :=
  modPkg s fun p =>
    let mine := p.opTags.filter fun t => t.source = src
    let rest := p.opTags.filter fun t => t.source ≠ src
    { p with opTags := rest ++ (mine ++ [(⟨src, seq, v⟩ : OpTag)]).drop (mine.length - 63) }

/-- R195: the tagged operation of the current context: its number goes up. -/
def tagCtx (s : State) (v : Word) : State :=
  let seq := (curCtx s).opSeq
  modCtx (keepTag s (ctxSource s.cur) seq v) s.cur fun c => { c with opSeq := c.opSeq + 1 }

/-- R166, R191: store an n-byte number of an operation of the current context at its home slice, clean. -/
def cohPut (s : State) (x : Xl) (n v : Nat) : State :=
  noteStore (cohStore (setLeafDirty s s.cur.core x.leaf) (homeKey x.leaf x.pa) x.pa (leBytes n v) false) x.pa n

/-- R191: a read-modify-write: `f` gives the new value, the result and the flags it sets. -/
def atomicBody (regs : List (BitVec 5)) (a d : BitVec 5) (size : Nat)
    (f : Ctx → Nat → Nat × Word × Word) (s : State) (c : Ctx) : Res :=
  consume c regs <|
    let ea := (readX c a).val
    match cohXl s (isSuper c) true ea size with
    | .error e => .trap (faultAt s e ea) e ea
    | .ok x =>
      if physMark s x.pa size then poisonMem s c ea x.pa size
      else
        let r := f c (physNat s x.pa size)
        let s := homeLoad s x
        let dep := (regs.drop 1).any fun r => (readX c r).dep
        .done (setX (setFlags (tagCtx (cohPut s x size r.1) r.2.1) r.2.2 dep) d (mkX r.2.1 [])) (c.pc + 4)

/-- R192: the new value of an AMO. -/
def amoNew {w : Nat} (op : Nat) (x y : BitVec w) : BitVec w :=
  match op with
  | 0 => x + y
  | 1 => x &&& y
  | 2 => x ||| y
  | 3 => x ^^^ y
  | 4 => if y.slt x then y else x
  | 5 => if x.slt y then y else x
  | 6 => if y.ult x then y else x
  | 7 => if x.ult y then y else x
  | _ => y

/-- R192: an AMO of 4 bytes or, with z, of 8. -/
def amoBody (op : Nat) (d a b : BitVec 5) (z : BitVec 1) (s : State) (c : Ctx) : Res :=
  if z = 1 then
    atomicBody [a, b] a d 8 (fun c old =>
      ((amoNew op (BitVec.ofNat 64 old) (readX c b).val).toNat, BitVec.ofNat 64 old, 0)) s c
  else
    atomicBody [a, b] a d 4 (fun c old =>
      ((amoNew op (BitVec.ofNat 32 old) ((readX c b).val.setWidth 32)).toNat, sextBytes 4 old, 0)) s c

/-- R192: AMO Add. -/
def execAmoAdd (d a b : BitVec 5) (z : BitVec 1) (g : BitVec 3) (s : State) : Host.Outcome State Fault Refusal :=
  .next (scalar (.amoAdd d a b z g) g true false (amoBody 0 d a b z) s)

/-- R192: AMO And. -/
def execAmoAnd (d a b : BitVec 5) (z : BitVec 1) (g : BitVec 3) (s : State) : Host.Outcome State Fault Refusal :=
  .next (scalar (.amoAnd d a b z g) g true false (amoBody 1 d a b z) s)

/-- R192: AMO Or. -/
def execAmoOr (d a b : BitVec 5) (z : BitVec 1) (g : BitVec 3) (s : State) : Host.Outcome State Fault Refusal :=
  .next (scalar (.amoOr d a b z g) g true false (amoBody 2 d a b z) s)

/-- R192: AMO Xor. -/
def execAmoXor (d a b : BitVec 5) (z : BitVec 1) (g : BitVec 3) (s : State) : Host.Outcome State Fault Refusal :=
  .next (scalar (.amoXor d a b z g) g true false (amoBody 3 d a b z) s)

/-- R192: AMO Min. -/
def execAmoMin (d a b : BitVec 5) (z : BitVec 1) (g : BitVec 3) (s : State) : Host.Outcome State Fault Refusal :=
  .next (scalar (.amoMin d a b z g) g true false (amoBody 4 d a b z) s)

/-- R192: AMO Max. -/
def execAmoMax (d a b : BitVec 5) (z : BitVec 1) (g : BitVec 3) (s : State) : Host.Outcome State Fault Refusal :=
  .next (scalar (.amoMax d a b z g) g true false (amoBody 5 d a b z) s)

/-- R192: AMO Minu. -/
def execAmoMinu (d a b : BitVec 5) (z : BitVec 1) (g : BitVec 3) (s : State) : Host.Outcome State Fault Refusal :=
  .next (scalar (.amoMinu d a b z g) g true false (amoBody 6 d a b z) s)

/-- R192: AMO Maxu. -/
def execAmoMaxu (d a b : BitVec 5) (z : BitVec 1) (g : BitVec 3) (s : State) : Host.Outcome State Fault Refusal :=
  .next (scalar (.amoMaxu d a b z g) g true false (amoBody 7 d a b z) s)

/-- R192: AMO Swap. -/
def execAmoSwap (d a b : BitVec 5) (z : BitVec 1) (g : BitVec 3) (s : State) : Host.Outcome State Fault Refusal :=
  .next (scalar (.amoSwap d a b z g) g true false (amoBody 8 d a b z) s)

/-- R193: CAS; X[D] is the expected value and is consumed. -/
def execCas (d a b : BitVec 5) (z : BitVec 1) (g : BitVec 3) (s : State) : Host.Outcome State Fault Refusal :=
  .next (scalar (.cas d a b z g) g true false (fun s c =>
    if z = 1 then
      atomicBody [a, b, d] a d 8 (fun c old =>
        (if old = (readX c d).val.toNat then (readX c b).val.toNat else old, BitVec.ofNat 64 old, 0)) s c
    else
      atomicBody [a, b, d] a d 4 (fun c old =>
        (if old = ((readX c d).val.setWidth 32 : BitVec 32).toNat then ((readX c b).val.setWidth 32 : BitVec 32).toNat
          else old, sextBytes 4 old, 0)) s c) s)

/-- R87: the stamp seed that FCTL.SSEL selects. -/
def seedOf (s : State) (id : CoreId) (c : Ctx) : BitVec 32 :=
  if fctlSsel c.fctl then (match teamOf s id with | some t => t.seed | none => 0) else c.srseed

/-- R194: an FP atomic on a format under a rounding mode; SR stamps the address. -/
def fpAtomic (fmt : FFmt) (size : Nat) (rm : BitVec 3) (d a b : BitVec 5) (s : State) (c : Ctx) : Res :=
  atomicBody [a, b] a d size (fun c old =>
    let ftz := fctlFtz c.fctl
    let y : BitVec 32 := (readX c b).val.setWidth 32
    let sum := numAdd rm (ffDecode fmt ftz old) (dec32 ftz y)
    let z := stampZ (seedOf s s.cur.core c) ((readX c a).val.setWidth 32) ((readX c b).val.extractLsb' 32 16)
    let r := ffRound fmt rm z ftz sum.1
    (r.1, BitVec.ofNat 64 old, sum.2 ||| r.2)) s c

/-- R194: AFADD. -/
def execAfadd (d a b : BitVec 5) (g : BitVec 3) (s : State) : Host.Outcome State Fault Refusal :=
  .next (scalar (.afadd d a b g) g true false (fpAtomic fp32 4 0 d a b) s)
/-- R194: ABFADD. -/
def execAbfadd (d a b : BitVec 5) (g : BitVec 3) (s : State) : Host.Outcome State Fault Refusal :=
  .next (scalar (.abfadd d a b g) g true false (fpAtomic bf16 2 0 d a b) s)
/-- R194: ABFSR. -/
def execAbfsr (d a b : BitVec 5) (g : BitVec 3) (s : State) : Host.Outcome State Fault Refusal :=
  .next (scalar (.abfsr d a b g) g true false (fpAtomic bf16 2 4 d a b) s)

/-- R196: WAITV; every re-test is a fresh load with its checks. -/
def execWaitv (d a : BitVec 5) (g : BitVec 3) (s : State) : Host.Outcome State Fault Refusal :=
  .next (scalar (.waitv d a g) g true false (fun s c =>
    consume c [a, d] <|
      let ea := (readX c a).val
      match cohXl s (isSuper c) false ea 8 with
      | .error e => .trap (faultAt s e ea) e ea
      | .ok x =>
        if physMark s x.pa 8 then poisonMem s c ea x.pa 8
        else if (readX c d).val.toNat ≤ physNat s x.pa 8 then .done (homeLoad s x) (c.pc + 4)
        else .wait (homeLoad s x) (.waitv d a)) s)

/-- R197, R198: a state word with a reserved bit, or a STATE of 2-255. -/
def badCell (w : Nat) : Bool := natBits w 9 55 ≠ 0 || 1 < natBits w 0 8

/-- R198: FUTURE with its TVAL. -/
def futureTrap (s : State) (ea : Word) (sub : Nat) : Res :=
  .trap s cFUTURE (ea ||| BitVec.ofNat 64 (sub * 2 ^ 56))

/-- R198: the checks of a future operation, then `k` on the translation and the state word. -/
def futureBody (regs : List (BitVec 5)) (a : BitVec 5) (k : State → Ctx → Word → Xl → Nat → Res)
    (s : State) (c : Ctx) : Res :=
  consume c regs <|
    let ea := (readX c a).val
    match cohXl s (isSuper c) true ea 16 with
    | .error e => .trap (faultAt s e ea) e ea
    | .ok x =>
      if physMark s (x.pa + 8) 8 then poisonMem s c ea (x.pa + 8) 8
      else
        let w := physNat s (x.pa + 8) 8
        if badCell w then futureTrap s ea 2 else k s c ea x w

/-- R198: FSETV. -/
def execFsetv (a b : BitVec 5) (g : BitVec 3) (s : State) : Host.Outcome State Fault Refusal :=
  .next (scalar (.fsetv a b g) g true false (futureBody [a, b] a (fun s c ea x w =>
    if natBits w 0 8 = 1 then futureTrap s ea 1
    else
      let s1 := cohPut (cohPut (homeLoad s x) x 8 (readX c b).val.toNat) { x with pa := x.pa + 8 } 8 (w + 1)
      .done (tagCtx s1 0) (c.pc + 4))) s)

/-- R198: FSETV.r. -/
def execFsetvR (a b : BitVec 5) (g : BitVec 3) (s : State) : Host.Outcome State Fault Refusal :=
  .next (scalar (.fsetvR a b g) g true false (futureBody [a, b] a (fun s c _ x w =>
    let w' := if natBits w 0 8 = 1 then (if natBit w 8 then w else w + 256) else w + 1
    let s1 := cohPut (cohPut (homeLoad s x) x 8 (readX c b).val.toNat) { x with pa := x.pa + 8 } 8 w'
    .done (tagCtx s1 0) (c.pc + 4))) s)

/-- The value of a future's cell as a register, with its poison and origin. -/
def futureVal (s : State) (ea : Word) (pa : Nat) : XReg :=
  let p := physMark s pa 8
  { val := BitVec.ofNat 64 (physNat s pa 8), poison := p,
    origin := if p then poisonOrigin s.memPoison ea.toNat pa 8 else 0 }

/-- R198: FGETV. -/
def execFgetv (d a : BitVec 5) (g : BitVec 3) (s : State) : Host.Outcome State Fault Refusal :=
  .next (scalar (.fgetv d a g) g true false (futureBody [a] a (fun s c ea x w =>
    if natBits w 0 8 = 1 then
      let v := futureVal s ea x.pa
      .done (setX (tagCtx (homeLoad s x) v.val) d v) (c.pc + 4)
    else .wait (homeLoad s x) (.fget d a))) s)

/-- All contexts of the package that have state. -/
def allCtxs (s : State) : List CtxId :=
  s.cores.flatMap fun e => allKinds.map fun k => ⟨coreOfKey e.1, k⟩

/-- R198: another context has waited longer for an FTAKE of the cell at `pa`. -/
def earlierTake (s : State) (pa mine : Nat) : Bool :=
  (allCtxs s).any fun id =>
    let c := ctxOf s id
    id ≠ s.cur && (match c.wait with
      | some ⟨.ftake _ a, _, t⟩ => t < mine &&
          (match walk s id.core (readX c a).val.toNat with
           | some l => l.pa + ((readX c a).val.toNat - l.va) = pa
           | none => false)
      | _ => false)

/-- R198: FTAKE; waiting FTAKEs of one cell are served in the order of their arrival. -/
def execFtake (d a : BitVec 5) (g : BitVec 3) (s : State) : Host.Outcome State Fault Refusal :=
  .next (scalar (.ftake d a g) g true false (futureBody [a] a (fun s c ea x w =>
    let mine := match c.wait with | some v => v.ticket | none => s.ticket
    if natBits w 0 8 = 1 && !earlierTake s x.pa mine then
      let v := futureVal s ea x.pa
      .done (setX (tagCtx (cohPut (homeLoad s x) { x with pa := x.pa + 8 } 8 (w - 1)) v.val) d v) (c.pc + 4)
    else .wait (homeLoad s x) (.ftake d a))) s)

end Sys2Proof.Machine
end

