-- ==== Sys2Proof/Machine/Launch.lean ====
section
/-!
DEFINITION. Launch descriptors and job control blocks (02 R52, R426; 21 R367).
-/
namespace Sys2Proof.Machine

/-- A launch descriptor (R426). -/
structure Desc where
  grid : Nat
  team : Nat
  det : Bool
  seed : BitVec 32
  entries : List Word
  args : List Word
  pa : Nat
  deriving DecidableEq, Repr

/-- Bytes at a physical address as dispatch reads them: those of the host or of a peer are open (log 3). -/
def dispatchBytes (s : State) (pa n : Nat) : List Byte :=
  if paKind pa = .hbm then physBytes s pa n else freeBytes (s.tick + pa) n

/-- Read n pieces of `size` bytes at a virtual address under a root; none when a page is absent or not
readable, one that no access reaches among them. The leaf's U bit and the partition's range and ports are not looked at (DESIGN CHOICE, log
161). A poison mark on such a word is not looked at: dispatch takes the bytes as they stand (DESIGN CHOICE, log 131). -/
def readVirt (s : State) (root size : Nat) : Nat → Nat → Option (List Byte)
  | _, 0 => some []
  | va, n + 1 =>
    match walkAt s root va, readVirt s root size (va + size) n with
    | some l, some t =>
      if natBit l.w0 4 && va < 2 ^ 56 && paReached s l.cls (l.pa + (va - l.va)) then some (dispatchBytes s (l.pa + (va - l.va)) size ++ t) else none
    | _, _ => none

/-- A little-endian field of n bytes at an offset of a byte list. -/
def field (bs : List Byte) (off n : Nat) : Nat := leNat ((bs.drop off).take n)

/-- R52, R426: a valid descriptor at a virtual address of a job's address space. -/
def readDesc (s : State) (root : Nat) (va : Word) : Option Desc :=
  if va.toNat % 64 ≠ 0 then none
  else match readVirt s root 64 va.toNat 2, walkAt s root va.toNat with
  | some bs, some l =>
    let grid := field bs 0 2
    let team := field bs 2 1
    let flags := field bs 3 1
    let seed := field bs 4 4
    let det := natBit flags 0
    let entries := [8, 16, 24].map fun o => field bs o 8
    if grid = 0 || 3072 < grid || team = 0 || 4 < team || grid % team ≠ 0 then none
    else if natBits flags 2 6 ≠ 0 || (!natBit flags 1 && seed ≠ 0) then none
    else if det && (team ≠ 4 || 384 < grid) then none
    else if entries.any (fun e => e = 0 || e % 4 ≠ 0 || 2 ^ 56 ≤ e) then none
    else if leNat (bs.drop 96) ≠ 0 then none
    else some { grid := grid, team := team, det := det, seed := BitVec.ofNat 32 seed,
                entries := entries.map (BitVec.ofNat 64),
                args := (List.range 8).map fun k => BitVec.ofNat 64 (field bs (32 + 8 * k) 8),
                pa := l.pa + (va.toNat - l.va) }
  | _, _ => none

/-- R367: fields of a job control block. -/
def jcbField (s : State) (jcb off n : Nat) : Nat := physNat s (jcb + off) n
def jcbRoot (s : State) (jcb : Nat) : Nat := jcbField s jcb 0x010 8
def jcbTvec (s : State) (jcb : Nat) : Word := BitVec.ofNat 64 (jcbField s jcb 0x018 8)
def jcbHorizon (s : State) (jcb : Nat) : Nat :=
  if jcbField s jcb 0x030 8 = 0 then 16000000 else jcbField s jcb 0x030 8
def jcbPart (s : State) (jcb : Nat) : Nat := jcbField s jcb 0x004 1
def jcbLasup (s : State) (jcb : Nat) : Word := BitVec.ofNat 64 (jcbField s jcb 0x050 8)

/-- R401, R140: the virtual clusters that a partition owns, ascending; an undefined partition owns all (log 22). -/
def ownedVirtual (s : State) (part : Nat) : List Nat :=
  let p := mget {} s.pkg.parts part
  (List.range 96).filter fun v => !p.v || (if v < 32 then p.vclo.getLsbD v else p.vchi.getLsbD (v - 32))

/-- R52, R140: team i of a launch, det or not, may run on a virtual cluster of its partition: any, but for a det launch only v(i). -/
def placedTeam (s : State) (part : Nat) (det : Bool) (i vclus : Nat) : Bool :=
  let own := ownedVirtual s part
  !det || own[i % own.length]? = some vclus
def placedOk (s : State) (part : Nat) (d : Desc) (i vclus : Nat) : Bool := placedTeam s part d.det i vclus

/-- The job of a number that the Crier has admitted. -/
def jobOf (s : State) (id : BitVec 32) : Option Job := s.pkg.jobs.find? fun j => j.id = id
def modJob (s : State) (id : BitVec 32) (f : Job → Job) : State :=
  modPkg s fun p => { p with jobs := p.jobs.map fun j => if j.id = id then f j else j }

/-- R400: the graph count of phase n in a phase list: a 16-bit count, then that many 64-bit addresses,
phase after phase; a count of 0 ends the list (DEDUCED, log 28). -/
def phaseCount (s : State) (root : Nat) (va : Nat) : Nat → Nat
  | 0 => match readVirt s root 1 va 2 with | some bs => leNat bs | none => 0
  | n + 1 =>
    match readVirt s root 1 va 2 with
    | some bs => if leNat bs = 0 then 0 else phaseCount s root (va + 2 + 8 * leNat bs) n
    | none => 0

/-- R400: where the graph count of phase n of a phase list lies. -/
def phaseAddr (s : State) (root : Nat) (va : Nat) : Nat → Nat
  | 0 => va
  | n + 1 =>
    match readVirt s root 1 va 2 with
    | some bs => if leNat bs = 0 then va else phaseAddr s root (va + 2 + 8 * leNat bs) n
    | none => va

/-- R144, R391: a job retires when its last phase has retired and none of its activities is ABANDONING. -/
def retireJob (s : State) (id : BitVec 32) : State :=
  match jobOf s id with
  | none => s
  | some j =>
    if j.plist ≠ 0 && phaseCount s (jcbRoot s j.jcb) j.plist.toNat j.phase = 0 &&
        !s.pkg.acts.any (fun a => a.job = id && a.phase = .abandoning)
    then modPkg s fun p => { p with jobs := p.jobs.filter (fun j => j.id ≠ id), pages := p.pages.filter fun e => e.1 ≠ id }
    else s

end Sys2Proof.Machine
end

