-- ==== Sys2Proof/Machine/Activity.lean ====
section
/-!
DEFINITION. Long activities: the step sequencer, the compensation stack and its instructions
(22 R379-R390).
-/
namespace Sys2Proof.Machine

/-- R380: a step at the sequencer comes after what the context has done. -/
def toSeq (s : State) : State := raiseClock s 18 (curCtx s).pts

/-- R384: every form but LAQ begins with release(pkg) and counts as LOD.FENCE. -/
def laRelease (s : State) (c : Ctx) : State := toSeq (release (countFence s c) [6])

/-- R380: the step at the sequencer is in the coherent order: the context goes on after it. -/
def afterStep (s : State) : State := raisePts s (clockOf s 18)

/-- X[D] takes a status, and the next instruction follows. -/
def laStatus (s : State) (c : Ctx) (d : BitVec 5) (v : Word) : Res := .done (setX s d (mkX v [])) (c.pc + 4)

/-- R385: LABEGIN. -/
def execLabegin (d a : BitVec 5) (g : BitVec 3) (s : State) : Host.Outcome State Fault Refusal :=
  .next (scalar (.labegin d a g) g true false (fun s c =>
    consume c [a] <|
      let ea := (readX c a).val
      match cohXl s (isSuper c) true ea 16 with
      | .error e => .trap (faultAt s e ea) e ea
      | .ok x =>
        let s1 := laRelease s c
        if (openAct s1 s.cur.core).isSome then laStatus s1 c d 0x8000000000000001#64
        else if 4096 ≤ s1.pkg.acts.length then laStatus s1 c d 0x8000000000000002#64
        else
          let (laid, s2) := takeSeq s1
          let u := ((coreOf s s.cur.core).unit).getD {}
          let act : Activity :=
            { laid := laid, sw := ea, swPa := x.pa, swKey := homeKey x.leaf x.pa, job := (jobAt s s.cur.core).getD 0, lid := u.lid, lcid := u.lcid,
              uid := u.uid }
          laStatus (afterStep (writeStateWord (modPkg (setLeafDirty s2 s.cur.core x.leaf) fun p => { p with acts := p.acts ++ [act] }) act)) c d laid) s)

/-- R386, R384: the first marked word among the 48 argument bytes. -/
def argMark (s : State) (pa n va : Nat) : Option Nat :=
  match firstMark s.memPoison (pa / 4) n with
  | some m => some (va + (4 * m - pa))
  | none => none

/-- R384, R386: where the checks found n 8-byte words. -/
def argXls (s : State) (super : Bool) : Nat → Word → List Xl
  | 0, _ => []
  | n + 1, va =>
    match cohXl s super true va 8 with
    | .error _ => []
    | .ok x => x :: argXls s super n (va + 8)

/-- R176, R386: the context reads those words, as coherent loads in address order. -/
def readArgs : List Xl → State → List Byte × State
  | [], s => ([], s)
  | x :: t, s =>
    let r := readArgs t (homeLoad s x)
    (physBytes s x.pa 8 ++ r.1, r.2)

/-- R384: R191's checks 1-5 on each of n 8-byte words, in address order: the cause and the word's address. -/
def checkBlock (s : State) (super : Bool) : Nat → Word → Option (BitVec 8 × Word)
  | 0, _ => none
  | n + 1, va =>
    match cohXl s super true va 8 with
    | .error e => some (e, va)
    | .ok _ => checkBlock s super n (va + 8)

/-- R384: the address of the first marked word among n checked 8-byte words. -/
def blockMark (s : State) (super : Bool) : Nat → Word → Option Nat
  | 0, _ => none
  | n + 1, va =>
    match cohXl s super true va 8 with
    | .error _ => none
    | .ok x =>
      match argMark s x.pa 2 va.toNat with
      | some m => some m
      | none => blockMark s super n (va + 8)

/-- R384: the checks on an argument block of n 8-byte words, the marks after the rest: the cause and the TVAL. -/
def checkArgs (s : State) (super : Bool) (n : Nat) (ea : Word) : Except (BitVec 8 × Word) Unit :=
  match checkBlock s super n ea, blockMark s super n ea with
  | some e, _ => .error (e.1, ea)
  | none, some m => .error (cPOISON, BitVec.ofNat 64 m ||| 0x8000000000000000#64)
  | none, none => .ok ()

/-- R383: the lowest free slot of a die's region (DESIGN CHOICE, log 126). -/
def freeSlot (l : List LaRec) : Nat := ((List.range (l.length + 1)).find? fun k => !l.any fun r => r.slot = k).getD 0

/-- R382: the slots of a die's region. -/
def lasSize (d : Die) : Nat := 2 ^ (bitsAt d.lasbase 0 4 + 10)

/-- R386: LASTEP. -/
def execLastep (d a b : BitVec 5) (g : BitVec 3) (s : State) : Host.Outcome State Fault Refusal :=
  .next (scalar (.lastep d a b g) g true false (fun s c =>
    consume c [a, b] <|
      let entry := (readX c a).val
      let eb := (readX c b).val
      if 2 ^ 56 ≤ entry.toNat then .trap s cPROT entry
      else match checkArgs s (isSuper c) 6 eb with
      | .error e =>
        .trap (if e.1 = cPOISON then logConsumed s s.cur.core 0 (ctxCode s.cur.kind) none c.pc
          (match walk s s.cur.core (e.2.toNat % 2 ^ 63) with
            | some l => l.pa + (e.2.toNat % 2 ^ 63 - l.va)
            | none => 0) (e.2 &&& 0x7FFFFFFFFFFFFFFF#64)
          else match checkBlock s (isSuper c) 6 eb with
            | some f => faultAt s f.1 f.2
            | none => s) e.1 e.2
      | .ok _ =>
        let s1 := laRelease s c
        match openAct s1 s.cur.core with
        | none => laStatus s1 c d 1
        | some act =>
          let die := s.cur.core.die
          if act.steps = 65535 then laStatus s1 c d 2
          else if lasSize (dieOf s1 die) ≤ (dieOf s1 die).las.length then laStatus s1 c d 3
          else
            let (args, s0) := readArgs (argXls s (isSuper c) 6 eb) s1
            let (seq, s2) := takeSeq (toSeq s0)
            let r : LaRec := { slot := freeSlot (dieOf s2 die).las, seq := seq, laid := act.laid, entry := entry, args := args, step := act.steps + 1,
                               job := act.job, lcid := act.lcid, sw := act.sw }
            let s3 := writeRec (modDie s2 die fun di => { di with las := di.las ++ [r] }) die r
            laStatus (afterStep (modAct s3 act.laid fun a => { a with steps := a.steps + 1 })) c d 0) s)

/-- R387: LAEND, the commit point. -/
def execLaend (d : BitVec 5) (g : BitVec 3) (s : State) : Host.Outcome State Fault Refusal :=
  .next (scalar (.laend d g) g true false (fun s c =>
    let s1 := laRelease s c
    match openAct s1 s.cur.core with
    | none => laStatus s1 c d 1
    | some a => laStatus (afterStep (endAct s1 a.laid .committed)) c d 0) s)

/-- R387: LAABORT. -/
def execLaabort (d : BitVec 5) (g : BitVec 3) (s : State) : Host.Outcome State Fault Refusal :=
  .next (scalar (.laabort d g) g true false (fun s c =>
    let s1 := laRelease s c
    match openAct s1 s.cur.core with
    | none => laStatus s1 c d 1
    | some a => laStatus (retireJob (afterStep (abandonUnit s1 s.cur.core)) a.job) c d 0) s)

/-- R389: the actions of LACTL on a FROZEN activity. -/
def lactlAct (s : State) (laid : Word) (action : Nat) : State :=
  let seq := match (allRecs s).find? (fun e => e.2.laid = laid && e.2.running) with
    | some e => e.2.seq
    | none => 0
  match action with
  | 0 => modAct (modRec s seq fun r => { r with running := false }) laid fun a => { a with phase := .abandoning }
  | 1 =>
    let s1 := modRec s seq fun r => { r with running := false, done := true, skip := true }
    settleAct (modAct s1 laid fun a => { a with phase := .abandoning, done := a.done + 1 }) laid
  | _ => endAct s laid .halted

/-- R389: LACTL. -/
def execLactl (d a b : BitVec 5) (g : BitVec 3) (s : State) : Host.Outcome State Fault Refusal :=
  .next (scalar (.lactl d a b g) g true true (fun s c =>
    consume c [a, b] <|
      let s1 := laRelease s c
      let laid := (readX c a).val
      match actOf s1 laid with
      | none => laStatus s1 c d 2
      | some act =>
        if some act.job ≠ jobAt s s.cur.core then laStatus s1 c d 2
        else if act.phase ≠ .frozen then laStatus s1 c d 1
        else if 2 < (readX c b).val.toNat then laStatus s1 c d 3
        else laStatus (retireJob (afterStep (lactlAct s1 laid (readX c b).val.toNat)) act.job) c d 0) s)

/-- R388: LAQ. -/
def execLaq (d a : BitVec 5) (g : BitVec 3) (s : State) : Host.Outcome State Fault Refusal :=
  .next (scalar (.laq d a g) g true false (fun s c =>
    consume c [a] <|
      let v := (readX c a).val
      let act := if v = 0 then openAct s s.cur.core else actOf s v
      laStatus s c d (match act with
        | some act => if some act.job = jobAt s s.cur.core then stateWord act else 0
        | none => 0)) s)

end Sys2Proof.Machine
end

