-- ==== Sys2Proof/Machine/Alu.lean ====
section
/-!
DEFINITION. Integer arithmetic, compares, predicates and selection (05 R92-R100).
-/
namespace Sys2Proof.Machine

/-- R92: shift and rotate counts are X[B][5:0]. -/
def cnt6 (b : Word) : Nat := (b.extractLsb' 0 6).toNat
/-- R92: the number of trailing zero bits, 64 for 0. -/
def ctz64 (v : Word) : Nat := if v = 0 then 64 else ((List.range 64).find? fun k => v.getLsbD k).getD 64
/-- R92: the number of leading zero bits, 64 for 0. -/
def clz64 (v : Word) : Nat := if v = 0 then 64 else 63 - v.toNat.log2
/-- R92: the number of 1 bits. -/
def popc64 (v : Word) : Nat := (List.range 64).countP fun k => v.getLsbD k

/-- R92: ADD. -/
def execAdd (d a b : BitVec 5) (g : BitVec 3) (s : State) : Host.Outcome State Fault Refusal :=
  .next (scalar (.add d a b g) g true false (binX d a b fun x y => x + y) s)

/-- R92: SUB. -/
def execSub (d a b : BitVec 5) (g : BitVec 3) (s : State) : Host.Outcome State Fault Refusal :=
  .next (scalar (.sub d a b g) g true false (binX d a b fun x y => x - y) s)

/-- R92: AND. -/
def execAnd (d a b : BitVec 5) (g : BitVec 3) (s : State) : Host.Outcome State Fault Refusal :=
  .next (scalar (.and d a b g) g true false (binX d a b fun x y => x &&& y) s)

/-- R92: OR. -/
def execOr (d a b : BitVec 5) (g : BitVec 3) (s : State) : Host.Outcome State Fault Refusal :=
  .next (scalar (.or d a b g) g true false (binX d a b fun x y => x ||| y) s)

/-- R92: XOR. -/
def execXor (d a b : BitVec 5) (g : BitVec 3) (s : State) : Host.Outcome State Fault Refusal :=
  .next (scalar (.xor d a b g) g true false (binX d a b fun x y => x ^^^ y) s)

/-- R92: ANDN. -/
def execAndn (d a b : BitVec 5) (g : BitVec 3) (s : State) : Host.Outcome State Fault Refusal :=
  .next (scalar (.andn d a b g) g true false (binX d a b fun x y => x &&& ~~~y) s)

/-- R92: SHL. -/
def execShl (d a b : BitVec 5) (g : BitVec 3) (s : State) : Host.Outcome State Fault Refusal :=
  .next (scalar (.shl d a b g) g true false (binX d a b fun x y => x <<< cnt6 y) s)

/-- R92: SHR. -/
def execShr (d a b : BitVec 5) (g : BitVec 3) (s : State) : Host.Outcome State Fault Refusal :=
  .next (scalar (.shr d a b g) g true false (binX d a b fun x y => x >>> cnt6 y) s)

/-- R92: SAR. -/
def execSar (d a b : BitVec 5) (g : BitVec 3) (s : State) : Host.Outcome State Fault Refusal :=
  .next (scalar (.sar d a b g) g true false (binX d a b fun x y => x.sshiftRight (cnt6 y)) s)

/-- R92: ROL. -/
def execRol (d a b : BitVec 5) (g : BitVec 3) (s : State) : Host.Outcome State Fault Refusal :=
  .next (scalar (.rol d a b g) g true false (binX d a b fun x y => x.rotateLeft (cnt6 y)) s)

/-- R92: MIN, signed. -/
def execMin (d a b : BitVec 5) (g : BitVec 3) (s : State) : Host.Outcome State Fault Refusal :=
  .next (scalar (.min d a b g) g true false (binX d a b fun x y => if x.slt y then x else y) s)

/-- R92: MAX, signed. -/
def execMax (d a b : BitVec 5) (g : BitVec 3) (s : State) : Host.Outcome State Fault Refusal :=
  .next (scalar (.max d a b g) g true false (binX d a b fun x y => if x.slt y then y else x) s)

/-- R92: MINU. -/
def execMinu (d a b : BitVec 5) (g : BitVec 3) (s : State) : Host.Outcome State Fault Refusal :=
  .next (scalar (.minu d a b g) g true false (binX d a b fun x y => if x.ult y then x else y) s)

/-- R92: MAXU. -/
def execMaxu (d a b : BitVec 5) (g : BitVec 3) (s : State) : Host.Outcome State Fault Refusal :=
  .next (scalar (.maxu d a b g) g true false (binX d a b fun x y => if x.ult y then y else x) s)

/-- R92: CLZ. -/
def execClz (d a : BitVec 5) (g : BitVec 3) (s : State) : Host.Outcome State Fault Refusal :=
  .next (scalar (.clz d a g) g true false (unX d a fun x => BitVec.ofNat 64 (clz64 x)) s)

/-- R92: CTZ. -/
def execCtz (d a : BitVec 5) (g : BitVec 3) (s : State) : Host.Outcome State Fault Refusal :=
  .next (scalar (.ctz d a g) g true false (unX d a fun x => BitVec.ofNat 64 (ctz64 x)) s)

/-- R92: POPC. -/
def execPopc (d a : BitVec 5) (g : BitVec 3) (s : State) : Host.Outcome State Fault Refusal :=
  .next (scalar (.popc d a g) g true false (unX d a fun x => BitVec.ofNat 64 (popc64 x)) s)

/-- R92: SEXT.b. -/
def execSextB (d a : BitVec 5) (g : BitVec 3) (s : State) : Host.Outcome State Fault Refusal :=
  .next (scalar (.sextB d a g) g true false (unX d a fun x => (x.setWidth 8).signExtend 64) s)

/-- R92: SEXT.h. -/
def execSextH (d a : BitVec 5) (g : BitVec 3) (s : State) : Host.Outcome State Fault Refusal :=
  .next (scalar (.sextH d a g) g true false (unX d a fun x => (x.setWidth 16).signExtend 64) s)

/-- R92: SEXT.w. -/
def execSextW (d a : BitVec 5) (g : BitVec 3) (s : State) : Host.Outcome State Fault Refusal :=
  .next (scalar (.sextW d a g) g true false (unX d a fun x => (x.setWidth 32).signExtend 64) s)

/-- R92: ZEXT.b. -/
def execZextB (d a : BitVec 5) (g : BitVec 3) (s : State) : Host.Outcome State Fault Refusal :=
  .next (scalar (.zextB d a g) g true false (unX d a fun x => (x.setWidth 8).setWidth 64) s)

/-- R92: ZEXT.h. -/
def execZextH (d a : BitVec 5) (g : BitVec 3) (s : State) : Host.Outcome State Fault Refusal :=
  .next (scalar (.zextH d a g) g true false (unX d a fun x => (x.setWidth 16).setWidth 64) s)

/-- R92: ZEXT.w. -/
def execZextW (d a : BitVec 5) (g : BitVec 3) (s : State) : Host.Outcome State Fault Refusal :=
  .next (scalar (.zextW d a g) g true false (unX d a fun x => (x.setWidth 32).setWidth 64) s)

/-- R92: SHADD.1. -/
def execShadd1 (d a b : BitVec 5) (g : BitVec 3) (s : State) : Host.Outcome State Fault Refusal :=
  .next (scalar (.shadd1 d a b g) g true false (binX d a b fun x y => (x <<< 1) + y) s)

/-- R92: SHADD.2. -/
def execShadd2 (d a b : BitVec 5) (g : BitVec 3) (s : State) : Host.Outcome State Fault Refusal :=
  .next (scalar (.shadd2 d a b g) g true false (binX d a b fun x y => (x <<< 2) + y) s)

/-- R92: SHADD.3. -/
def execShadd3 (d a b : BitVec 5) (g : BitVec 3) (s : State) : Host.Outcome State Fault Refusal :=
  .next (scalar (.shadd3 d a b g) g true false (binX d a b fun x y => (x <<< 3) + y) s)

/-- R92: SHADD.4. -/
def execShadd4 (d a b : BitVec 5) (g : BitVec 3) (s : State) : Host.Outcome State Fault Refusal :=
  .next (scalar (.shadd4 d a b g) g true false (binX d a b fun x y => (x <<< 4) + y) s)

/-- R93: ADDI with the sign-extended IMM13. -/
def execAddi (d a : BitVec 5) (i : BitVec 13) (g : BitVec 3) (s : State) : Host.Outcome State Fault Refusal :=
  .next (scalar (.addi d a i g) g true false (unX d a fun x => x + i.signExtend 64) s)

/-- R93: ANDI with the sign-extended IMM13. -/
def execAndi (d a : BitVec 5) (i : BitVec 13) (g : BitVec 3) (s : State) : Host.Outcome State Fault Refusal :=
  .next (scalar (.andi d a i g) g true false (unX d a fun x => x &&& i.signExtend 64) s)

/-- R93: ORI with the sign-extended IMM13. -/
def execOri (d a : BitVec 5) (i : BitVec 13) (g : BitVec 3) (s : State) : Host.Outcome State Fault Refusal :=
  .next (scalar (.ori d a i g) g true false (unX d a fun x => x ||| i.signExtend 64) s)

/-- R93: XORI with the sign-extended IMM13. -/
def execXori (d a : BitVec 5) (i : BitVec 13) (g : BitVec 3) (s : State) : Host.Outcome State Fault Refusal :=
  .next (scalar (.xori d a i g) g true false (unX d a fun x => x ^^^ i.signExtend 64) s)

/-- R94: SHLI. -/
def execShli (d a : BitVec 5) (h : BitVec 6) (g : BitVec 3) (s : State) : Host.Outcome State Fault Refusal :=
  .next (scalar (.shli d a h g) g true false (unX d a fun x => x <<< h.toNat) s)

/-- R94: SHRI. -/
def execShri (d a : BitVec 5) (h : BitVec 6) (g : BitVec 3) (s : State) : Host.Outcome State Fault Refusal :=
  .next (scalar (.shri d a h g) g true false (unX d a fun x => x >>> h.toNat) s)

/-- R94: SARI. -/
def execSari (d a : BitVec 5) (h : BitVec 6) (g : BitVec 3) (s : State) : Host.Outcome State Fault Refusal :=
  .next (scalar (.sari d a h g) g true false (unX d a fun x => x.sshiftRight h.toNat) s)

/-- R95: LI; the result is clean. -/
def execLi (d : BitVec 5) (i : BitVec 18) (g : BitVec 3) (s : State) : Host.Outcome State Fault Refusal :=
  .next (scalar (.li d i g) g true false
    (fun s c => .done (setX s d (mkX (i.signExtend 64) [])) (c.pc + 4)) s)

/-- R95: LIH reads the old X[D]. -/
def execLih (d : BitVec 5) (i : BitVec 18) (g : BitVec 3) (s : State) : Host.Outcome State Fault Refusal :=
  .next (scalar (.lih d i g) g true false (unX d d fun x => (x <<< 18) ||| i.setWidth 64) s)

/-- R96: signed quotient truncated toward zero, with the corners of the table. -/
def sdiv64 (x y : Word) : Word := if y = 0 then BitVec.allOnes 64 else x.sdiv y
/-- R96: signed remainder with the sign of X[A]; X[A] for a zero divisor. -/
def srem64 (x y : Word) : Word := if y = 0 then x else x.srem y
/-- R96: unsigned quotient, all ones for a zero divisor. -/
def udiv64 (x y : Word) : Word := if y = 0 then BitVec.allOnes 64 else x / y
/-- R96: unsigned remainder, X[A] for a zero divisor. -/
def urem64 (x y : Word) : Word := if y = 0 then x else x % y
/-- R96: high half of the signed product. -/
def mulh64 (x y : Word) : Word := BitVec.ofInt 64 (x.toInt * y.toInt / 2 ^ 64)
/-- R96: high half of the unsigned product. -/
def mulhu64 (x y : Word) : Word := BitVec.ofNat 64 (x.toNat * y.toNat / 2 ^ 64)

/-- R96: MUL. -/
def execMul (d a b : BitVec 5) (g : BitVec 3) (s : State) : Host.Outcome State Fault Refusal :=
  .next (scalar (.mul d a b g) g true false (binX d a b fun x y => x * y) s)

/-- R96: MULH. -/
def execMulh (d a b : BitVec 5) (g : BitVec 3) (s : State) : Host.Outcome State Fault Refusal :=
  .next (scalar (.mulh d a b g) g true false (binX d a b mulh64) s)

/-- R96: MULHU. -/
def execMulhu (d a b : BitVec 5) (g : BitVec 3) (s : State) : Host.Outcome State Fault Refusal :=
  .next (scalar (.mulhu d a b g) g true false (binX d a b mulhu64) s)

/-- R96: DIV. -/
def execDiv (d a b : BitVec 5) (g : BitVec 3) (s : State) : Host.Outcome State Fault Refusal :=
  .next (scalar (.div d a b g) g true false (binX d a b sdiv64) s)

/-- R96: DIVU. -/
def execDivu (d a b : BitVec 5) (g : BitVec 3) (s : State) : Host.Outcome State Fault Refusal :=
  .next (scalar (.divu d a b g) g true false (binX d a b udiv64) s)

/-- R96: REM. -/
def execRem (d a b : BitVec 5) (g : BitVec 3) (s : State) : Host.Outcome State Fault Refusal :=
  .next (scalar (.rem d a b g) g true false (binX d a b srem64) s)

/-- R96: REMU. -/
def execRemu (d a b : BitVec 5) (g : BitVec 3) (s : State) : Host.Outcome State Fault Refusal :=
  .next (scalar (.remu d a b g) g true false (binX d a b urem64) s)

/-- R97: CMP.cc. -/
def execCmp (d : BitVec 3) (a b : BitVec 5) (cc g : BitVec 3) (s : State) : Host.Outcome State Fault Refusal :=
  .next (scalar (.cmp d a b cc g) g true false (cmpX d a b (ccTest cc)) s)

/-- R97: CMPI.cc with the sign-extended IMM10. -/
def execCmpi (d : BitVec 3) (a : BitVec 5) (cc : BitVec 3) (i : BitVec 10) (g : BitVec 3) (s : State) :
    Host.Outcome State Fault Refusal :=
  .next (scalar (.cmpi d a cc i g) g true false (cmp1X d a fun x => ccTest cc x (i.signExtend 64)) s)

/-- R98: P[D] = tt[2 P[A] + P[B]]. -/
def execPlog (d a b : BitVec 3) (t : BitVec 4) (g : BitVec 3) (s : State) : Host.Outcome State Fault Refusal :=
  .next (scalar (.plog d a b t g) g true false (fun s c =>
    let k := (if readP c a then 2 else 0) + (if readP c b then 1 else 0)
    .done (setP s d (t.getLsbD k) (readPDep c a || readPDep c b)) (c.pc + 4)) s)

/-- R99: PSET. -/
def execPset (d : BitVec 3) (a : BitVec 5) (g : BitVec 3) (s : State) : Host.Outcome State Fault Refusal :=
  .next (scalar (.pset d a g) g true false (cmp1X d a fun x => x != 0) s)

/-- R100: SEL; the result carries the poison of the chosen source only. -/
def execSel (d a b : BitVec 5) (n g : BitVec 3) (s : State) : Host.Outcome State Fault Refusal :=
  .next (scalar (.sel d a b n g) g true false (fun s c =>
    let r := if readP c n then readX c a else readX c b
    let v := mkX r.val [r]
    .done (setX s d { v with dep := v.dep || readPDep c n }) (c.pc + 4)) s)

end Sys2Proof.Machine
end

