-- ==== Sys2Proof/Machine/Lease.lean ====
section
/-!
DEFINITION. The array lease (11 R221, R222; 12 R431) and the release of a core's power grant
(24 R416).
-/
namespace Sys2Proof.Machine

/-- R222: some bank of the cluster's array is dirty. -/
def arrayDirty (cl : Cluster) : Bool := cl.array.bank0.dirty || cl.array.bank1.dirty

/-- R431, R223: the lease ends: the array is as at unit start, and so is the timed region. -/
def endLease (s : State) (c : ClusId) : State :=
  match (clusOf s c).leaseHolder with
  | none => s
  | some h =>
    let s1 := modClus s c fun cl =>
      { cl with array := {}, leaseHolder := none, lastHolder := h, leaseLaunches := 0, region := none }
    modCore s1 (coreAt c h) fun co =>
      { co with qMx := { co.qMx with lastSlot := none }, qVx := { co.qVx with lastSlot := none },
                qRw := { co.qRw with lastSlot := none } }

/-- R222, R252: the array parks into the park area of a core. -/
def parkArray (s : State) (id : CoreId) : State :=
  modCore s id fun c => { c with park := (clusOf s (CoreId.cl id)).array }

/-- The core holds its cluster's lease. -/
def holdsLease (s : State) (id : CoreId) : Bool := (clusOf s (CoreId.cl id)).leaseHolder = some id.rank

/-- R222: the end of a lease by exhaustion: LEASE at the next MX entry if a bank was dirty. -/
def exhaustLease (s : State) (id : CoreId) : State :=
  let dirty := arrayDirty (clusOf s (CoreId.cl id))
  let s1 := if dirty then parkArray s id else s
  modCore (endLease s1 (CoreId.cl id)) id fun c => { c with leaseDue := c.leaseDue || dirty, reask := true }

/-- R222, R209: revocation and swap-out: the parked array comes back before the next MX launch; REVK tells of a revocation
alone. The core asks for the array again while MXQ needs it (DEDUCED, log 25). -/
def revokeLease (s : State) (id : CoreId) (revoked : Bool) : State :=
  let dirty := arrayDirty (clusOf s (CoreId.cl id))
  let s1 := if dirty then parkArray s id else s
  modCore (endLease s1 (CoreId.cl id)) id fun c =>
    { c with revk := c.revk || (revoked && dirty), unpark := c.unpark || dirty, reask := true }

/-- A queue with its engine is idle: no word, no entry, nothing running, no stop (R208). -/
def queueIdle (q : Queue) : Bool := q.words.isEmpty && q.entry.isNone && q.running.isEmpty && q.stop.isNone

/-- A rank leaves the requests of the lease. -/
def dropLeaseReq (s : State) (id : CoreId) : State :=
  modClus s (CoreId.cl id) fun cl => { cl with leaseReqs := cl.leaseReqs.filter fun r => r ≠ id.rank }

/-- R221: LEASE waits for its grant; under a pre-emption request it stops and asks for nothing (R335). -/
def execLease (g : BitVec 3) (s : State) : Host.Outcome State Fault Refusal :=
  .next (scalar (.lease g) g (s.cur.kind = .exec) false (fun s c =>
    if holdsLease s s.cur.core then .done (dropLeaseReq s s.cur.core) (c.pc + 4)
    else
      let asked := (curClus s).leaseReqs.contains s.cur.core.rank
      let s1 := if asked || preempting s s.cur.core then s else modClus s (CoreId.cl s.cur.core) fun cl =>
        { cl with leaseReqs := cl.leaseReqs ++ [s.cur.core.rank] }
      .wait s1 .lease) s)

/-- R221, R222: LREL; a dirty bank parks and raises LEASE with subcause 1. -/
def execLrel (g : BitVec 3) (s : State) : Host.Outcome State Fault Refusal :=
  .next (scalar (.lrel g) g (s.cur.kind = .exec) false (fun s c =>
    if !holdsLease s s.cur.core then .done s (c.pc + 4)
    else if !queueIdle (curCore s).qMx then .wait s .lrel
    else if arrayDirty (curClus s) then
      .trap (endLease (parkArray s s.cur.core) (CoreId.cl s.cur.core)) cLEASE 1
    else .done (endLease s (CoreId.cl s.cur.core)) (c.pc + 4)) s)

/-- R416: a request joins the queue of power requests: behind those of earlier cycles and those of its own cycle that no higher rank
made. -/
def putReq (l : List PowerReq) (r : PowerReq) : List PowerReq :=
  let before (x : PowerReq) : Bool := x.cycle ≠ r.cycle || x.rank ≤ r.rank
  l.takeWhile before ++ r :: l.dropWhile before

/-- The request of one context for power leaves the queue. -/
def dropPowerReq (s : State) (id : CtxId) : State :=
  modClus s (CoreId.cl id.core) fun cl =>
    { cl with pacq := cl.pacq.filter fun r => r.restore || r.rank ≠ id.core.rank || r.kind ≠ id.kind }

/-- R416: retirement, removal and swap-out release a core's grant. -/
def releasePower (s : State) (id : CoreId) : State :=
  let l := (coreOf s id).plevel
  let s1 := modClus s (CoreId.cl id) fun cl =>
    { cl with rsv := cl.rsv - l, pacq := cl.pacq.filter fun r => r.rank ≠ id.rank }
  modCore s1 id fun c => { c with plevel := 0 }

/-- R221: MXQ holds a launch, be it stopped at a trap, or one to be replayed (R333). -/
def wantsArray (q : Queue) : Bool := q.words.any (fun w => isLaunch w.w) || q.entry.isSome || q.redo || q.redoFrom.isSome

/-- R221: the ranks that request the lease. -/
def leaseAsks (s : State) (c : ClusId) : List Nat :=
  (List.range 4).filter fun r =>
    (clusOf s c).leaseReqs.contains r || ((coreOf s (coreAt c r)).reask && wantsArray (coreOf s (coreAt c r)).qMx)

/-- R221: the arbiter grants the lease round-robin, beginning after the last holder. A grant waits for the
test of an array row (R357). -/
def execLeaseGrant (c : ClusId) (s : State) : Host.Outcome State Fault Refusal :=
  .next (
    let cl := clusOf s c
    let order := (List.range 4).map fun k => (cl.lastHolder + 1 + k) % 4
    match cl.leaseHolder, order.find? fun r => (leaseAsks s c).contains r with
    | none, some r =>
      if !cl.peTests.isEmpty then s else
      let s1 := modClus s c fun cl =>
        { cl with leaseHolder := some r, leaseReqs := cl.leaseReqs.filter fun k => k ≠ r,
                  leaseLaunches := 0, leaseAt := s.cyc.toNat, region := none }
      countClus (modCore s1 (coreAt c r) fun co => { co with reask := false }) c 0x81 1
    | _, _ => s)

/-- R222: the lease ends at an entry boundary after 64 launches or 16,384 cycles. -/
def execLeaseExhaustion (c : ClusId) (s : State) : Host.Outcome State Fault Refusal :=
  .next (
    let cl := clusOf s c
    match cl.leaseHolder with
    | none => s
    | some r =>
      let q := (coreOf s (coreAt c r)).qMx
      if (64 ≤ cl.leaseLaunches || cl.leaseAt + 16384 ≤ s.cyc.toNat) && q.running.isEmpty && q.entry.isNone
      then exhaustLease s (coreAt c r) else s)

/-- R222: an MX trap unresolved for 4,096 cycles revokes the lease; under a lease granted since the trap they count from the
grant (DEDUCED, log 25). -/
def execLeaseRevocation (c : ClusId) (s : State) : Host.Outcome State Fault Refusal :=
  .next (
    let cl := clusOf s c
    match cl.leaseHolder with
    | none => s
    | some r =>
      match (coreOf s (coreAt c r)).qMx.stop with
      | some t => if Nat.max cl.leaseAt t.since + 4096 ≤ s.cyc.toNat then revokeLease s (coreAt c r) true else s
      | none => s)

end Sys2Proof.Machine
end

