-- ==== Sys2Proof/Machine/Feed.lean ====
section
/-!
DEFINITION. Feeding a queue and looking at it: ENQ, ENQS, EBUSY, EFENCE, ESTAT
(11 R201, R204-R209, R217).
-/
namespace Sys2Proof.Machine

/-- R67: the engine an E field names, when the context feeds its queue. -/
def fedEng (s : State) (e : BitVec 5) : Option Eng :=
  match engOfCode e.toNat with
  | some g => if feederOf g = s.cur.kind then some g else none
  | none => none

/-- R217: the modes a launch word captures. -/
def captureModes (s : State) (c : Ctx) : Modes :=
  { rm := fctlRm c.fctl, ftz := fctlFtz c.fctl, seed := seedOf s s.cur.core c, brkt := fctlBrkt c.fctl,
    super := isSuper c }

/-- R201: append words to a queue; each launch word takes the next entry index and the modes. -/
def appendWords (q : Queue) (ws : List QWord) : Queue :=
  { q with words := q.words ++ ws,
           enqIdx := q.enqIdx + BitVec.ofNat 16 (ws.filter fun w => isLaunch w.w).length }

/-- R217: a queue word with the modes if it is a launch word. -/
def mkQWord (m : Modes) (w : BitVec 16) (poisonAt : Option Word) : QWord :=
  { w := w, modes := if isLaunch w then m else {}, poisonAt := poisonAt }

/-- R208, R209: free word slots. -/
def freeSlots (q : Queue) : Nat := 256 - q.words.length

/-- R204: word k of an ENQ. -/
def enqWord (c : Ctx) (a b : BitVec 5) (k : Nat) : BitVec 16 :=
  if k < 4 then (readX c a).val.extractLsb' (16 * k) 16 else (readX c b).val.extractLsb' (16 * (k - 4)) 16

/-- Append words to the queue of the current core; an entry that becomes the next to run has arrived
now. R186: its accesses come after what the context has done. -/
def feed (s : State) (g : Eng) (ws : List QWord) : State :=
  modQueue s s.cur.core g fun q =>
    { appendWords q (ws.map fun w => { w with came := s.cyc.toNat }) with
      headSince := if q.words.any (fun w => isLaunch w.w) then q.headSince else s.cyc.toNat
      pts := Nat.max q.pts (curCtx s).pts }

/-- R204, R184: ENQ of n + 1 words. -/
def execEnq (e a b : BitVec 5) (n : BitVec 3) (g : BitVec 3) (s : State) : Host.Outcome State Fault Refusal :=
  .next (scalar (.enq e a b n g) g (fedEng s e).isSome false (fun s c =>
    match fedEng s e with
    | none => .trap s cILLOP (wordOf (.enq e a b n g))
    | some eng =>
      consume c (if 3 < n.toNat then [a, b] else [a]) <|
        if freeSlots (queueOf s s.cur.core eng) ≤ n.toNat then .wait s (.enq e a b n)
        else
          let m := captureModes s c
          .done (feed (release s [10]) eng ((List.range (n.toNat + 1)).map fun k => mkQWord m (enqWord c a b k) none)) (c.pc + 4)) s)

/-- R205 check 5: the first address of [va, va + n) that fails, at 64 KiB steps, with its cause. -/
def scanRange (s : State) (super : Bool) (stop : Nat) : Nat → Nat → Option (BitVec 8 × Nat)
  | 0, _ => none
  | fuel + 1, va =>
    if stop ≤ va then none
    else match translate s s.cur.core super .load va with
      | .error e => some (e, va)
      | .ok _ => scanRange s super stop fuel ((va / 65536 + 1) * 65536)

/-- R205: n script words from an address on, each with the mark of its memory word, and the state after. A word whose translation is
gone since the checks passed is open (DESIGN CHOICE, log 158). -/
def scriptWords (super : Bool) (m : Modes) : Nat → State → Nat → List QWord × State
  | 0, s, _ => ([], s)
  | n + 1, s, va =>
    let r : QWord × State := match translate s s.cur.core super .load va with
      | .ok x =>
        let r := ctxLoad s x 2
        (mkQWord m (BitVec.ofNat 16 (leNat r.1)) (if mget false r.2.1 (x.pa / 4) then some (BitVec.ofNat 64 va) else none), r.2.2)
      | .error _ => (mkQWord m ((Config.freeWord s.tick).setWidth 16) none, { s with tick := s.tick + 1 })
    let t := scriptWords super m n r.2 (va + 2)
    (r.1 :: t.1, t.2)

/-- R205: how many words an ENQS may still append in this cycle. -/
def enqsShare (s : State) (c : Ctx) : Nat := if c.enqsAt.1 = s.cyc.toNat then 16 - c.enqsAt.2 else 16

/-- R205, R206: the words that an ENQS has appended already; none where it is at its first issue. -/
def enqsSent (c : Ctx) : Option Nat :=
  match c.wait with
  | some ⟨.enqs _ _ _ k, _, _⟩ => some k
  | _ => if !tsInh c.tstat && c.enqsAddr = some c.pc then some c.enqsCount else none

/-- R205: what the checks of an ENQS come to. -/
def enqsBad (s : State) (c : Ctx) (va n : Word) : Option (BitVec 8 × Word) :=
  if 2 ^ 56 ≤ va.toNat then some (cPROT, va)
  else if va.toNat % 2 ≠ 0 then some (cALIGN, va)
  else if 4096 < n.toNat then some (cPROT, n)
  else (scanRange s (isSuper c) (va.toNat + 2 * n.toNat) 4 va.toNat).map fun f => (f.1, BitVec.ofNat 64 f.2)

/-- R167, R205: the state in which those checks trap. -/
def enqsFault (s : State) (c : Ctx) (va n : Word) : State :=
  if va.toNat % 2 ≠ 0 || 4096 < n.toNat then s
  else match scanRange s (isSuper c) (va.toNat + 2 * n.toNat) 4 va.toNat with
    | some f => faulted true s s.cur.core f.1 f.2
    | none => s

/-- R205, R206, R184: ENQS. The checks come before any word is appended, and not in a wait that goes on. Each cycle takes the words
that fit, at most 16; the rest waits, and is appended with no second release. -/
def execEnqs (e a b : BitVec 5) (g : BitVec 3) (s : State) : Host.Outcome State Fault Refusal :=
  .next (scalar (.enqs e a b g) g (fedEng s e).isSome false (fun s c =>
    match fedEng s e with
    | none => .trap s cILLOP (wordOf (.enqs e a b g))
    | some eng =>
      consume c [a, b] <|
        let va := (readX c a).val
        let n := (readX c b).val
        match (if c.wait.isSome then none else enqsBad s c va n) with
        | some f => .trap (enqsFault s c va n) f.1 f.2
        | none =>
          let sent := (enqsSent c).getD 0
          let k := Nat.min (Nat.min (freeSlots (queueOf s s.cur.core eng)) (enqsShare s c)) (n.toNat - sent)
          let r := scriptWords (isSuper c) (captureModes s c) k (if (enqsSent c).isSome then s else release s [10]) (va.toNat + 2 * sent)
          let s1 := modCtx (feed r.2 eng r.1) s.cur fun c => { c with enqsAt := (s.cyc.toNat, 16 - enqsShare s c + k) }
          if n.toNat ≤ sent + k then .done s1 (c.pc + 4) else .wait s1 (.enqs e a b (sent + k))) s)

/-- R207: EBUSY. -/
def execEbusy (e : BitVec 5) (p : BitVec 3) (g : BitVec 3) (s : State) : Host.Outcome State Fault Refusal :=
  .next (scalar (.ebusy e p g) g (fedEng s e).isSome false (fun s c =>
    match fedEng s e with
    | none => .trap s cILLOP (wordOf (.ebusy e p g))
    | some eng => .done (setP s p (freeSlots (queueOf s s.cur.core eng) < 8) false) (c.pc + 4)) s)

/-- R208, R184: EFENCE. -/
def execEfence (e : BitVec 5) (g : BitVec 3) (s : State) : Host.Outcome State Fault Refusal :=
  .next (scalar (.efence e g) g (fedEng s e).isSome false (fun s c =>
    match fedEng s e with
    | none => .trap s cILLOP (wordOf (.efence e g))
    | some eng => if queueIdle (queueOf s s.cur.core eng) then .done (acquires s [10]) (c.pc + 4) else .wait s (.efence e)) s)

/-- R209: the index of the oldest entry not yet retired. -/
def oldestIdx (q : Queue) : BitVec 16 :=
  match q.running with
  | r :: _ => r.index
  | [] => match q.entry with | some e => e.index | none => q.headIdx

/-- R209: the status word of a queue. -/
def statusWord (q : Queue) (revk : Bool) : Word :=
  BitVec.ofNat 64 (q.set.mark.toNat * 2 ^ 48 + (oldestIdx q).toNat * 2 ^ 32 + (if revk then 2 ^ 24 else 0)
    + (if q.waiting && q.running.isEmpty then 2 ^ 23 else 0) + (if q.set.latch then 2 ^ 22 else 0) + (if q.stop.isSome then 2 ^ 21 else 0)
    + (if q.entry.isNone && q.running.isEmpty then 2 ^ 20 else 0) + q.set.stack.length * 2 ^ 16 + q.words.length)

/-- R209: ESTAT. -/
def execEstat (e d : BitVec 5) (g : BitVec 3) (s : State) : Host.Outcome State Fault Refusal :=
  .next (scalar (.estat e d g) g (fedEng s e).isSome false (fun s c =>
    match fedEng s e with
    | none => .trap s cILLOP (wordOf (.estat e d g))
    | some eng =>
      .done (setX s d (mkX (statusWord (queueOf s s.cur.core eng) (eng = .mx && (curCore s).revk)) [])) (c.pc + 4)) s)

end Sys2Proof.Machine
end

