-- ==== Sys2Proof/Machine/Churn.lean ====
section
/-!
DEFINITION. The Churn unit and its scalar instructions (15 R315-R324; 16 R325).
-/
namespace Sys2Proof.Machine

def churnOf (s : State) (q : Nat) : Churn := mget {} s.pkg.churn q
def modChurn (s : State) (q : Nat) (f : Churn → Churn) : State :=
  modPkg s fun p => { p with churn := mmod {} p.churn q f }

/-- Slots of a queue in a state. -/
def churnCount (ch : Churn) (st : ChurnSt) : Nat := (ch.recs.filter fun r => r.2.st = st).length
/-- R318: records that count against CAP. -/
def churnUsed (ch : Churn) : Nat := churnCount ch .waiting + churnCount ch .claimed

/-- R317: the status word. -/
def churnStatus (ch : Churn) : Word :=
  BitVec.ofNat 64 (ch.drops.toNat * 2 ^ 48 + (if ch.en then 2 ^ 47 else 0) + churnCount ch .claimed * 2 ^ 32
    + churnCount ch .waiting * 2 ^ 16 + ch.rej.toNat)

/-- Cut a byte list into little-endian fields of n bytes. -/
def cutFields (n : Nat) : Nat → List Byte → List Nat
  | 0, _ => []
  | k + 1, bs => leNat (bs.take n) :: cutFields n k (bs.drop n)

/-- R319: one field of a fold: the result and OVF. -/
def foldField (opr : BitVec 4) (p n : Nat) : Nat × Bool :=
  let x : Word := BitVec.ofNat 64 p
  let y : Word := BitVec.ofNat 64 n
  let out (v : Word) : Nat × Bool := (v.toNat, false)
  if opr = 0 then ((x + y).toNat, decide (x.toInt + y.toInt ≠ (x + y).toInt))
  else if opr = 1 then
    let a := ffDecode fp32 false p
    let b := ffDecode fp32 false n
    let r := (ffRound fp32 0 0 false (numAdd 0 a b).1).1
    (r, r % 2 ^ 31 = ffInf fp32 && !anySpecial [a, b])
  else if opr = 2 || opr = 11 then out (x ||| y)
  else if opr = 3 then out (x &&& y)
  else if opr = 4 then out (x ^^^ y)
  else if opr = 5 then out (amoNew 5 x y)
  else if opr = 6 then out (amoNew 4 x y)
  else if opr = 7 then out (amoNew 7 x y)
  else out (amoNew 6 x y)

/-- R319: fold the payload of an insert into a record's. -/
def foldPayload (opr : BitVec 4) (p n : List Byte) : List Byte × Bool :=
  if opr = 9 then (n, false)
  else if opr = 10 then (p, false)
  else
    let w := if opr = 1 then 4 else 8
    let k := p.length / w
    let rs := ((cutFields w k p).zip (cutFields w k n)).map fun e => foldField opr e.1 e.2
    (rs.flatMap fun r => leBytes w r.1, rs.any (·.2))

/-- The WAITING record with a key. -/
def churnMatch (ch : Churn) (key : Word) : Option Nat :=
  (ch.recs.find? fun r => r.2.st = .waiting && r.2.key = key).map (·.1)

/-- R325: the lowest free slot. -/
def churnFree (ch : Churn) : Nat :=
  ((List.range 1025).find? fun k => (mget {} ch.recs k).st = .free).getD 0

/-- R320: an insert can fold or has room. -/
def churnCan (ch : Churn) (key : Word) : Bool := (churnMatch ch key).isSome || churnUsed ch < ch.cap

/-- R320: the step of an insert that can take place. -/
def churnInsert (ch : Churn) (key : Word) (pl : List Byte) : Churn :=
  match churnMatch ch key with
  | some k =>
    { ch with recs := mmod {} ch.recs k fun r =>
        let f := foldPayload ch.opr r.payload pl
        { r with payload := f.1, ovf := r.ovf || f.2, nins := r.nins + 1 } }
  | none =>
    let k := churnFree ch
    { ch with
      ages := ch.ages + 1
      recs := mmod {} ch.recs k fun r =>
        { st := .waiting, key := key, payload := pl, nins := 1, ovf := false, age := ch.ages, gen := r.gen + 1 } }

/-- R318: the oldest WAITING record. -/
def churnOldest (ch : Churn) : Option Nat :=
  (ch.recs.foldl (fun (a : Option (Nat × Nat)) r =>
    if r.2.st = .waiting then
      match a with
      | some m => if r.2.age < m.2 then some (r.1, r.2.age) else a
      | none => some (r.1, r.2.age)
    else a) none).map (·.1)

/-- R321: the header of a claimed record. -/
def churnHeader (ch : Churn) (q k : Nat) : Word :=
  let r := mget {} ch.recs k
  let pop := if ch.opr = 11 then
    ((List.range (8 * r.payload.length)).filter fun i => natBit (leNat r.payload) i).length else 0
  BitVec.ofNat 64 (2 ^ 63 + r.gen.toNat * 2 ^ 48 + pop * 2 ^ 32 + (if r.ovf then 2 ^ 31 else 0)
    + Nat.min r.nins 32767 * 2 ^ 16 + q * 2 ^ 10 + k)

/-- The record becomes CLAIMED. -/
def churnClaim (ch : Churn) (k : Nat) : Churn :=
  { ch with recs := mmod {} ch.recs k fun r => { r with st := .claimed } }
/-- A record is retired: its slot is free and keeps its generation. -/
def churnRetire (ch : Churn) (k : Nat) : Churn :=
  { ch with recs := mmod {} ch.recs k fun r => { gen := r.gen } }

/-- R324: CHURN's TVAL. -/
def churnTval (sub q : Nat) : Word := BitVec.ofNat 64 (sub + q * 2 ^ 8)

/-- R315: the queue belongs to the job of a core. -/
def churnOwns (s : State) (id : CoreId) (q : Nat) : Bool :=
  match jobAt s id, (churnOf s q).owner with
  | some j, some o => j = o
  | _, _ => false

/-- R320, R312: checks 2, 4 and 5 of an insert, and 3 where `size` is the payload size it needs: the
cause and TVAL. -/
def insertCheck (s : State) (id : CoreId) (q : Nat) (scalar8 : Bool) (key : Word) : Option (BitVec 8 × Word) :=
  let ch := churnOf s q
  if !churnOwns s id q || !ch.en then some (cCHURN, churnTval 1 q)
  else if scalar8 && ch.psz ≠ 0 then some (cCHURN, churnTval 2 q)
  else if !ch.kw && 2 ^ 32 ≤ key.toNat then some (cCHURN, churnTval 7 q)
  else if ch.opr = 1 && (match teamOf s id with | some t => t.det | none => false) then
    some (cDETVIOL, BitVec.ofNat 64 (q * 256 + 1))
  else none

/-- R320: some insert has waited longer on the queue and could take place now. -/
def earlierInsert (s : State) (q mine : Nat) (ch : Churn) : Bool :=
  (allCtxs s).any (fun id =>
    (match (ctxOf s id).wait with
      | some ⟨.chinsw _ q' a _, _, t⟩ =>
        q'.toNat = q && t < mine && churnCan ch (readX (ctxOf s id) a).val
      | _ => false))
  || s.cores.any (fun e => match e.2.qCp.entry with
      | some en => en.ticket ≠ 0 && en.ticket < mine && (match en.ops with
          | [_, qw, key] => bitsAt qw 0 6 = q && churnCan ch key
          | _ => false)
      | none => false)

/-- R320: CHINS and CHINSW. -/
def chinsBody (w : Bool) (p : BitVec 3) (a b : BitVec 5) (q : BitVec 6) (s : State) (c : Ctx) : Res :=
  consume c [a, b] <|
    let key := (readX c a).val
    match insertCheck s s.cur.core q.toNat true key with
    | some e => .trap s e.1 e.2
    | none =>
      let ch := churnOf s q.toNat
      let mine := match c.wait with | some v => v.ticket | none => s.ticket
      if churnCan ch key && !(w && earlierInsert s q.toNat mine ch) then
        let s0 := if (churnMatch ch key).isSome then count s s.cur.core 0x5B 1 (isSuper c) else s
        let s1 := modChurn (tagCtx s0 1) q.toNat fun ch => churnInsert ch key (leBytes 8 (readX c b).val.toNat)
        .done (setP s1 p true false) (c.pc + 4)
      else if w then .wait s (.chinsw p q a b)
      else .done (setP (modChurn (tagCtx s 0) q.toNat fun ch => { ch with rej := satInc ch.rej }) p false false) (c.pc + 4)

/-- R320: CHINS. -/
def execChins (p : BitVec 3) (a b : BitVec 5) (q : BitVec 6) (g : BitVec 3) (s : State) : Host.Outcome State Fault Refusal :=
  .next (scalar (.chins p a b q g) g true false (chinsBody false p a b q) s)

/-- R320: CHINSW. -/
def execChinsw (p : BitVec 3) (a b : BitVec 5) (q : BitVec 6) (g : BitVec 3) (s : State) : Host.Outcome State Fault Refusal :=
  .next (scalar (.chinsw p a b q g) g true false (chinsBody true p a b q) s)

/-- R117: translate every 8 bytes of a store of n bytes; the first that fails gives its cause and its address. -/
def storeRange (s : State) (super : Bool) : Nat → Nat → Except (BitVec 8 × Nat) Unit
  | _, 0 => .ok ()
  | va, n + 1 =>
    match translate s s.cur.core super .store va with
    | .error e => .error (e, va)
    | .ok _ => storeRange s super (va + 8) n

/-- Plain stores of 8-byte words at successive addresses that translate. -/
def storeWords (super : Bool) : Nat → List Nat → State → State
  | _, [], s => s
  | va, w :: t, s =>
    match translate s s.cur.core super .store va with
    | .error _ => s
    | .ok x =>
      storeWords super (va + 8) t (ctxStore s x (leBytes 8 w) false)

/-- R321: CHTAKE. -/
def execChtake (d a : BitVec 5) (q : BitVec 6) (g : BitVec 3) (s : State) : Host.Outcome State Fault Refusal :=
  .next (scalar (.chtake d a q g) g true false (fun s c =>
    consume c [a] <|
      let ea := (readX c a).val
      let ch := churnOf s q.toNat
      if 2 ^ 56 ≤ ea.toNat then .trap s cPROT ea
      else if ea.toNat % 8 ≠ 0 then .trap s cALIGN ea
      else match storeRange s (isSuper c) ea.toNat (ch.psz + 2) with
        | .error e => .trap (faulted true s s.cur.core e.1 e.2) e.1 ea
        | .ok _ =>
          if !churnOwns s s.cur.core q.toNat || !ch.en then .trap s cCHURN (churnTval 1 q.toNat)
          else if ch.bind then .trap s cCHURN (churnTval 5 q.toNat)
          else match churnOldest ch with
            | none => .done (setX (tagCtx s 0) d (mkX 0 [])) (c.pc + 4)
            | some k =>
              let h := churnHeader ch q.toNat k
              let r := mget {} ch.recs k
              let s1 := modChurn (tagCtx s h) q.toNat fun ch => churnClaim ch k
              let s2 := storeWords (isSuper c) ea.toNat (r.key.toNat :: cutFields 8 (ch.psz + 1) r.payload) s1
              .done (setX s2 d (mkX h [])) (c.pc + 4)) s)

/-- R322: CHDONE; a queue disabled since the take still accepts it. -/
def execChdone (a : BitVec 5) (q : BitVec 6) (g : BitVec 3) (s : State) : Host.Outcome State Fault Refusal :=
  .next (scalar (.chdone a q g) g true false (fun s c =>
    consume c [a] <|
      let h := (readX c a).val
      let r := mget {} (churnOf s q.toNat).recs (bitsAt h 0 10)
      if !churnOwns s s.cur.core q.toNat then .trap s cCHURN (churnTval 1 q.toNat)
      else if r.st ≠ .claimed || r.gen.toNat ≠ bitsAt h 48 15 then .trap s cCHURN (churnTval 4 q.toNat)
      else .done (modChurn (tagCtx s 0) q.toNat fun ch => churnRetire ch (bitsAt h 0 10)) (c.pc + 4)) s)

/-- R316, R323: the fields of a configuration word are in range; `desc` is the template of a bound
queue. -/
def churnCfgOk (v : Word) (desc : Option Desc) : Bool :=
  (v &&& 0x7FFFFFFF0800F0C4#64) == 0 && 1 ≤ bitsAt v 16 11 && bitsAt v 16 11 ≤ 1024 && bitsAt v 8 4 ≤ 11 &&
    (if v.getLsbD 28 then
      bitsAt v 3 3 ≤ 5 && (match desc with | some t => t.grid = 1 && t.team = 1 && !t.det | none => false)
    else bitsAt v 29 3 = 0)

/-- R316: CHCFG. Range before records held (DEDUCED, log 23). -/
def execChcfg (d a b : BitVec 5) (q : BitVec 6) (g : BitVec 3) (s : State) : Host.Outcome State Fault Refusal :=
  .next (scalar (.chcfg d a b q g) g true false (fun s c =>
    let v := (readX c a).val
    consume c (if v.getLsbD 28 then [a, b] else [a]) <|
      let ch := churnOf s q.toNat
      let old := churnStatus ch
      let root := rootOf s s.cur.core
      if !churnOwns s s.cur.core q.toNat then .trap s cCHURN (churnTval 1 q.toNat)
      else if v.getLsbD 63 then
        if v = 0x8000000000000000#64 then .done (setX (tagCtx s old) d (mkX old [])) (c.pc + 4)
        else .trap s cCHURN (churnTval 6 q.toNat)
      else if !churnCfgOk v (readDesc s root (readX c b).val) then .trap s cCHURN (churnTval 6 q.toNat)
      else if churnUsed ch ≠ 0 then .trap s cCHURN (churnTval 3 q.toNat)
      else
        let s1 := modChurn (tagCtx s old) q.toNat fun ch =>
          { ch with en := v.getLsbD 0, conc := bitsAt v 29 3, bind := v.getLsbD 28, cap := bitsAt v 16 11,
                    opr := v.extractLsb' 8 4, psz := bitsAt v 3 3, kw := v.getLsbD 1,
                    templ := if v.getLsbD 28 then (readX c b).val else 0, rej := 0, drops := 0, recs := [] }
        .done (setX s1 d (mkX old [])) (c.pc + 4)) s)

end Sys2Proof.Machine
end

