-- ==== Sys2Proof/Machine/Sched.lean ====
section
/-!
DEFINITION. From bind records to units: slot tables, dispatch events, unit start and retirement,
completion counters, graphs, pre-emption, save and restore, cancellation
(06 R138-R149; 17 R335-R343; 21 R366-R376; 22 R391-R394; 15 R323).
-/
namespace Sys2Proof.Machine

def slotIn (k : Nat) (cl : Cluster) : Slot := if k = 0 then cl.slot0 else cl.slot1
def setSlotIn (k : Nat) (cl : Cluster) (v : Slot) : Cluster :=
  if k = 0 then { cl with slot0 := v } else { cl with slot1 := v }
def slotAt (s : State) (c : ClusId) (k : Nat) : Slot := slotIn k (clusOf s c)
def modSlot (s : State) (c : ClusId) (k : Nat) (f : Slot → Slot) : State :=
  modClus s c fun cl => setSlotIn k cl (f (slotIn k cl))
/-- Word n of a record. -/
def slotWord (sl : Slot) (n : Nat) : Word := mget 0 sl.w n
def setSlotWord (sl : Slot) (n : Nat) (v : Word) : Slot := { sl with w := mset 0 sl.w n v }

def modTeam (s : State) (c : ClusId) (f : Team → Team) : State :=
  modClus s c fun cl => { cl with team := cl.team.map f }

/-- R371: the dispatch event ring of a die is full. -/
def derFull (s : State) (die : Nat) : Bool :=
  let d := dieOf s die
  (d.derHead.toNat + 1) % ringSize d.derbase = d.derTail.toNat

/-- R371: a 16-byte event on the die's dispatch event ring; a full ring drops it and counts. -/
def derPut (s : State) (die : Nat) (bytes : List Byte) : State :=
  let d := dieOf s die
  let size := ringSize d.derbase
  if derFull s die then modDie s die fun d => { d with derDrops := satInc d.derDrops }
  else
    modDie (physWrite s (ringBase d.derbase + 16 * d.derHead.toNat) bytes false) die fun d =>
      { d with derHead := BitVec.ofNat 16 ((d.derHead.toNat + 1) % size) }

/-- R370, R371, R424: an event of a slot with its code, and the Crier's copy of it for its job; `b3` is the STATE of
event 6. -/
def derEvent (s : State) (c : ClusId) (k code b3 : Nat) (job : BitVec 32) : State :=
  let bytes := leBytes 2 (2 * c.clus + k) ++ leBytes 1 code ++ leBytes 1 b3 ++ leBytes 4 job.toNat ++ leBytes 8 s.cyc.toNat
  let s1 := derPut s c.die bytes
  if job = 0 || derFull s c.die then s1 else jobEvent s1 c.die job (.slot bytes)

/-- Fields of a bind record (R369). -/
def recJob (sl : Slot) : BitVec 32 := (slotWord sl 0).setWidth 32
def recKind (sl : Slot) : Nat := bitsAt (slotWord sl 0) 59 2
def recRes (sl : Slot) : Bool := (slotWord sl 0).getLsbD 58
def recLid (sl : Slot) : BitVec 48 := (slotWord sl 2).setWidth 48
def recDesc (sl : Slot) : Word := (slotWord sl 3) &&& 0x00FFFFFFFFFFFFFF#64
def recJcb (sl : Slot) : Nat := bitsAt (slotWord sl 4) 12 40 * 4096 + bitsAt (slotWord sl 6) 8 4 * 256
def recTeam (sl : Slot) : Nat := bitsAt (slotWord sl 4) 0 12
def recSave (sl : Slot) : Nat := bitsAt (slotWord sl 5) 16 36 * 65536
def recVclus (sl : Slot) : Nat := bitsAt (slotWord sl 5) 0 7

/-- R377: the entry of a virtual cluster names this cluster. -/
def remapNames (s : State) (c : ClusId) (vc : Nat) : Bool :=
  let r := mget 0 (dieOf s c.die).remap vc
  r.getLsbD 63 && bitsAt r 5 2 = c.die && bitsAt r 0 5 = c.clus

/-- R371: a record is valid. -/
def recordOk (s : State) (c : ClusId) (sl : Slot) : Bool :=
  let kind := recKind sl
  (slotWord sl 0 &&& 0x03FFFF0000000000#64) == 0 && (slotWord sl 2 &&& 0xFFFF000000000000#64) == 0 &&
    (slotWord sl 3 &&& 0xFF00000000000000#64) == 0 && (slotWord sl 4 &&& 0xFFF0000000000000#64) == 0 &&
    (slotWord sl 5 &&& 0xFFF000000000FF80#64) == 0 && (slotWord sl 6 &&& 0x00000000FFFFF0FF#64) == 0 &&
    kind ≠ 3 && recVclus sl ≤ 95 && remapNames s c (recVclus sl) &&
    (kind ≠ 2 || (match jobOf s (recJob sl) with | some j => j.super | none => false)) &&
    (kind = 1 || (match readDesc s (jcbRoot s (recJcb sl)) (recDesc sl) with
      | some d => recTeam sl < d.grid / d.team
      | none => false))

def graphOf (s : State) (jcb : Nat) (gid : BitVec 48) : Option Graph :=
  s.pkg.graphs.find? fun g => g.gid = gid && g.jcb = jcb
def modGraph (s : State) (jcb : Nat) (gid : BitVec 48) (f : Graph → Graph) : State :=
  modPkg s fun p => { p with graphs := p.graphs.map fun g => if g.gid = gid && g.jcb = jcb then f g else g }

/-- R374: every predecessor of a node has retired. -/
def nodeReady (g : Graph) (v : Nat) : Bool := g.nodes.all fun u => !u.succ.contains v || u.retired

/-- R374: the node that supplies the next team: ready, with the greatest RP, the lower index on a tie. -/
def pickNode (g : Graph) : Option Nat :=
  if g.cancelled then none
  else
    (g.nodes.zipIdx.foldl (fun (a : Option (Nat × Nat)) e =>
      if e.1.started < e.1.teams && nodeReady g e.2 then
        match a with
        | some m => if m.1 < e.1.rp then some (e.1.rp, e.2) else a
        | none => some (e.1.rp, e.2)
      else a) none).map (·.2)

/-- The launch of a KIND 0 or 2 record among those bound alone. -/
def launchOf (s : State) (job : BitVec 32) (lid : BitVec 48) : Option Launch :=
  s.pkg.launches.find? fun l => l.lid = lid && l.job = job
def modLaunch (s : State) (job : BitVec 32) (lid : BitVec 48) (f : Launch → Launch) : State :=
  modPkg s fun p => { p with launches := p.launches.map fun l => if l.lid = lid && l.job = job then f l else l }

/-- R146: a CANCEL of the job: no further unit of it starts. -/
def jobCancelled (s : State) (job : BitVec 32) : Bool :=
  match jobOf s job with
  | some j => j.cancelled
  | none => false

/-- R372, R374: what a record with RES = 0 would start: the descriptor, the launch, the team's index, its counter, the node. -/
structure Pick where
  desc : Word
  lid : BitVec 48
  index : Nat
  counter : Nat
  node : Option (BitVec 48 × Nat)
  deriving DecidableEq, Repr

/-- R145, R367: the counter of a launch bound alone. -/
def lctabEntry (s : State) (jcb : Nat) (lid : BitVec 48) : Nat := jcbField s jcb 0x058 8 + 8 * (lid.toNat % 8192)

/-- R145, R372, R374, R146: the team that comes next under a record, if there is one. -/
def recPick (s : State) (sl : Slot) : Option Pick :=
  let jcb := recJcb sl
  if recKind sl = 1 then
    match graphOf s jcb (recLid sl) with
    | none => none
    | some g => (pickNode g).map fun v =>
        let n := g.nodes.getD v ⟨0, 0, [], 0, 0, 1, 0, false⟩
        { desc := n.desc, lid := BitVec.ofNat 48 (g.gid.toNat * 1024 + v), index := n.started, counter := g.gcb + 0x40 + 8 * v,
          node := some (g.gid, v) }
  else match launchOf s (recJob sl) (recLid sl) with
    | some l =>
      if !l.cancelled && !jobCancelled s (recJob sl) && !l.started.contains (recTeam sl) then
        some { desc := recDesc sl, lid := recLid sl, index := recTeam sl, counter := lctabEntry s jcb (recLid sl), node := none }
      else none
    | none => none

/-- R374, R375, R146: a staged record is ready. A restore without a saved team is never ready (log 26); nor is a record whose
descriptor, read again, is not valid (log 132), or whose team, next or saved, is one of a det launch placed on another virtual
cluster (R140, log 127). -/
def recReady (s : State) (sl : Slot) : Bool :=
  if recRes sl then
    match s.pkg.saved.find? fun e => e.1 = recSave sl with
    | some e => placedTeam s (jcbPart s (recJcb sl)) e.2.team.det e.2.team.index (recVclus sl)
    | none => false
  else match recPick s sl with
    | none => false
    | some p =>
      match readDesc s (jcbRoot s (recJcb sl)) p.desc with
      | some d => placedOk s (jcbPart s (recJcb sl)) d p.index (recVclus sl)
      | none => false

/-- R372: the deadline of a staged record. -/
def recDeadline (s : State) (sl : Slot) : Nat :=
  if slotWord sl 7 = 0 then sl.stagedAt + jcbHorizon s (recJcb sl) else (slotWord sl 7).toNat

/-- R375: the staged slot that comes first, with its deadline and job. -/
def bestStaged (s : State) (c : ClusId) : Option (Nat × Nat × Nat) :=
  let one (k : Nat) : Option (Nat × Nat × Nat) :=
    let sl := slotAt s c k
    if sl.st = .staged && recReady s sl then some (k, recDeadline s sl, (recJob sl).toNat) else none
  match one 0, one 1 with
  | some a, some b => if b.2.1 < a.2.1 || (b.2.1 = a.2.1 && b.2.2 < a.2.2) then some b else some a
  | some a, none => some a
  | none, b => b

/-- R148: the waits of a context under WTHRESH. -/
def waitCounts (s : State) (id : CtxId) : Wait → Bool
  | .kwait .. | .twait .. | .rrecv .. | .cwait .. | .waitv .. | .fget .. | .ftake .. | .pacq .. => true
  | _ => (ctxOf s id).run = .off

/-- R147: the threshold of a context; none never expires. -/
def threshold (c : Ctx) : Option Nat :=
  let n := bitsAt c.wthresh 0 32
  if n = 0 then none else some (if n < 1024 then 1024 else n)

/-- R148: a wait of a context, or of an engine word it feeds on the state of a tile, has lasted too
long. -/
def overdue (s : State) (id : CtxId) : Bool :=
  let c := ctxOf s id
  match threshold c with
  | none => false
  | some n =>
    (match c.wait with
      | some v => waitCounts s id v.what && v.since + n < s.cyc.toNat
      | none => false)
    || allEngs.any fun e => feederOf e = id.kind && (match (queueOf s id.core e).tileSince with
        | some t => t + n < s.cyc.toNat
        | none => false)

/-- R139: the ranks of a team. -/
def teamRanks (t : Team) : List Nat := List.range t.size

def longWait (s : State) (c : ClusId) (t : Team) : Bool :=
  (teamRanks t).any fun r => allKinds.any fun k => overdue s ⟨coreAt c r, k⟩

/-- R375: a decision on a RUNNING team: in favour of the ready STAGED record when the team is swappable or
at a yield (`yld`), or when its granted slice has ended and the staged one comes before it. -/
def decideSlot (s : State) (c : ClusId) (yld : Bool) : State :=
  match (clusOf s c).team, bestStaged s c with
  | some t, some b =>
    if t.preempt.isSome || t.due.isSome || t.restoring then s
    else if yld then modTeam s c fun t => { t with due := some .yield }
    else if t.swappable && longWait s c t then modTeam s c fun t => { t with due := some .wait }
    else if t.sliceEnd ≤ s.cyc.toNat && (b.2.1 < t.deadline.toNat || (b.2.1 = t.deadline.toNat && b.2.2 < t.job.toNat))
    then modTeam s c fun t => { t with due := some .slice }
    else s
  | _, _ => s

/-- R335: a context stops at its next instruction boundary: at once when it is at one. -/
def holdCtx (s : State) (id : CtxId) : State :=
  let c := ctxOf s id
  let s1 := modCtx s id fun c => { c with latch := true }
  if c.run ≠ .running then s1
  else match c.wait with
    | some v =>
      if abandonable v.what then modCtx s1 id stopInWait else s1
    | none => if !anyLoop c || tsInh c.tstat then modCtx s1 id fun c => { c with held := true } else s1

/-- R335: THE PRE-EMPTION REQUEST. Requests of the lease and of power end with their instructions. -/
def requestPreempt (s : State) (c : ClusId) (why : SwapWhy) (unbind : Bool) : State :=
  match (clusOf s c).team with
  | none => s
  | some t =>
    match t.preempt with
    | some _ => modTeam s c fun t => { t with preempt := t.preempt.map fun p => { p with unbind := p.unbind || unbind } }
    | none =>
      let s1 := modTeam s c fun t =>
        { t with preempt := some { since := s.cyc.toNat, why := why, unbind := unbind }, due := none }
      let s2 := modClus s1 c fun cl => { cl with leaseReqs := [], pacq := cl.pacq.filter (·.restore) }
      (teamRanks t).foldl (fun s r => allKinds.foldl (fun s k => holdCtx s ⟨coreAt c r, k⟩) s) s2

/-- R335: the event of a decided request. -/
def execPreemptionRequest (c : ClusId) (s : State) : Host.Outcome State Fault Refusal :=
  .next (
    match (clusOf s c).team with
    | some t => match t.due with | some w => requestPreempt s c w false | none => s
    | none => s)

/-- R335: a context still running 16,384 cycles after the request stops at the next boundary. -/
def execPreemptionForceStop (id : CtxId) (s : State) : Host.Outcome State Fault Refusal :=
  .next (
    match teamOf s id.core with
    | some t =>
      match t.preempt with
      | some p =>
        if p.since + 16384 ≤ s.cyc.toNat && (ctxOf s id).run = .running && (ctxOf s id).wait.isNone
        then modCtx s id fun c => { c with held := true } else s
      | none => s
    | none => s)

/-- R141, R17, R328: a context at unit start; the registers it does not name keep their values (R11). TVEC's reserved bits stay 0
whatever stands in the job control block (DESIGN CHOICE, log 159). -/
def startCtx (entry tvec : Word) (args : List Word) (super : Bool) (c : Ctx) : Ctx :=
  { c with
    run := .running
    x := args.zipIdx.foldl (fun x a => mset {} x (10 + a.2) { val := a.1 }) c.x
    lc := []
    pc := maskPc entry
    fctl := 0
    srseed := 0
    tstat := tsPack false (if super then 1 else 0) 0 true false 0
    tvec := tvec &&& 0xFFFFFFFFFFFFF000#64
    intp := 0
    intpAt := 0
    crdep := untag [0x00, 0x01, 0x10, 0x14, 0x17, 0x20] c.crdep
    wthresh := 20000
    latch := false
    wait := none
    enqsCount := 0
    enqsAddr := none
    nest := false
    stopped := none
    held := false
    budgetDue := false
    stored := [] }

/-- A queue with the default neighbours of an engine (R203, R215). -/
def freshQueue (e : Eng) : Queue := queueIn e {}

/-- The core's part of a unit start: everything the team owns at its unit-start value (R141, R203, R234,
R278, R293); the registers of the contexts, the data cache, the TLB and the event counters stay. -/
def freshCore (c : Core) : Core :=
  { unit := none, retired := false, ctxL := c.ctxL, ctxX := c.ctxX, ctxS := c.ctxS, l1 := c.l1, tlb := c.tlb, ecnt := c.ecnt, esel := c.esel }

/-- R141: START A UNIT on a core with three entry addresses and the values of x10 on. -/
def startUnit (s : State) (id : CoreId) (u : UnitInfo) (entries args : List Word) (tvec : Word) (super : Bool)
    (tiles : SMap Tile) : State :=
  modCore (modPkg s fun p => { p with units := p.units + 1 }) id fun c0 =>
    let c := freshCore c0
    let start (n : Nat) (x : Ctx) : Ctx :=
      startCtx (entries.getD n 0) tvec args super { x with pts := Nat.max x.pts (clockOf s 17) }
    { c with
      unit := some { u with uid := s.pkg.units + 1 }
      tiles := tiles
      ctxL := start 0 c.ctxL
      ctxX := start 1 c.ctxX
      ctxS := start 2 c.ctxS }

/-- R145: the virtual address of a completion counter in the Crier's mapping of its page (log 8). -/
def counterVa (pa : Nat) : Word := BitVec.ofNat 64 (counterVaPage (pa / 65536) + pa % 65536)

/-- R339: cycles as microseconds, saturating at 65,535. -/
def toUs (n : Nat) : Nat := Nat.min (n / 1600) 65535

/-- R339, R371: the granted slice, and the SLICEFLOOR event when the floor is the larger. -/
def grantSlice (s : State) (c : ClusId) (k : Nat) : Nat × State :=
  let sl := slotAt s c k
  let slen := bitsAt (slotWord sl 1) 0 32
  let floor := sl.lastSave + sl.lastRestore + 80000
  if slen < floor then
    let bytes := leBytes 2 (2 * c.clus + k) ++ [7, 0] ++ leBytes 4 (recJob sl).toNat ++ leBytes 2 (toUs sl.lastSave)
      ++ leBytes 2 (toUs sl.lastRestore) ++ leBytes 2 (toUs floor) ++ leBytes 2 (toUs slen)
    (floor, jobEvent (derPut s c.die bytes) c.die (recJob sl) (.sliceFloor floor slen))
  else (slen, s)

/-- R372: what a record gives every team it starts or restores. -/
def teamOfRecord (s : State) (c : ClusId) (k granted : Nat) (t : Team) : Team :=
  let sl := slotAt s c k
  let jcb := recJcb sl
  { t with
    job := recJob sl, jcb := jcb, asid := BitVec.ofNat 16 (jcbField s jcb 0x008 2), root := jcbRoot s jcb,
    part := jcbPart s jcb, save := recSave sl, vclus := recVclus sl,
    acct := (slotWord sl 0).extractLsb' 32 8, bud := (slotWord sl 6).extractLsb' 32 32,
    rem := (slotWord sl 6).extractLsb' 32 32, deadline := BitVec.ofNat 64 (recDeadline s sl),
    sliceEnd := s.cyc.toNat + granted, sliceDone := false, swappable := false, budgeted := false, preempt := none,
    due := none, since := s.cyc.toNat, slot := k }

/-- R48, R52: the tile bindings of a descriptor: those placed with it, or open ones (log 79). Each keeps the limits of R48 and
starts EMPTY; any other entry is EMPTY with zero geometry. -/
def imageOf (s : State) (pa : Nat) : SMap Tile :=
  (List.range 64).foldl (fun m t =>
    match (match s.pkg.images.find? fun e => e.1 = pa with
      | some e => some (BitVec.ofNat 64 (tileBase (mget {} e.2 t)), BitVec.ofNat 64 (tileGeom (mget {} e.2 t)))
      | none => Config.imageTile pa t) with
    | some (base, geom) => if geom ≠ 0 && bindingOk base geom then mset {} m t (bindTile base geom) else m
    | none => m) []

/-- R138, R372: start the units of a team on its ranks. -/
def startRanks (s : State) (c : ClusId) (t : Team) (d : Desc) : State :=
  (List.range t.size).foldl (fun s r =>
    startUnit s (coreAt c r)
      { lcid := t.index * t.size + r, teamId := t.index, rank := r, lid := t.lid, lcnt := t.lcntVa }
      d.entries d.args (jcbTvec s t.jcb) t.super (imageOf s d.pa)) s

/-- R339: the slot holds the save and restore times of the team that it takes. -/
def slotTimes (s : State) (c : ClusId) (k save restore : Nat) : State :=
  modSlot s c k fun sl => { sl with lastSave := save, lastRestore := restore }

/-- R372, R374: start the team of a record with RES = 0. -/
def startFresh (s : State) (c : ClusId) (k : Nat) : State :=
  let sl := slotAt s c k
  let jcb := recJcb sl
  match recPick s sl with
  | none => s
  | some p =>
    match readDesc s (jcbRoot s jcb) p.desc with
    | none => s
    | some d =>
      let (granted, s1) := grantSlice (slotTimes s c k 52800 52800) c k
      let t := teamOfRecord s1 c k granted
        { lid := p.lid, lcntPa := p.counter, lcntVa := counterVa p.counter, desc := p.desc, index := p.index, size := d.team,
          grid := d.grid, det := d.det, seed := d.seed, graph := p.node, super := recKind sl = 2 }
      let s2 := derEvent s1 c k 1 0 t.job
      let s3 := modClus (modSlot s2 c k fun sl => { sl with st := .running }) c fun cl =>
        { cl with team := some t, barriers := [], held := none }
      let s4 := match p.node with
        | some (gid, v) => modGraph s3 jcb gid fun g =>
            { g with nodes := g.nodes.zipIdx.map fun e => if e.2 = v then { e.1 with started := e.1.started + 1 } else e.1 }
        | none => modLaunch s3 t.job p.lid fun l => { l with started := p.index :: l.started }
      startRanks s4 c t d

/-- R338: the image of a team goes back to a cluster, under the team's new data; it issues once the restore is complete. What the L1 holds
of read-shared lines goes: the team may have acquired since (R176). The power
level of R416 is asked for again, and so is the lease the team held (log 25). -/
def restoreImage (s : State) (c : ClusId) (t : Team) (sv : Saved) : State :=
  let s1 := modClus s c fun cl =>
    { cl with
      team := some { t with restoring := true }, barriers := sv.barriers, mcwin := sv.mcwin, held := none
      pacq := (sv.cores.zipIdx.filterMap fun e => if e.1.pdecl = 0 then none
        else some ({ rank := e.2, level := e.1.pdecl, restore := true, cycle := s.cyc.toNat } : PowerReq)).foldl putReq cl.pacq }
  let s2 := sv.cores.zipIdx.foldl (fun s e =>
    modCore s (coreAt c e.2) fun c0 => { e.1 with l1 := (dropShared c0).l1, tlb := c0.tlb, ecnt := c0.ecnt, esel := c0.esel }) s1
  modPkg s2 fun p => { p with saved := p.saved.filter fun e => e.1 ≠ sv.team.save }

/-- R338, R372: begin the restore of the saved team of a record. -/
def startRestore (s : State) (c : ClusId) (k : Nat) : State :=
  match s.pkg.saved.find? fun e => e.1 = recSave (slotAt s c k) with
  | none => s
  | some (_, sv) =>
    let (granted, s1) := grantSlice (slotTimes s c k sv.team.lastSave sv.team.lastRestore) c k
    let t := teamOfRecord s1 c k granted sv.team
    restoreImage (modSlot (derEvent s1 c k 1 0 t.job) c k fun sl => { sl with st := .running }) c t sv

/-- R401, R391: a cluster belongs to a partition through some virtual cluster; an undefined partition
takes any (log 22). -/
def partHas (s : State) (part : Nat) (c : ClusId) : Bool :=
  let p := mget {} s.pkg.parts part
  !p.v || (List.range 96).any fun v =>
    (if v < 32 then p.vclo.getLsbD v else p.vchi.getLsbD (v - 32)) && remapNames s c v

/-- R338, R358: the saved team of a unit bound by no record that comes back to a cluster: the one saved there, or a team of the cluster's
partition whose own cluster has retired (DEDUCED, log 160). Not while a recovery request of its partition is under way or the partition is
sealed (R359, R404). -/
def loneSaved (s : State) (c : ClusId) : Option Saved :=
  (s.pkg.saved.find? fun e =>
    let t := e.2.team
    let h := clusOfKey e.2.home
    let tier := mget {} s.pkg.tiers t.part
    t.slot = 2 && !tier.acting && !tier.isSealed && !mget false (dieOf s c.die).clusOff c.clus &&
      (h = c || (mget false (dieOf s h.die).clusOff h.clus && partHas s t.part c))).map (·.2)

/-- R338: such a team is restored; no record grants it a new slice, so it goes on with the rest of its own. -/
def restoreLone (s : State) (c : ClusId) (sv : Saved) : State := restoreImage s c { sv.team with since := s.cyc.toNat } sv

/-- R372, R375: a ready STAGED slot starts when no slot is RUNNING, in a cycle after that of its staging (DEDUCED, log 156). Where
none is ready a team without a record that was swapped out comes back (DEDUCED, log 160). -/
def execSlotStart (c : ClusId) (s : State) : Host.Outcome State Fault Refusal :=
  .next (
    if (clusOf s c).team.isSome || (clusOf s c).power ≠ .run then s
    else match bestStaged s c with
      | none =>
        match loneSaved s c with
        | some sv => if (clusOf s c).busySince.isSome then s else restoreLone s c sv
        | none => s
      | some b =>
        if s.cyc.toNat ≤ (slotAt s c b.1).stagedAt then s
        else if recRes (slotAt s c b.1) then startRestore s c b.1 else startFresh s c b.1)

/-- R338, R416: the image has been read back and every declared level granted: the team issues. -/
def execTeamRestoreComplete (c : ClusId) (s : State) : Host.Outcome State Fault Refusal :=
  .next (
    match (clusOf s c).team with
    | some t =>
      if t.restoring && !(clusOf s c).pacq.any (·.restore) then
        let n := s.cyc.toNat - t.since
        let s1 := modTeam s c fun t => { t with restoring := false, sliceEnd := t.sliceEnd + n, lastRestore := n }
        let s2 := (teamRanks t).foldl (fun s r => allKinds.foldl (fun s k =>
          modCtx s ⟨coreAt c r, k⟩ fun c => { c with held := false }) s) s1
        if t.slot < 2 then modSlot s2 c t.slot fun sl => { sl with lastRestore := n } else s2
      else s
    | none => s)

/-- R414, R214: an entry at its completion waits on a full FIFO. -/
def fifoKey (a b : Eng) : Nat := engCode a * 6 + engCode b
def pushBlocked (c : Core) (e : Eng) (r : Running) : Bool :=
  r.pushes.any fun t => 16 ≤ mget 0 c.fifos (fifoKey e t)

/-- R335: an engine queue is at an entry boundary: it is inside of no launch. An entry that only waits to push its
token into a full FIFO counts as at one (DEDUCED, log 27). -/
def queueStopped (c : Core) (e : Eng) : Bool :=
  let q := queueIn e c
  let running := q.running.all fun r => pushBlocked c e r ||
    (match q.stop with | some t => t.index = r.index | none => false)
  running && (q.stop.isSome || q.entry.isNone)

/-- R335: a part has stopped. -/
def ctxStopped (c : Ctx) : Bool := c.run ≠ .running || c.held
def coreStopped (c : Core) : Bool :=
  c.unit.isNone || (c.removal.isNone && allKinds.all (fun k => ctxStopped (ctxIn k c)) && allEngs.all (queueStopped c))

/-- Before the launch of an entry has started the queue stands at the entry's first word. -/
def rewindQueue (q : Queue) : Queue :=
  if q.entry.isSome then { q with waiting := false, tileSince := none }
  else { q with waitTicket := 0, pos := 0, set := if q.pos = 0 then q.set else q.set0, waitks := [], sigks := [], slot := none,
                waiting := false, tileSince := none }

/-- R338: what is saved of a core. -/
def saveCore (c : Core) : Core :=
  allEngs.foldl (fun c e => setQueueIn e c (rewindQueue (queueIn e c))) { c with l1 := [], tlb := [], ecnt := [], esel := [] }

/-- What a core holds once its team has left it; no interrupt stays pending for nobody (R24). -/
def clearCore (c : Core) : Core :=
  let off (x : Ctx) : Ctx := { x with run := .off, wait := none, held := false, budgetDue := false, intp := x.intp &&& ~~~3#64 }
  { freshCore c with ctxL := off c.ctxL, ctxX := off c.ctxX, ctxS := off c.ctxS }

/-- R370: the slot of a team that leaves becomes FREE, with an event; a team bound by no record has none. -/
def leaveSlot (s : State) (c : ClusId) (t : Team) (code : Nat) : State :=
  if t.slot < 2 then
    derEvent (modSlot s c t.slot fun sl =>
      { setSlotWord sl 0 (slotWord sl 0 &&& 0x7FFFFFFFFFFFFFFF#64) with st := .free }) c t.slot code 0 t.job
  else s

/-- R368: add 1 to a completion counter at its home slice, setting ABN when the increment carries a status; the dispatch hardware
performs its adds in its order (its clock is 17). -/
def bump (s : State) (pa : Nat) (abn : Bool) : State :=
  let v := physNat s pa 8
  agentStore 17 false s pa (leBytes 8 ((v + 1) % 2 ^ 32 + (if abn || natBit v 63 then 2 ^ 63 else 0)))

/-- R368, R374, R393: what a unit has done comes before the dispatch hardware counts it, before what that starts then (DEDUCED, log
155), and before what the step sequencer does at its end. -/
def noteDispatch (s : State) (id : CoreId) : State :=
  let t := coreTime (coreOf s id)
  raiseClock (raiseClock s 17 t) 18 t

/-- R367, R374, R360: a completion record goes to its place in the ring, in HBM or beyond, and into the log. -/
def placeRecord (s : State) (part ring : Nat) (bytes : List Byte) : State :=
  let e := entryOf s ring 32 3
  match paKind ring with
  | .host off => escape s part e (.host off false bytes)
  | .peer port off => escape s part { e with peer := port } (.peer port off false bytes)
  | _ => escape (physWrite s ring bytes false) part e .placed

/-- R374, R400: write a completion record and raise the host interrupt; a full ring makes both wait. -/
def postRecord (s : State) (jcb : Nat) (bytes : List Byte) : State :=
  let ptr := jcbField s jcb 0x038 8
  let head := ptr % 256
  if (head + 1) % 256 = ptr / 256 % 256 || s.pkg.link.pendingRecords.any (fun e => e.1 = jcb) then
    modPkg s fun p => { p with link := { p.link with pendingRecords := p.link.pendingRecords ++ [(jcb, bytes)] } }
  else
    let ring := jcbField s jcb 0x028 8 + 32 * head
    let s1 := placeRecord s (jcbPart s jcb) ring bytes
    let s2 := physPut s1 (jcb + 0x038) 1 ((head + 1) % 256)
    queueIntr s2 (BitVec.ofNat 32 (jcbField s jcb 0 4)) 0 0 (jcbPart s jcb)

/-- R374: the record of a graph. -/
def graphRecord (s : State) (job : BitVec 32) (gid : BitVec 48) (status gcb : Nat) : List Byte :=
  leBytes 4 job.toNat ++ leBytes 4 (gid.toNat % 2 ^ 32) ++ leBytes 1 status ++ leBytes 7 0
    ++ leBytes 8 s.cyc.toNat ++ leBytes 8 (physNat s gcb 8)

/-- R144: a graph retires: the phase counter, the record, and the phase when its last graph retired. The pages of its counters stay
mapped (R145). -/
def retireGraph (s : State) (g : Graph) : State :=
  let status := if g.cancelled then 1 else if g.removed then 2 else 0
  let s1 := bump s (g.jcb + 0x048) (status ≠ 0)
  let s2 := postRecord s1 g.jcb (graphRecord s1 g.job g.gid status g.gcb)
  let s3 := modPkg s2 fun p =>
    { p with
      graphs := p.graphs.filter fun h => !(h.gid = g.gid && h.jcb = g.jcb)
      pages := p.pages ++ (graphPages g).map fun n => (g.job, n) }
  match jobOf s3 g.job with
  | none => s3
  | some j =>
    let n := phaseCount s3 (jcbRoot s3 j.jcb) j.plist.toNat j.phase
    if n ≠ 0 && physNat s3 (g.jcb + 0x048) 4 = n then
      let s4 := physPut (bump s3 (g.jcb + 0x040) (natBit (physNat s3 (g.jcb + 0x048) 8) 63)) (g.jcb + 0x048) 8 0
      retireJob (modJob s4 j.id fun j => { j with phase := j.phase + 1 }) j.id
    else s3

/-- R144, R374: count n units of a launch as retired; the launch, and with its sink the graph, retires
when the counter reaches the grid. -/
def countRetired (s : State) (job : BitVec 32) (jcb : Nat) (lid : BitVec 48) (gr : Option (BitVec 48 × Nat))
    (pa grid n : Nat) (abn : Bool) : State :=
  let s1 := (List.range n).foldl (fun s _ => bump s pa abn) s
  if n = 0 || physNat s1 pa 4 ≠ grid then s1
  else match gr with
    | none => modPkg s1 fun p => { p with launches := p.launches.filter fun l => !(l.lid = lid && l.job = job) }
    | some (gid, v) =>
      match graphOf s1 jcb gid with
      | none => s1
      | some g =>
        let bad := natBit (physNat s1 pa 8) 63
        let s2 := modGraph s1 jcb gid fun g =>
          { g with nodes := g.nodes.zipIdx.map fun e => if e.2 = v then { e.1 with retired := true } else e.1 }
        let s3 := bump s2 g.gcb bad
        if v = g.sink then (match graphOf s3 jcb gid with | some g => retireGraph s3 g | none => s3) else s3

/-- R323, R318: the record of a bound unit that ends without CHDONE is retired and counted in DROPS. The age tells it from a later
record of its slot. -/
def endChurnUnit (s : State) (q : Nat) (h : Word) (age : Nat) : State :=
  modChurn s q fun ch =>
    let k := bitsAt h 0 10
    let r := mget {} ch.recs k
    let ch1 := { ch with inFlight := ch.inFlight - 1 }
    if r.st = .claimed && r.gen.toNat = bitsAt h 48 15 && r.age = age then { churnRetire ch1 k with drops := satInc ch.drops }
    else ch1

/-- R136, R137: advance a barrier when every participant has arrived or has ended (DEDUCED for an end
that comes last, log 29). -/
def settleBarrier (size : Nat) (ended : Nat → Bool) (b : Barrier) : Barrier :=
  if b.a ≠ 0 && (List.range size).all (fun r => b.a.getLsbD r || ended r) then { b with g := b.g + 1, a := 0 } else b

/-- A rank's unit has ended or never ran. -/
def rankEnded (s : State) (c : ClusId) (r : Nat) : Bool := (coreOf s (coreAt c r)).unit.isNone

def settleBarriers (s : State) (c : ClusId) (size : Nat) : State :=
  modClus s c fun cl =>
    { cl with barriers := (List.range 8).foldl (fun m n => mmod {} m n (settleBarrier size (rankEnded s c))) cl.barriers }

/-- R342, R136: the arrival state of a removed core is cleared. -/
def clearArrival (s : State) (id : CoreId) : State :=
  modClus s (CoreId.cl id) fun cl =>
    { cl with barriers := cl.barriers.map fun e =>
        (e.1, { e.2 with a := setBit e.2.a id.rank false, t := mset 0 e.2.t id.rank 0 }) }

/-- R370: the running team's units have all retired: the slot becomes FREE. -/
def endTeam (s : State) (c : ClusId) (t : Team) : State :=
  leaveSlot (modClus s c fun cl => { cl with team := none, barriers := [], pacq := [], leaseReqs := [] }) c t 3

/-- R338: the Crier's save area of a unit bound by no record: no address names it (log 73), so the unit's number does. -/
def loneSave (s : State) : Nat := 2 ^ 52 + s.pkg.units + 1

/-- R372, R394: start one unit alone on a cluster, bound by no record. It has no launch counter: what its LCNT holds is open, and no
page is mapped for it (DESIGN CHOICE, log 106). -/
def startAlone (s : State) (id : CoreId) (job : BitVec 32) (jcb : Nat) (d : Desc) (args : List Word) (super : Bool)
    (u : UnitInfo) : State :=
  let t : Team :=
    { job := job, jcb := jcb, asid := BitVec.ofNat 16 (jcbField s jcb 0x008 2), root := jcbRoot s jcb,
      part := jcbPart s jcb, super := super, lid := (Config.freeWord s.tick).setWidth 48, size := 1, seed := d.seed,
      save := loneSave s, deadline := BitVec.ofNat 64 (s.cyc.toNat + jcbHorizon s jcb), sliceEnd := s.cyc.toNat + jcbHorizon s jcb,
      slot := 2 }
  let s1 := modClus { s with tick := s.tick + 1 } (CoreId.cl id) fun cl =>
    { cl with team := some t, barriers := [], held := none }
  startUnit s1 id { u with lid := t.lid, lcnt := counterVa 0 } d.entries args (jcbTvec s jcb) super (imageOf s d.pa)

/-- A cluster can take a unit alone: no team, in RUN, rank 0, nothing staged. -/
def idleCluster (s : State) (id : CoreId) : Bool :=
  let cl := clusOf s (CoreId.cl id)
  cl.team.isNone && cl.power = .run && cl.busySince.isNone && id.rank = 0 && cl.slot0.st = .free && cl.slot1.st = .free

/-- R394: a compensation has failed: FROZEN, COMPFAIL delivered to a unit of LASUP, or to the event log. -/
def freezeAct (s : State) (id : CoreId) (r : LaRec) (code : Byte) : State :=
  let s1 := modRec s r.seq fun r => { r with fail := code }
  let s2 := modAct s1 r.laid fun a => { a with phase := .frozen, fail := code }
  match jobOf s r.job with
  | none => jobEvent s2 id.die r.job (.compFail r.seq)
  | some j =>
    match (if jcbLasup s j.jcb = 0 then none else readDesc s (jcbRoot s j.jcb) (jcbLasup s j.jcb)) with
    | none => jobEvent s2 id.die r.job (.compFail r.seq)
    | some d =>
      let s3 := startAlone s2 id r.job j.jcb d [r.laid, r.seq, code.setWidth 64] true {}
      modCtx s3 ⟨id, .exec⟩ fun c => { c with tstat := c.tstat ||| 0x110000, tval := r.seq, crdep := untag [0x13] c.crdep }

/-- R391, R392: a compensation unit has ended with a failure code, 0 for success. -/
def endComp (s : State) (id : CoreId) (seq : Word) (code : Byte) : State :=
  match (allRecs s).find? fun e => e.2.seq = seq with
  | none => s
  | some (_, r) =>
    if code = 0 then
      let s1 := modRec s seq fun r => { r with running := false, done := true }
      retireJob (settleAct (modAct s1 r.laid fun a => { a with done := a.done + 1 }) r.laid) r.job
    else freezeAct s id r code

/-- R391: the failure code of a compensation unit at its end. -/
def compCode (u : UnitInfo) (x10 : Word) : Byte :=
  if u.removed || u.cancelled then 0xFE
  else if x10 = 0 then 0
  else if (x10.setWidth 8 : Byte) = 0 then 0xFF else x10.setWidth 8

/-- R393: what a compensation unit has written is public to the package when it retires. -/
def publishComp (s : State) (id : CoreId) (u : UnitInfo) : State :=
  if u.comp.isSome then allKinds.foldl (fun s k => asCtx s ⟨id, k⟩ fun s => release s [6]) s else s

/-- R143, R343: THE UNIT RETIRES. The slot's event comes before the counts, which may retire the job; a job that waited only for the
activity retires last (R391). -/
def retireUnit (s : State) (id : CoreId) : State :=
  let c := CoreId.cl id
  match (coreOf s id).unit with
  | none => s
  | some u =>
    let x10 := (readX (coreOf s id).ctxX 10).val
    let s1 := noteDispatch (abandonUnit (flushDrop (publishComp s id u) id) id) id
    let s2 := dropLeaseReq (if holdsLease s1 id then endLease s1 c else s1) id
    let s3 := modCore (releasePower s2 id) id fun c => { clearCore c with retired := true }
    let s4 := match u.churn with | some (q, h, age) => endChurnUnit s3 q h age | none => s3
    match (clusOf s4 c).team with
    | none => s4
    | some t =>
      let s5 := settleBarriers s4 c t.size
      let s6 := match u.removed, t.graph with
        | true, some (gid, _) => modGraph s5 t.jcb gid fun g => { g with removed := true }
        | _, _ => s5
      let s7 := if (teamRanks t).all (rankEnded s6 c) then endTeam s6 c t else s6
      let s8 := if t.lcntPa = 0 then s7
        else countRetired s7 t.job t.jcb t.lid t.graph t.lcntPa t.grid 1 (u.cancelled || u.removed)
      retireJob (match u.comp with
        | some seq => endComp s8 id seq (compCode u x10)
        | none => s8) t.job

/-- R143: all contexts have ended, the queues are empty and the engines idle. -/
def unitDone (s : State) (id : CoreId) : Bool :=
  let c := coreOf s id
  c.unit.isSome && c.removal.isNone && allKinds.all (fun k => (ctxIn k c).run ≠ .running) &&
    allEngs.all (fun e => queueIdle (queueIn e c)) &&
    (match teamOf s id with | some t => !t.restoring | none => true)

/-- R143: retirement of a unit. -/
def execUnitRetire (id : CoreId) (s : State) : Host.Outcome State Fault Refusal :=
  .next (match (coreOf s id).unit with
    | some u => if u.comp.isNone && unitDone s id then retireUnit s id else s
    | none => s)

/-- R391, R392: a compensation unit ends. -/
def execCompensationEnd (id : CoreId) (s : State) : Host.Outcome State Fault Refusal :=
  .next (match (coreOf s id).unit with
    | some u => if u.comp.isSome && unitDone s id then retireUnit s id else s
    | none => s)

/-- R392: the record to run next: the greatest SEQ among the PENDING records of the job's ABANDONING
activities, when none runs and no activity is FROZEN. -/
def nextComp (s : State) (job : BitVec 32) : Option LaRec :=
  let mine := (allRecs s).filter fun e => e.2.job = job
  if mine.any (fun e => e.2.running) || s.pkg.acts.any (fun a => a.job = job && a.phase = .frozen) then none
  else
    mine.foldl (fun (a : Option LaRec) e =>
      let live := match actOf s e.2.laid with | some t => t.phase = .abandoning | none => false
      if isPending e.2 && live then
        match a with
        | some m => if m.seq.toNat < e.2.seq.toNat then some e.2 else a
        | none => some e.2
      else a) none

/-- R391, R392, R393: start the next compensation of a job on an idle cluster of its partition; it sees what was public to the
package. -/
def execCompensationStart (job : BitVec 32) (id : CoreId) (s : State) : Host.Outcome State Fault Refusal :=
  .next (
    match jobOf s job, nextComp s job with
    | some j, some r =>
      if idleCluster s id && partHas s j.part (CoreId.cl id) then
        let s1 := modRec s r.seq fun r => { r with running := true }
        match readDesc s (jcbRoot s j.jcb) r.entry with
        | none => freezeAct s1 id r 0xFD
        | some d =>
          if d.grid ≠ 1 || d.team ≠ 1 || d.det then freezeAct s1 id r 0xFD
          else
            let s2 := startAlone s1 id job j.jcb d (r.laid :: r.seq :: (cutFields 8 6 r.args).map (BitVec.ofNat 64)) false
              { comp := some r.seq }
            allKinds.foldl (fun s k => asCtx s ⟨id, k⟩ fun s => acquires s [6]) s2
      else s
    | _, _ => s)

/-- R323: while fewer than CONC + 1 of its units are in flight, a bound queue claims its oldest WAITING record and asks for a unit. -/
def claimBound (s : State) (q : Nat) : State :=
  let ch := churnOf s q
  match churnOldest ch with
  | none => s
  | some k =>
    if ch.en && ch.bind && ch.inFlight < ch.conc + 1 then
      let r := mget {} ch.recs k
      modChurn s q fun ch =>
        { churnClaim ch k with
          inFlight := ch.inFlight + 1
          asked := ch.asked ++ [{ header := churnHeader ch q k, key := r.key, payload := r.payload, age := r.age }] }
    else s

/-- R323: a unit that a bound queue has asked for starts, the argument registers beyond its payload being open. -/
def startAsked (s : State) (q : Nat) (a : ChurnAsk) (id : CoreId) (j : Job) (d : Desc) : State :=
  let n := a.payload.length / 8
  let words := (cutFields 8 n a.payload).map (BitVec.ofNat 64) ++ (List.range (6 - n)).map fun i => Config.freeWord (s.tick + i)
  let s1 := modChurn { s with tick := s.tick + 6 } q fun ch => { ch with asked := ch.asked.drop 1 }
  startAlone s1 id j.id j.jcb d (a.header :: a.key :: words) false { churn := some (q, a.header, a.age) }

/-- R323: the oldest unit that a bound queue has asked for starts on an idle cluster of its job's partition (log 106). The template is
read at the start, which waits while it is not valid (DESIGN CHOICE, log 132). -/
def execChurnBoundDispatch (q : Nat) (id : CoreId) (s : State) : Host.Outcome State Fault Refusal :=
  .next (
    match (churnOf s q).owner.bind (jobOf s) with
    | none => s
    | some j =>
      let s1 := if j.cancelled then s else claimBound s q
      match (churnOf s1 q).asked.head?, readDesc s1 (jcbRoot s1 j.jcb) (churnOf s1 q).templ with
      | some a, some d =>
        if !j.cancelled && idleCluster s1 id && partHas s1 j.part (CoreId.cl id) then startAsked s1 q a id j d else s1
      | _, _ => s1)

/-- R420: STATE codes. -/
def powerCode : PowerSt → Nat
  | .run => 0
  | .quiesced => 1
  | .retained => 2
  | .off => 3
  | .waking => 4

/-- R424 item 4: a change of STATE writes event 6. -/
def setPower (s : State) (c : ClusId) (p : PowerSt) (f : Cluster → Cluster) : State :=
  derEvent (modClus s c fun cl => { f cl with power := p }) c 0 6 (powerCode p) 0

/-- R421: WAKING begins. -/
def startWaking (s : State) (c : ClusId) : State :=
  setPower s c .waking fun cl => { cl with busySince := some s.cyc.toNat, woken := false, heldWake := false }

/-- R421, R425: a wake source, by its bit of CLWMASK (0 SW, 1 CPW, 2 STG); while the rails settle it is
held. -/
def wakeSource (s : State) (c : ClusId) (bit : Nat) : State :=
  let cl := clusOf s c
  if !cl.wmask.getLsbD bit then s
  else match cl.power with
    | .retained => startWaking s c
    | .off => startWaking s c
    | .quiesced => if cl.busySince.isSome then modClus s c fun cl => { cl with heldWake := true } else s
    | _ => s

/-- R370: a record is refused; word 0 is left where the slot is not FREE (R424). -/
def refuseRec (s : State) (c : ClusId) (k : Nat) (w0 : Word) : State :=
  let s1 := if (slotAt s c k).st = .free then modSlot s c k fun sl => setSlotWord sl 0 (w0 &&& 0x7FFFFFFFFFFFFFFF#64) else s
  derEvent s1 c k 5 0 (w0.setWidth 32)

/-- R145: a launch bound alone is bound for the first time: its counter is cleared; the slot keeps what stood there. -/
def bindLaunch (s : State) (c : ClusId) (k : Nat) (sl : Slot) : State :=
  if recKind sl = 1 || (launchOf s (recJob sl) (recLid sl)).isSome then s
  else match readDesc s (jcbRoot s (recJcb sl)) (recDesc sl) with
    | none => s
    | some d =>
      let a := lctabEntry s (recJcb sl) (recLid sl)
      let old := [a, a + 4].map fun x => (x, physBytes s x 4, physMark s x 4)
      modPkg (modSlot (physPut s a 8 0) c k fun sl => { sl with undo := old }) fun p =>
        { p with launches := p.launches ++ [{ lid := recLid sl, job := recJob sl, grid := d.grid, size := d.team, counter := a }] }

/-- R370, R371, R404, R424, R425: the Crier writes word 0 with V = 1. Refused to a cluster out of RUN or on its way there, it is
its STG wake source. -/
def stageRecord (s : State) (c : ClusId) (k : Nat) (w0 : Word) : State :=
  let cl := clusOf s c
  let sl := setSlotWord (slotAt s c k) 0 w0
  if 2 ≤ k then s
  else if cl.power ≠ .run || cl.busySince.isSome then wakeSource (refuseRec s c k w0) c 2
  else if (slotIn k cl).st ≠ .free then s
  else if (mget {} s.pkg.tiers (jcbPart s (recJcb sl))).isSealed || !recordOk s c sl then refuseRec s c k w0
  else
    let s1 := modSlot s c k fun sl => { setSlotWord sl 0 w0 with st := .staged, stagedAt := s.cyc.toNat, undo := [] }
    decideSlot (bindLaunch s1 c k sl) c false

/-- R338: the Crier stages a record again to restore its team from the save area. -/
def restage (s : State) (c : ClusId) (k : Nat) : State :=
  stageRecord s c k (slotWord (slotAt s c k) 0 &&& 0x9FFFFFFFFFFFFFFF#64 ||| 0x8400000000000000#64)

/-- R377: the cluster of a die's remap entry. -/
def namedClus (s : State) (die vc : Nat) : Option ClusId :=
  let r := mget 0 (dieOf s die).remap vc
  if r.getLsbD 63 then some ⟨bitsAt r 5 2, bitsAt r 0 5⟩ else none

/-- R358: the record of a team saved on a retired cluster goes to a free slot of the cluster that its virtual cluster names now. -/
def moveRecord (s : State) (c : ClusId) (t : Team) : State :=
  match namedClus s c.die t.vclus with
  | none => s
  | some n =>
    if n = c || 2 ≤ t.slot then s
    else match [0, 1].find? fun k => (slotAt s n k).st = .free with
      | none => s
      | some k => restage (modSlot s n k fun sl => { sl with w := (slotAt s c t.slot).w }) n k

/-- R338: a save writes the area of 10 MiB at its base: the bytes are open (log 73). -/
def writeArea (s : State) (base : Nat) : State :=
  if 0x6000000000 < base + 0xA00000 then s
  else { s with
    tick := s.tick + 1
    mem := (Config.saveImage s.tick).foldl (fun m e => mset 0 m (base + e.1 % 0xA00000) e.2) (mclear s.mem base 0xA00000)
    memPoison := mclear s.memPoison (base / 4) 0x280000
    pkg := { s.pkg with
      dirty64k := markDirty s.pkg.dirty64k base 0xA00000
      home := bumpHome s.pkg.home base 0xA00000 } }

/-- R338: THE TEAM IS SAVED: every part has stopped; the slot becomes FREE. The length of the save is open (log 73). -/
def execTeamSaveComplete (c : ClusId) (s : State) : Host.Outcome State Fault Refusal :=
  .next (
    match (clusOf s c).team with
    | none => s
    | some t =>
      match t.preempt with
      | none => s
      | some p =>
        if (teamRanks t).all (fun r => coreStopped (coreOf s (coreAt c r))) then
          let s1 := match (clusOf s c).leaseHolder with
            | some h => revokeLease s (coreAt c h) false
            | none => s
          let s2 := (teamRanks t).foldl (fun s r => releasePower (flushDrop s (coreAt c r)) (coreAt c r)) s1
          let n : Nat := ((Config.freeWord s.tick).setWidth 32 : BitVec 32).toNat
          let img : Saved :=
            { home := clusKey c
              team := { t with preempt := none, due := none, swappable := false, budgeted := false, lastSave := n }
              cores := (teamRanks t).map fun r => saveCore (coreOf s2 (coreAt c r))
              barriers := (clusOf s2 c).barriers
              mcwin := (clusOf s2 c).mcwin }
          let s3 := (teamRanks t).foldl (fun s r => modCore s (coreAt c r) clearCore) s2
          let s4 := modPkg (writeArea s3 t.save) fun q => { q with saved := q.saved.filter (fun e => e.1 ≠ t.save) ++ [(t.save, img)] }
          let s5 := modClus { s4 with tick := s4.tick + 1 } c fun cl =>
            { cl with team := none, barriers := [], held := none, pacq := [], leaseReqs := [] }
          let s6 := leaveSlot (if t.slot < 2 then modSlot s5 c t.slot fun sl => { sl with lastSave := n } else s5) c t 2
          let s7 := if p.unbind && t.slot < 2 then derEvent s6 c t.slot 4 0 t.job else s6
          if p.why = .retire then moveRecord s7 c t else s7
        else s)

/-- R370: word 0 written with V = 0. -/
def unbindSlot (s : State) (c : ClusId) (k : Nat) : State :=
  let sl := slotAt s c k
  match sl.st with
  | .free => s
  | .staged =>
    derEvent (modSlot s c k fun sl =>
      { setSlotWord sl 0 (slotWord sl 0 &&& 0x7FFFFFFFFFFFFFFF#64) with st := .free }) c k 4 0 (recJob sl)
  | .running => requestPreempt s c .request true

/-- R370: an unbinding write. -/
def execBindUnbind (c : ClusId) (k : Nat) (s : State) : Host.Outcome State Fault Refusal :=
  .next (if 2 ≤ k then s else unbindSlot s c k)

/-- R148: a wait has passed its threshold: the team is swappable, a decision point. -/
def execWthreshExpiry (id : CtxId) (s : State) : Host.Outcome State Fault Refusal :=
  .next (
    if overdue s id then decideSlot (modTeam s (CoreId.cl id.core) fun t => { t with swappable := true }) (CoreId.cl id.core) false
    else s)

/-- R375: the granted slice ends, a decision point. -/
def execSliceEnd (c : ClusId) (s : State) : Host.Outcome State Fault Refusal :=
  .next (
    match (clusOf s c).team with
    | some t =>
      if t.sliceEnd ≤ s.cyc.toNat && !t.sliceDone && !t.restoring then decideSlot (modTeam s c fun t => { t with sliceDone := true }) c false else s
    | none => s)

/-- R206, R416: what a context asks for in a wait that a trap ends. -/
def endReqs (s : State) (id : CtxId) : State :=
  match (ctxOf s id).wait with
  | some ⟨.lease, _, _⟩ => dropLeaseReq s id.core
  | some ⟨.pacq _, _, _⟩ => dropPowerReq s id
  | _ => s

/-- R376, R329, R330: BUDGET at an execute context, at a boundary: in a wait that nothing abandons it is due (DEDUCED, log 30).
Taken with INH = 1 it escalates (R330). -/
def budgetTrap (s : State) (id : CtxId) (bud : BitVec 32) : State :=
  let c := ctxOf s id
  if c.run ≠ .running then s
  else if (match c.wait with | some v => !abandonable v.what | none => false) then
    modCtx s id fun c => { c with budgetDue := true }
  else takeTrap (modCtx (endReqs s id) id abandon) id cBUDGET (bud.setWidth 64) c.pc none

/-- R376: REM has reached 0: every execute context takes BUDGET, and a pre-emption request follows. -/
def execBudgetExpiry (c : ClusId) (s : State) : Host.Outcome State Fault Refusal :=
  .next (
    match (clusOf s c).team with
    | some t =>
      if t.budgeted then
        let s1 := modTeam s c fun t => { t with budgeted := false }
        let s2 := (teamRanks t).foldl (fun s r => budgetTrap s ⟨coreAt c r, .exec⟩ t.bud) s1
        requestPreempt s2 c .budget false
      else s
    | none => s)

/-- R340, R341: the held traps of a unit's contexts. -/
def unitLinks (c : Core) : List Link := allKinds.flatMap fun k => heldLinks k (ctxIn k c)

/-- A trigger by the Crier (0x20) at this cycle. -/
def crierLink (s : State) (cause : Byte) : Link :=
  { cause := cause, src := 0x20, entry := 0, pc := 0, val := 0, time := s.cyc.toNat }

/-- R337: a pre-emption not complete after 131,072 cycles removes the unit as hung. -/
def execPreemptionHang (id : CoreId) (s : State) : Host.Outcome State Fault Refusal :=
  .next (
    match teamOf s id with
    | some t =>
      match t.preempt with
      | some p =>
        if p.since + 131072 ≤ s.cyc.toNat && !coreStopped (coreOf s id)
        then startRemoval s id (unitLinks (coreOf s id)) (crierLink s 0x80) else s
      | none => s
    | none => s)

/-- R340: the Crier requests removal of a unit. -/
def execRemovalRequest (id : CoreId) (s : State) : Host.Outcome State Fault Refusal :=
  .next (startRemoval s id (unitLinks (coreOf s id)) (crierLink s 0x81))

/-- What the entries in hand of a queue have done to tiles. -/
def handTiles (q : Queue) : List (CoreId × BitVec 6 × TileAct) :=
  (match q.entry with | some e => e.tiles | none => []) ++ q.running.flatMap (·.tiles)

/-- R342: the queues of a removed core are flushed, the marks of their entries on the team's tiles undone, and its flags
cleared. -/
def releaseCore (s : State) (id : CoreId) : State :=
  let s0 := allEngs.foldl (fun s e => undoTiles s (handTiles (queueOf s id e))) s
  let s1 := modCore s0 id fun c =>
    { c with qLd := freshQueue .ld, qSt := freshQueue .st, qMx := freshQueue .mx, qVx := freshQueue .vx,
             qRw := freshQueue .rw, qCp := freshQueue .cp, sems := [], rings := [], removal := none }
  clearArrival s1 id

/-- R342, R405: a write of a unit is held at the egress: under the tag of its log entry, or for room in its partition's log. -/
def egressHeld (s : State) (id : CoreId) : Bool :=
  let mine (e : EscEntry) : Bool := some (e.lcid, e.launch) = (coreOf s id).unit.map fun u => (u.lcid, u.lid.toNat % 2 ^ 32)
  (match teamOf s id with
    | some t =>
      let tier := mget {} s.pkg.tiers t.part
      tier.stalled.any (fun e => mine e.1) || (tier.v && s.pkg.link.heldOut.any fun e => match e.2 with
        | .host .. => true
        | .peer .. => true
        | _ => false)
    | none => false)

/-- R342, R357, R189, R179: an access of a core may still be under way: one that waits at a self-test of a part of it, a piece of a
window, or what stands in its cluster's write buffer (none of them names a unit, DEDUCED, log 133). -/
def accessHeld (s : State) (id : CoreId) : Bool :=
  s.dies.any (fun d => d.2.due.any fun t => siteCore t.1 = some id) ||
    !(clusOf s (CoreId.cl id)).mcPieces.isEmpty || !(clusOf s (CoreId.cl id)).wbuf.isEmpty

/-- R342, R343: the second level after at least 2,048 cycles and once nothing of the unit is under way or held at the egress (a held
write names no unit: any of a safe tier counts, DEDUCED, log 133), then retirement with REMOVED. -/
def execRemovalRelease (id : CoreId) (s : State) : Host.Outcome State Fault Refusal :=
  .next (
    match (coreOf s id).removal with
    | some r =>
      if r.since + 2048 ≤ s.cyc.toNat && !egressHeld s id && !accessHeld s id then retireUnit (releaseCore s id) id else s
    | none => s)

/-- R146: the queue keeps the entries it executes; one that waits for room at a Churn unit is discarded. A trap of an entry it
keeps stays due (R327). -/
def cancelQueue (q : Queue) : Queue :=
  let keep := stopRuns q || match q.stop, q.entry with
    | some t, some e => e.index = t.index && e.ticket = 0
    | _, _ => false
  { q with
    words := []
    pos := 0
    waiting := false
    stop := if keep then q.stop.map fun t => { t with taken := false } else none
    entry := match q.entry with | some e => if e.ticket ≠ 0 then none else some e | none => none }

/-- R146, R124: cancel a unit: its contexts end, its queues keep only what runs. A compensation unit is
left alone (R391). -/
def cancelCore (c : Core) : Core :=
  match c.unit with
  | none => c
  | some u =>
    if u.comp.isSome then c
    else
      let endCtx (x : Ctx) : Ctx :=
        if x.run = .running then { x with run := .ended, wait := none, latch := true, pc := 0 } else { x with latch := true }
      let c1 := { c with unit := some { u with cancelled := true }, ctxL := endCtx c.ctxL, ctxX := endCtx c.ctxX,
                         ctxS := endCtx c.ctxS }
      allEngs.foldl (fun c e => setQueueIn e c (cancelQueue (queueIn e c))) c1

/-- R146: what a cancellation names. -/
inductive CancelWhat where
  | launch (job : BitVec 32) (lid : BitVec 48)
  | graph (jcb : Nat) (gid : BitVec 48)
  | job (job : BitVec 32)
  deriving DecidableEq, Repr

/-- A team is work of it. -/
def cancels (w : CancelWhat) (t : Team) : Bool :=
  match w with
  | .launch j l => t.job = j && t.lid = l
  | .graph jcb g => t.jcb = jcb && (match t.graph with | some (h, _) => h = g | none => false)
  | .job j => t.job = j

/-- A staged record is work of it. -/
def cancelsRec (w : CancelWhat) (sl : Slot) : Bool :=
  match w with
  | .launch j l => recKind sl ≠ 1 && recJob sl = j && recLid sl = l
  | .graph jcb g => recKind sl = 1 && recJcb sl = jcb && recLid sl = g
  | .job j => recJob sl = j

/-- R146, R390: cancel a running unit; its open activity is abandoned at once. -/
def cancelUnit (s : State) (id : CoreId) : State :=
  let s1 := modCore s id cancelCore
  match (coreOf s id).unit with
  | some u => if u.comp.isSome then s1 else abandonUnit s1 id
  | none => s1

/-- R146: a cluster's slots and running team. -/
def cancelClus (w : CancelWhat) (s : State) (c : ClusId) : State :=
  let s1 := [0, 1].foldl (fun s k =>
    if (slotAt s c k).st = .staged && cancelsRec w (slotAt s c k) then unbindSlot s c k else s) s
  match (clusOf s1 c).team with
  | some t =>
    if cancels w t then
      (teamRanks t).foldl (fun s r => cancelUnit s (coreAt c r))
        (modClus s1 c fun cl => { cl with pacq := [], leaseReqs := [] })
    else s1
  | none => s1

/-- R146 item 1: a launch bound alone: its unstarted units count as retired with CANCELLED. -/
def cancelLaunch (s : State) (l : Launch) : State :=
  let s1 := modLaunch s l.job l.lid fun l => { l with cancelled := true }
  countRetired s1 l.job 0 l.lid none l.counter l.grid (l.grid - l.started.length * l.size) true

/-- R146 item 1: the unstarted units of a graph's nodes, in ascending order, the sink last. -/
def cancelNode (jcb : Nat) (gid : BitVec 48) (s : State) (v : Nat) : State :=
  match graphOf s jcb gid with
  | none => s
  | some g =>
    match g.nodes[v]?, readDesc s (jcbRoot s jcb) ((g.nodes[v]?.map (·.desc)).getD 0) with
    | some n, some d =>
      if n.retired then s
      else
        let s1 := modGraph s jcb gid fun g =>
          { g with nodes := g.nodes.zipIdx.map fun e => if e.2 = v then { e.1 with started := e.1.teams } else e.1 }
        countRetired s1 g.job jcb 0 (some (gid, v)) (g.gcb + 0x40 + 8 * v) d.grid ((n.teams - n.started) * d.team) true
    | _, _ => s

def cancelGraph (s : State) (jcb : Nat) (gid : BitVec 48) : State :=
  match graphOf s jcb gid with
  | none => s
  | some g =>
    let s1 := modGraph s jcb gid fun g => { g with cancelled := true }
    let order := ((List.range g.nodes.length).filter fun v => v ≠ g.sink) ++ [g.sink]
    order.foldl (cancelNode jcb gid) s1

/-- R146, R143: a unit of a saved team stands at an instruction boundary with its engines idle: it retires at once
(DEDUCED, log 31). -/
def cancelSaved (t : Team) (s : State) (c : Core) : State :=
  match c.unit with
  | none => s
  | some u =>
    let s1 := match openOf s u.uid with
      | some a => abandonAct (raiseClock s 18 (coreTime c)) a
      | none => s
    let s2 := match u.churn with | some (q, h, age) => endChurnUnit s1 q h age | none => s1
    if t.lcntPa = 0 then s2 else countRetired s2 t.job t.jcb t.lid t.graph t.lcntPa t.grid 1 true

/-- R146: the cancelled work is marked first, so that whatever retires from here on carries CANCELLED. -/
def markCancelled (s : State) (w : CancelWhat) : State :=
  match w with
  | .launch _ _ => s
  | .graph jcb g => modGraph s jcb g fun g => { g with cancelled := true }
  | .job j =>
    modPkg (modJob s j fun x => { x with cancelled := true }) fun p =>
      { p with graphs := p.graphs.map fun g => if g.job = j then { g with cancelled := true } else g }

/-- R391: an image of a compensation unit, which no cancellation touches. -/
def savedComp (v : Saved) : Bool := v.cores.any fun c => match c.unit with | some u => u.comp.isSome | none => false

/-- R146, R323: the units that the Churn queues of a job have asked for and that have not started are cancelled. -/
def cancelAsked (s : State) (job : BitVec 32) : State :=
  (List.range 64).foldl (fun s q =>
    if (churnOf s q).owner ≠ some job then s
    else (churnOf s q).asked.foldl (fun s a => endChurnUnit s q a.header a.age) (modChurn s q fun ch => { ch with asked := [] })) s

/-- R146: CANCEL of one named piece of work. -/
def cancelWork (s : State) (w : CancelWhat) : State :=
  let s0 := markCancelled s w
  let s1 := s0.clusters.foldl (fun s e => cancelClus w s (clusOfKey e.1)) s0
  let gone (e : Nat × Saved) : Bool := cancels w e.2.team && !savedComp e.2
  let s2 := (s1.pkg.saved.filter gone).foldl (fun s e => e.2.cores.foldl (cancelSaved e.2.team) s)
    (modPkg s1 fun p => { p with saved := p.saved.filter fun e => !gone e })
  match w with
  | .launch j l =>
    match launchOf s2 j l with
    | some x => if x.cancelled then s2 else cancelLaunch s2 x
    | none => (s2.pkg.graphs.filter fun g => g.job = j).foldl (fun s g =>
        let v := l.toNat % 1024
        if BitVec.ofNat 48 (g.gid.toNat * 1024 + v) = l then cancelNode g.jcb g.gid s v else s) s2
  | .graph jcb g => cancelGraph s2 jcb g
  | .job j =>
    let s3 := (s2.pkg.launches.filter fun l => l.job = j && !l.cancelled).foldl cancelLaunch (cancelAsked s2 j)
    (s3.pkg.graphs.filter fun g => g.job = j).foldl (fun s g => cancelGraph s g.jcb g.gid) s3

/-- R373: the saturating remaining paths, one round: a node whose successors are all known. -/
def rpRound (nodes : List GNode) (rp : List (Option Nat)) : List (Option Nat) :=
  nodes.map fun n =>
    let ss := n.succ.map fun v => rp.getD v none
    if ss.any (·.isNone) then none
    else some (Nat.min (n.w + (ss.foldl (fun m x => Nat.max m (x.getD 0)) 0)) (2 ^ 32 - 1))

def rpRounds (nodes : List GNode) : Nat → List (Option Nat) → List (Option Nat)
  | 0, rp => rp
  | n + 1, rp => rpRounds nodes n (rpRound nodes rp)

/-- R373: read node v of a graph. -/
def readNode (s : State) (root : Nat) (va v : Nat) : Option GNode :=
  match readVirt s root 8 (va + 64 + 32 * v) 4 with
  | none => none
  | some bs =>
    match readDesc s root (BitVec.ofNat 64 (field bs 0 8)), readVirt s root 2 (field bs 16 8) (field bs 14 2) with
    | some d, some ss =>
      some { desc := BitVec.ofNat 64 (field bs 0 8), w := field bs 8 4, preds := field bs 12 2,
             succ := cutFields 2 (field bs 14 2) ss, teams := d.grid / d.team }
    | _, _ => none

/-- R373: read and check a graph. -/
def readGraph (s : State) (jcb : Nat) (gid : BitVec 48) (va : Nat) : Option Graph :=
  let root := jcbRoot s jcb
  match readVirt s root 8 va 8 with
  | none => none
  | some hd =>
    let n := field hd 0 2
    let sink := field hd 2 2
    if n = 0 || 1024 < n || n ≤ sink then none
    else
      let ns := (List.range n).map fun v => readNode s root va v
      if ns.any (·.isNone) then none
      else
        let nodes := ns.filterMap id
        let okSucc := nodes.zipIdx.all fun e => e.1.succ.all (fun v => v < n) && (e.1.succ.isEmpty == decide (e.2 = sink))
        let okPred := nodes.zipIdx.all fun e =>
          e.1.preds = ((nodes.map fun u => (u.succ.filter fun v => v = e.2).length).sum)
        if !okSucc || !okPred then none
        else
          let rp := rpRounds nodes n (nodes.map fun _ => none)
          if rp.any (·.isNone) then none
          else some { gid := gid, jcb := jcb, job := BitVec.ofNat 32 (jcbField s jcb 0 4), gcb := field hd 8 8, sink := sink,
                      nodes := (nodes.zip rp).map fun e => { e.1 with rp := e.2.getD 0 } }

/-- R144, R400: a graph is due: its job has no phase list, which a PLIST of 0 says (DESIGN CHOICE, log 28), or the list of the current
phase names it. -/
def graphDue (s : State) (jcb : Nat) (desc : Word) : Bool :=
  match jobOf s (BitVec.ofNat 32 (jcbField s jcb 0 4)) with
  | none => true
  | some j =>
    let root := jcbRoot s jcb
    let a := phaseAddr s root j.plist.toNat j.phase
    let n := phaseCount s root j.plist.toNat j.phase
    j.plist = 0 || (match readVirt s root 1 (a + 2) (8 * n) with
      | some bs => (cutFields 8 n bs).contains desc.toNat
      | none => false)

/-- R146: a graph of cancelled work: of its job, or of the job's current phase. -/
def graphCancelled (s : State) (jcb : Nat) : Bool :=
  match jobOf s (BitVec.ofNat 32 (jcbField s jcb 0 4)) with
  | none => false
  | some j => j.cancelled || j.cancelPhases.contains j.phase

/-- R373: the graph engine loads a graph, or reports it INVALID; one of cancelled work retires unstarted (R146). -/
def execGraphLoad (jcb : Nat) (gid : BitVec 48) (desc : Word) (s : State) : Host.Outcome State Fault Refusal :=
  .next (
    if !graphDue s jcb desc then s
    else match readGraph s jcb gid desc.toNat with
    | some g =>
      let s1 := modPkg s fun p => { p with graphs := p.graphs.filter (fun h => !(h.gid = gid && h.jcb = jcb)) ++ [g] }
      if graphCancelled s jcb then cancelGraph s1 jcb gid else s1
    | none =>
      let gcb := match readVirt s (jcbRoot s jcb) 8 desc.toNat 8 with | some hd => field hd 8 8 | none => 0
      postRecord s jcb (graphRecord s (BitVec.ofNat 32 (jcbField s jcb 0 4)) gid 3 gcb))

end Sys2Proof.Machine
end

