-- ==== Sys2Proof/Machine/Sync.lean ====
section
/-!
DEFINITION. Rings, counted semaphores, cluster barriers and TWAIT, with their implicit fences (06 R129-R137; 07 R175;
08 R184).
-/
namespace Sys2Proof.Machine

/-- R127, R130: the sender and the receiver of a ring. -/
def ringSender (r : BitVec 3) : CtxKind := if r = 0 then .load else if r = 3 then .store else .exec
def ringReceiver (r : BitVec 3) : CtxKind := if r = 1 then .store else if r = 2 then .load else .exec

def ringOf (s : State) (id : CoreId) (r : BitVec 3) : List RingEntry := mget [] (coreOf s id).rings r.toNat
def setRing (s : State) (id : CoreId) (r : BitVec 3) (es : List RingEntry) : State :=
  modCore s id fun c => { c with rings := mset [] c.rings r.toNat es }

/-- R130: the fill level that a sender sees: that before what was removed in this cycle. -/
def ringLevel (s : State) (id : CoreId) (r : BitVec 3) : Nat :=
  let t := mget (0, 0) (coreOf s id).ringTook r.toNat
  (ringOf s id r).length + (if t.1 = s.cyc.toNat then t.2 else 0)

/-- R130: a removal from a ring in this cycle. -/
def ringTake (s : State) (id : CoreId) (r : BitVec 3) : State :=
  modCore s id fun c => { c with ringTook := mmod (0, 0) c.ringTook r.toNat fun t =>
    (s.cyc.toNat, if t.1 = s.cyc.toNat then t.2 + 1 else 1) }

/-- R132: RINGERR with its TVAL. -/
def ringErr (s : State) (sub n : Nat) : Res := .trap s cRINGERR (BitVec.ofNat 64 (sub + n * 256))

/-- R130: RSEND. -/
def execRsend (a : BitVec 5) (r : BitVec 3) (g : BitVec 3) (s : State) : Host.Outcome State Fault Refusal :=
  .next (scalar (.rsend a r g) g true false (fun s c =>
    let es := ringOf s s.cur.core r
    if s.cur.kind ≠ ringSender r then ringErr s 1 r.toNat
    else if 64 ≤ ringLevel s s.cur.core r then
      if (ctxOf s ⟨s.cur.core, ringReceiver r⟩).run = .ended then ringErr s 2 r.toNat
      else .wait s (.rsend r a)
    else .done (setRing (release s [1, 10]) s.cur.core r (es ++ [⟨(readX c a).val, (readX c a).poison⟩])) (c.pc + 4)) s)

/-- R130: LD.R words still to come keep an RRECV on q.lx waiting. -/
def ldrPending (q : Queue) : Bool :=
  q.words.any (fun w => isLaunch w.w && w.w.extractLsb' 7 7 = 4) ||
    (match q.entry with | some e => e.opc = 4 | none => false)

/-- R128: LOD.ADDR, once per wait. -/
def countLodAddr (s : State) (c : Ctx) (r : BitVec 3) : State :=
  if r = 2 && c.wait.isNone then count s s.cur.core 0x30 1 (isSuper c) else s

/-- R130, R363: RRECV; the entry's poison comes with origin 0, and q.xl tags the value (R128). -/
def execRrecv (d : BitVec 5) (r : BitVec 3) (g : BitVec 3) (s : State) : Host.Outcome State Fault Refusal :=
  .next (scalar (.rrecv d r g) g true false (fun s c =>
    if s.cur.kind ≠ ringReceiver r then ringErr s 1 r.toNat
    else match ringOf s s.cur.core r with
      | [] =>
        if (ctxOf s ⟨s.cur.core, ringSender r⟩).run = .ended && !(r = 0 && ldrPending (curCore s).qLd) then
          ringErr s 2 r.toNat
        else .wait (countLodAddr s c r) (.rrecv r d)
      | e :: t =>
        .done (acquires (setX (ringTake (setRing s s.cur.core r t) s.cur.core r) d { val := e.val, poison := e.poison, dep := r = 2 }) [1]) (c.pc + 4)) s)

/-- R130: RPOLL. -/
def execRpoll (d : BitVec 3) (r : BitVec 3) (g : BitVec 3) (s : State) : Host.Outcome State Fault Refusal :=
  .next (scalar (.rpoll d r g) g true false (fun s c =>
    let n := (ringOf s s.cur.core r).length
    if s.cur.kind = ringSender r then .done (setP s d (n < 64) false) (c.pc + 4)
    else if s.cur.kind = ringReceiver r then .done (setP s d (0 < n) false) (c.pc + 4)
    else ringErr s 1 r.toNat) s)

def semOf (s : State) (id : CoreId) (k : BitVec 5) : Sem := mget {} (coreOf s id).sems k.toNat
def modSem (s : State) (id : CoreId) (k : BitVec 5) (f : Sem → Sem) : State :=
  modCore s id fun c => { c with sems := mmod {} c.sems k.toNat f }

/-- R134: add to a count, saturating. -/
def semAdd (n : Nat) (m : Sem) : Sem :=
  if 0xFFFF < m.count.toNat + n then { count := 0xFFFF, ovf := true }
  else { m with count := BitVec.ofNat 16 (m.count.toNat + n) }

/-- R124: set the event latches of a core's contexts. -/
def setLatches (s : State) (id : CoreId) : State :=
  allKinds.foldl (fun s k => modCtx s ⟨id, k⟩ fun c => { c with latch := true }) s

/-- R134: the value of a semaphore instruction, or its trap. -/
def semArg (a k : BitVec 5) (f : State → Ctx → Nat → Res) (s : State) (c : Ctx) : Res :=
  consume c [a] <|
    let v := (readX c a).val.toNat
    if 0xFFFF < v then ringErr s 4 k.toNat else f s c v

/-- R134: KWAIT. -/
def execKwait (a k : BitVec 5) (g : BitVec 3) (s : State) : Host.Outcome State Fault Refusal :=
  .next (scalar (.kwait a k g) g true false (semArg a k fun s c v =>
    if v ≤ (semOf s s.cur.core k).count.toNat then .done (acquires s [1, 10]) (c.pc + 4) else .wait s (.kwait k a)) s)

/-- R186: an entry that a KSIG lets start comes after what the context has done. -/
def noteSig (s : State) : State := modCore s s.cur.core fun c => { c with sigPts := Nat.max c.sigPts (curCtx s).pts }

/-- R134: KSIG. -/
def execKsig (a k : BitVec 5) (g : BitVec 3) (s : State) : Host.Outcome State Fault Refusal :=
  .next (scalar (.ksig a k g) g true false (semArg a k fun s c v =>
    .done (setLatches (modSem (noteSig (release s [1, 10])) s.cur.core k (semAdd v)) s.cur.core) (c.pc + 4)) s)

/-- R134: KSET. -/
def execKset (a k : BitVec 5) (g : BitVec 3) (s : State) : Host.Outcome State Fault Refusal :=
  .next (scalar (.kset a k g) g true false (semArg a k fun s c v =>
    .done (modSem s s.cur.core k fun _ => { count := BitVec.ofNat 16 v, ovf := false }) (c.pc + 4)) s)

/-- R134: KREAD. -/
def execKread (d k : BitVec 5) (g : BitVec 3) (s : State) : Host.Outcome State Fault Refusal :=
  .next (scalar (.kread d k g) g true false (fun s c =>
    let m := semOf s s.cur.core k
    .done (setX s d (mkX (m.count.setWidth 64 ||| (if m.ovf then 0x10000 else 0)) [])) (c.pc + 4)) s)

/-- R137: CARRIVE. -/
def execCarrive (n : BitVec 3) (g : BitVec 3) (s : State) : Host.Outcome State Fault Refusal :=
  .next (scalar (.carrive n g) g true false (fun s c =>
    let cl := CoreId.cl s.cur.core
    let rank := s.cur.core.rank
    let b := mget {} (curClus s).barriers n.toNat
    if b.a.getLsbD rank then ringErr s 3 n.toNat
    else
      let s1 := release s [2]
      let size := teamSize s s.cur.core
      .done (modClus s1 cl fun k =>
        { k with barriers := mmod {} k.barriers n.toNat fun b =>
            settleBarrier size (rankEnded s1 cl) { b with a := setBit b.a rank true, t := mset 0 b.t rank (b.g + 1) } })
        (c.pc + 4)) s)

/-- R137: CWAIT. -/
def execCwait (n : BitVec 3) (g : BitVec 3) (s : State) : Host.Outcome State Fault Refusal :=
  .next (scalar (.cwait n g) g true false (fun s c =>
    let b := mget {} (curClus s).barriers n.toNat
    if (b.g - mget 0 b.t s.cur.core.rank).toNat < 2 ^ 31 then .done (acquires s [2]) (c.pc + 4)
    else .wait s (.cwait n)) s)

/-- R175: TWAIT for EMPTY (w = 0) or READY (w = 1). -/
def execTwait (w : BitVec 1) (t : BitVec 6) (g : BitVec 3) (s : State) : Host.Outcome State Fault Refusal :=
  .next (scalar (.twait w t g) g true false (fun s c =>
    if (tileOf s s.cur.core t).st = (if w = 1 then TileSt.ready else TileSt.empty) then .done (acquires s [10]) (c.pc + 4)
    else .wait s (.twait (w = 1) t)) s)

end Sys2Proof.Machine
end

