-- ==== Sys2Proof/Machine/Engine.lean ====
section
/-!
DEFINITION. How an engine runs the words of its queue: control words, the conditions and the start of a
launch, its stop, and its completion (03 R63-R65, R68; 11 R210-R224; 07 R173; 17 R332; 24 R413-R417).
-/
namespace Sys2Proof.Machine

/-- The flags of a launch word (R63). -/
def lfPu (f : BitVec 6) : Bool := f.getLsbD 5
def lfPd (f : BitVec 6) : Bool := f.getLsbD 4
def lfSu (f : BitVec 6) : Bool := f.getLsbD 3
def lfSd (f : BitVec 6) : Bool := f.getLsbD 2
def lfPr (f : BitVec 6) : Bool := f.getLsbD 1
def lfTs (f : BitVec 6) : Bool := f.getLsbD 0

/-- R68: the layout of ENGERR's TVAL. -/
def engTval (w : BitVec 16) (pos sub : Nat) : Word := BitVec.ofNat 64 (w.toNat + pos % 256 * 2 ^ 16 + sub * 2 ^ 24)

/-- The word itself. -/
def word16 (i : Instr) : BitVec 16 :=
  match encode i with
  | .w16 w => w
  | _ => 0

/-- R212: the queue at the first word of an entry. -/
def beginEntry (q : Queue) : Queue :=
  if q.pos = 0 then { q with set0 := q.set, waitks := [], sigks := [], slot := none } else q

/-- R212, R334: the queue back at the first word of the entry at its head. -/
def backToStart (q : Queue) : Queue :=
  { q with set := q.set0, pos := 0, waitks := [], sigks := [], slot := none, waiting := false, tileSince := none,
           charge := none, waitTicket := 0 }

/-- An engine trap (R326): the queue stops. -/
def stopWith (cyc : Nat) (cause : BitVec 8) (tval : Word) (index : BitVec 16) (resume : Resume) (q : Queue) : Queue :=
  { q with waiting := false, tileSince := none,
           stop := some { cause := cause, tval := tval, index := index, since := cyc, resume := resume } }

/-- The entry at the head stops before any word of it takes effect. -/
def stopHead (s : State) (id : CoreId) (e : Eng) (cause : BitVec 8) (tval : Word) (resume : Resume) : State :=
  modQueue s id e fun q => stopWith s.cyc.toNat cause tval q.headIdx resume (backToStart q)

/-- R349: the class 3 record of a poison consumed by an entry; `va` and `pa` are the address of the marked word (0: none). -/
def logEntryPoison (s : State) (id : CoreId) (e : Eng) (index : BitVec 16) (pa : Nat) (va : Word) : State :=
  logConsumed s id (engCode e + 3) (0x10 + engCode e) (some (engCode e * 2 ^ 16 + index.toNat)) 0 pa va

/-- R9, R345: the entry at the head stops at a poisoned word of the parameter stack, which has no address: TVAL has bit 63 alone
(DESIGN CHOICE, log 144). -/
def stopMarked (s : State) (id : CoreId) (e : Eng) : State :=
  stopHead (logEntryPoison s id e (queueOf s id e).headIdx 0 0) id e cPOISON 0x8000000000000000#64 .fresh

/-- Some of the n top words of the parameter stack is poisoned. -/
def marked (q : Queue) (n : Nat) : Bool := q.set.marks.toNat % 2 ^ n ≠ 0

/-- R212: up to four non-launch words run in a cycle. -/
def wordSlot (now : Nat) (q : Queue) : Option (Nat × Nat) :=
  if q.wordAt.1 ≠ now then some (now, 1) else if q.wordAt.2 < 4 then some (now, q.wordAt.2 + 1) else none

/-- A word that is not a launch word: the entries it needs, how many of them it consumes, whether it pushes, and what it does
(R64, R210). -/
def engWord (i : Instr) (need eats : Nat) (push : Bool) (act : Queue → Queue) (s : State) : State :=
  let id := s.cur.core
  let q := beginEntry (queueOf s id s.curEng)
  if q.stop.isSome || q.entry.isSome then s
  else if q.set.stack.length < need then
    stopHead (setQueue s id s.curEng q) id s.curEng cENGERR (engTval (word16 i) q.pos 5) .fresh
  else if push && 8 ≤ q.set.stack.length then
    stopHead (setQueue s id s.curEng q) id s.curEng cENGERR (engTval (word16 i) q.pos 4) .fresh
  else if marked q eats then stopMarked (setQueue s id s.curEng q) id s.curEng
  else match wordSlot s.cyc.toNat q with
    | none => s
    | some w => setQueue s id s.curEng { act q with pos := q.pos + 1, wordAt := w }

/-- A change of the parameter stack and of its marks. -/
def onStack (f : List Word → List Word) (g : BitVec 8 → BitVec 8) (q : Queue) : Queue :=
  { q with set := { q.set with stack := f q.set.stack, marks := g q.set.marks } }

/-- The top of the stack is popped and given to f. -/
def popTop (f : Word → Queue → Queue) (q : Queue) : Queue :=
  match q.set.stack with
  | v :: _ => f v (onStack List.tail (· >>> 1) q)
  | [] => q

/-- R63: LIT. -/
def execLit (i : BitVec 14) (s : State) : Host.Outcome State Fault Refusal :=
  .next (engWord (.lit i) 0 0 true (onStack (fun st => i.setWidth 64 :: st) (· <<< 1)) s)

/-- R63: EXT. -/
def execExt (i : BitVec 14) (s : State) : Host.Outcome State Fault Refusal :=
  .next (engWord (.ext i) 1 0 false (onStack (fun st => match st with
    | v :: t => (v <<< 14 ||| i.setWidth 64) :: t
    | [] => []) id) s)

/-- R64: NOP. -/
def execNop (s : State) : Host.Outcome State Fault Refusal := .next (engWord .nop 0 0 false id s)

/-- R64: DUP. -/
def execDup (s : State) : Host.Outcome State Fault Refusal :=
  .next (engWord .dup 1 0 true (onStack (fun st => st.take 1 ++ st) fun m => m <<< 1 ||| m &&& 1) s)

/-- R64: DROP. -/
def execDrop (s : State) : Host.Outcome State Fault Refusal :=
  .next (engWord .drop 1 0 false (onStack List.tail (· >>> 1)) s)

/-- R64: SWAP. -/
def execSwap (s : State) : Host.Outcome State Fault Refusal :=
  .next (engWord .swap 2 0 false (onStack (fun st => match st with
    | b :: a :: t => a :: b :: t
    | l => l) fun m => (m &&& 0xFC) ||| (m &&& 1) <<< 1 ||| (m >>> 1) &&& 1) s)

/-- R64: OVER. -/
def execOverW (s : State) : Host.Outcome State Fault Refusal :=
  .next (engWord .overW 2 0 true (onStack (fun st => match st with
    | b :: a :: t => a :: b :: a :: t
    | l => l) fun m => m <<< 1 ||| (m >>> 1) &&& 1) s)

/-- R64: ROT, a b c to b c a. -/
def execRot (s : State) : Host.Outcome State Fault Refusal :=
  .next (engWord .rot 3 0 false (onStack (fun st => match st with
    | c :: b :: a :: t => a :: c :: b :: t
    | l => l) fun m => (m &&& 0xF8) ||| (m &&& 3) <<< 1 ||| (m >>> 2) &&& 1) s)

/-- R210: WAITK. -/
def execWaitk (k : BitVec 5) (s : State) : Host.Outcome State Fault Refusal :=
  .next (engWord (.waitk k) 1 1 false (popTop fun v q => { q with waitks := q.waitks ++ [(k, v)] }) s)

/-- R210: SIGK. -/
def execSigk (k : BitVec 5) (s : State) : Host.Outcome State Fault Refusal :=
  .next (engWord (.sigk k) 0 0 false (fun q => { q with sigks := q.sigks ++ [k] }) s)

/-- R210: PRED. -/
def execPred (s : State) : Host.Outcome State Fault Refusal :=
  .next (engWord .pred 1 1 false (popTop fun v q => { q with set := { q.set with latch := v != 0 } }) s)

/-- R210: AT; a later value applies. -/
def execAtSlot (s : State) : Host.Outcome State Fault Refusal :=
  .next (engWord .atSlot 1 1 false (popTop fun v q => { q with slot := some v }) s)

/-- R215: NSEL. -/
def execNsel (u v : BitVec 3) (s : State) : Host.Outcome State Fault Refusal :=
  .next (engWord (.nsel u v) 0 0 false (fun q => { q with set := { q.set with up := u, down := v } }) s)

/-- R210: MARK. No field of an error record holds it (R351: DESIGN CHOICE, log 143). -/
def execMark (m : BitVec 10) (s : State) : Host.Outcome State Fault Refusal :=
  .next (engWord (.mark m) 0 0 false (fun q => { q with set := { q.set with mark := m } }) s)

/-- What a launch raises at the cycle in which its conditions hold. -/
inductive Bad where
  | engerr (sub : Nat)
  | trap (cause : BitVec 8) (tval : Word)
  deriving DecidableEq, Repr

/-- How the effect of a launch ends. -/
inductive Run where
  | done (s : State) (flags : Word)
  | stop (s : State) (en : Entry) (cause : BitVec 8) (tval : Word) (resume : Resume)
  | wait (s : State) (en : Entry)

/-- A launch word: its queue, code and pops, its tile-state conditions, the checks at its start, the tiles it
moves, its occupancy, the cycles from there to its completion, its charge weight and what it draws cycle by cycle where that is less
(R413), its ESEL code with
the events it counts, the banks whose verdict it waits for (R352), its effect, and what of it is committed later (R251). -/
structure WordSpec where
  eng : Eng
  opc : Nat
  pops : Nat
  src : Nat
  conds : State → CoreId → List Word → Bool := fun _ _ _ => true
  check : State → CoreId → Entry → Option Bad := fun _ _ _ => none
  acts : State → CoreId → List Word → List (CoreId × BitVec 6 × TileAct) := fun _ _ _ => []
  dur : State → CoreId → List Word → Nat
  tail : State → CoreId → List Word → Nat := fun _ _ _ => 0
  weight : State → CoreId → List Word → Nat
  draws : State → CoreId → List Word → List Nat := fun _ _ _ => []
  late : State → CoreId → Entry → Option Late := fun _ _ _ => none
  banks : List Word → List Nat := fun _ => []
  cnt : State → CoreId → List Word → Nat := fun _ _ _ => 1
  run : State → CoreId → Entry → Run

/-- Tile actions at the start of a word and at its completion (R173). -/
def tileStart (a : TileAct) (t : Tile) : Tile :=
  match a with
  | .filled => { t with st := .filling }
  | .drained _ => { t with st := .draining }
  | .readDone => { t with readers := t.readers + 1 }
  | .writeDone => { t with writers := t.writers + 1 }

/-- A drained tile becomes EMPTY when no word that reads it is running. -/
def settleTile (t : Tile) : Tile :=
  if t.drained && t.readers = 0 then { t with st := .empty, drained := false } else t

def tileEnd (a : TileAct) (t : Tile) : Tile :=
  match a with
  | .filled => { t with st := .ready }
  | .drained keep => if keep then { t with st := .ready } else settleTile { t with drained := true }
  | .readDone => settleTile { t with readers := t.readers - 1 }
  | .writeDone => { t with writers := t.writers - 1 }

def tilesDo (f : TileAct → Tile → Tile) (s : State) (l : List (CoreId × BitVec 6 × TileAct)) : State :=
  l.foldl (fun s a => modTile s a.1 a.2.1 (f a.2.2)) s

/-- R214: tokens of the FIFO from one engine to another. -/
def fifoOf (s : State) (id : CoreId) (a b : Eng) : Nat := mget 0 (coreOf s id).fifos (fifoKey a b)
def modFifo (s : State) (id : CoreId) (a b : Eng) (f : Nat → Nat) : State :=
  modCore s id fun c => { c with fifos := mmod 0 c.fifos (fifoKey a b) f }

/-- The neighbours a launch word pops from and pushes to, under the engine's settings. -/
def neighbours (q : EngSet) (up down : Bool) : List Eng :=
  (if up then (engOfCode q.up.toNat).toList else []) ++ (if down then (engOfCode q.down.toNat).toList else [])

/-- R212: every token an entry consumes is there; one FIFO named twice needs two. -/
def tokensThere (s : State) (id : CoreId) (e : Eng) (ns : List Eng) : Bool :=
  ns.all fun a => (ns.filter fun b => b = a).length ≤ fifoOf s id a e

/-- R135: a context began to wait on a semaphore of the entry before it did, and its wait holds. -/
def semAhead (s : State) (id : CoreId) (q : Queue) : Bool :=
  q.waitks.any fun w => allKinds.any fun k =>
    let c := ctxOf s ⟨id, k⟩
    match c.wait with
    | some ⟨.kwait n a, _, t⟩ =>
      n = w.1 && (q.waitTicket = 0 || t + 1 < q.waitTicket) && c.run = .running && !c.held &&
        (readX c a).val.toNat ≤ (semOf s id n).count.toNat
    | _ => false

/-- R212: every recorded WAITK holds. -/
def waitksHold (s : State) (id : CoreId) (q : Queue) : Bool :=
  q.waitks.all fun w => w.2.toNat ≤ (semOf s id w.1).count.toNat

/-- R417: the weights of the entries of a core that run, that in progress among them. -/
def runningWeight (s : State) (id : CoreId) : Nat :=
  (allEngs.map fun e =>
    let q := queueOf s id e
    (q.running.map fun r => if s.cyc.toNat < r.doneAt then r.weight else 0).sum +
      (match q.entry with | some en => if q.stop.isNone then en.weight else 0 | none => 0)).sum

/-- R414: another entry of the cluster waits on charge ahead of this one. -/
def chargeAhead (s : State) (id : CoreId) (e : Eng) (since : Nat) : Bool :=
  (List.range 4).any fun r => allEngs.any fun g =>
    match (queueOf s (coreAt (CoreId.cl id) r) g).charge with
    | some (t, _) => (r ≠ id.rank || g ≠ e) &&
        (t < since || (t = since && (r < id.rank || (r = id.rank && engCode g < engCode e))))
    | none => false

/-- What the start of a launch comes to; a wait is `on` a token, a semaphore, a tile, the lease or its slot (R209), or for the
engine alone. -/
inductive Start where
  | wait (on tile : Bool)
  | charge (weight : Nat)
  | stop (cause : BitVec 8) (tval : Word)
  | go (at' : Nat) (region : Option Int)

/-- R224: SCHED's TVAL. -/
def schedTval (sub : Nat) (slot : Option Word) : Word :=
  BitVec.ofNat 64 (sub + (match slot with | some c => c.toNat % 2 ^ 14 * 2 ^ 32 | none => 0))

/-- R224 subcause 3. -/
def slotBad (s : State) (id : CoreId) (e : Eng) (q : Queue) (c : Word) : Bool :=
  e = .ld || e = .st || e = .cp || !holdsLease s id || 16384 ≤ c.toNat ||
    (match q.lastSlot with | some p => c.toNat < p | none => false)

/-- R212: the oldest entry waits at its completion on a full FIFO. -/
def completionHeld (s : State) (id : CoreId) (e : Eng) (q : Queue) : Bool :=
  match q.running with
  | r :: _ => r.completeAt ≤ s.cyc.toNat && pushBlocked (coreOf s id) e r
  | [] => false

/-- R222: an exhausted lease ends before the next launch. -/
def leaseSpent (s : State) (id : CoreId) : Bool :=
  let cl := clusOf s (CoreId.cl id)
  holdsLease s id && (64 ≤ cl.leaseLaunches || cl.leaseAt + 16384 ≤ s.cyc.toNat)

/-- R352, R353: a failed verdict of a bank that an entry reads holds it back. -/
def verdictHeld (s : State) (id : CoreId) (r : Running) : Bool :=
  r.banks.any fun b => (clusOf s (CoreId.cl id)).array.verdictFail.getLsbD b

/-- The engine can start a launch: the array may hold up to four entries that await completion (R243), none of them
held there, no failed verdict among them (R353), under a lease that is not used up; any other engine has retired the entry before, or retires it in this cycle
(R224). The last non-launch word ran in an earlier cycle (R212). -/
def engineFree (s : State) (id : CoreId) (e : Eng) (q : Queue) : Bool :=
  let now := s.cyc.toNat
  q.lastEnd ≤ now && (q.pos = 0 || q.wordAt.1 < now) &&
    (if e = .mx then
      q.running.length < 4 && q.running.all (fun r => r.doneAt ≤ now && !verdictHeld s id r) && !completionHeld s id e q && !leaseSpent s id
    else q.running.all (fun r => r.completeAt ≤ now) && !completionHeld s id e q)

/-- R212, R223, R224, R414, R417: whether the launch at the head starts; a timed one starts exactly at its slot. One that is
nullified raises nothing (R213) and starts late instead. -/
def startOf (s : State) (id : CoreId) (L : WordSpec) (q : Queue) (ns : List Eng) (ops : List Word) (null : Bool) : Start :=
  let now := s.cyc.toNat
  let tiles := L.conds s id ops
  let conds : Bool := waitksHold s id q && !semAhead s id q && tokensThere s id L.eng ns && tiles && (L.eng ≠ .mx || holdsLease s id)
  let w := L.weight s id ops
  let cl := clusOf s (CoreId.cl id)
  let lvl := (coreOf s id).plevel.toNat
  let sum := runningWeight s id + w
  let charged : Bool := lvl ≠ 0 ||
    ((64 * w : Nat) ≤ cl.level && !chargeAhead s id L.eng (match q.charge with | some c => c.1 | none => now))
  let go (r : Option Int) : Start :=
    if lvl ≠ 0 && lvl < sum && !null then .stop cCURRENT (BitVec.ofNat 64 ((coreOf s id).pdecl.toNat + Nat.min sum 255 * 256)) else .go now r
  let soon (r : Option Int) : Start :=
    if !(conds && engineFree s id L.eng q) then .wait (!conds) (!tiles)
    else if !charged then .charge w else go r
  match q.slot with
  | none => soon none
  | some c =>
    let first : Option Int := if holdsLease s id then some ((now : Int) - c.toNat) else none
    if q.untimed then soon first
    else if slotBad s id L.eng q c then (if null then soon none else .stop cSCHED (schedTval 3 q.slot))
    else match cl.region with
    | none => soon first
    | some b =>
      let t : Int := b + c.toNat
      if (now : Int) < t then .wait true (!tiles)
      else if t < (q.headSince : Int) && !null then .stop cSCHED (schedTval 2 q.slot)
      else if t = (now : Int) && conds && engineFree s id L.eng q && charged then go none
      else if null then soon none
      else .stop cSCHED (schedTval 1 q.slot)

/-- R219: the window after an entry has started; a TS launch restarts it. -/
def windowAdd (q : Queue) (ts : Bool) (en : Entry) : List WinEntry :=
  if ts then [{ entry := en }] else q.window ++ [{ entry := en }]

/-- R186, R212, R219, R222, R223: the launch at the head starts, after what an edge that it waited for carries. The word slots of its entry are free from here on (DESIGN CHOICE, log
145). -/
def startLaunch (s : State) (id : CoreId) (L : WordSpec) (f : BitVec 6) (ns : List Eng) (en : Entry) (region : Option Int) : State :=
  let s1 := ns.foldl (fun s a => modFifo s id a L.eng (· - 1)) s
  let s2 := modQueue s1 id L.eng fun q =>
    let stack := q.set.stack.drop L.pops
    { q with
      words := dropEntry q.words
      headIdx := q.headIdx + 1
      pos := 0
      set := { q.set with stack := stack, marks := q.set.marks >>> L.pops }
      headSince := if (dropEntry q.words).any (fun w => isLaunch w.w) then en.startAt else q.headSince
      lastStart := some (en.index, en.opc, en.ops.getLastD 0, en.startAt)
      lastSlot := match q.slot with | some c => (if L.eng = .mx || L.eng = .vx || L.eng = .rw then some c.toNat else q.lastSlot) | none => q.lastSlot
      untimed := false
      waiting := false
      tileSince := none
      waitTicket := 0
      charge := none
      pts := if ns.isEmpty && q.waitks.isEmpty && en.tiles.isEmpty then q.pts
        else Nat.max q.pts (Nat.max (coreOf s1 id).engWts (coreOf s1 id).sigPts)
      window := windowAdd q (lfTs f) en
      winStack := if lfTs f then q.set0.stack else q.winStack
      replays := if lfTs f then 0 else q.replays }
  let s3 := match region with
    | some b => modClus s2 (CoreId.cl id) fun cl => { cl with region := some b }
    | none => s2
  let s4 := if L.eng = .mx then modClus s3 (CoreId.cl id) fun cl => { cl with leaseLaunches := cl.leaseLaunches + 1 } else s3
  let s5 := if L.eng = .mx && lfTs f then modCore s4 id fun c => { c with shadow := some (clusOf s4 (CoreId.cl id)).array } else s4
  tilesDo tileStart (count s5 id L.src (L.cnt s id en.ops) en.modes.super) en.tiles

/-- R233: an entry that waits for room, and one that has it again: the cycles between count as its own. -/
def Entry.stall (en : Entry) (now : Nat) : Entry := { en with since := some (en.since.getD now) }
def Entry.unstall (en : Entry) (now : Nat) : Entry :=
  match en.since with
  | some t => { en with since := none, waited := en.waited + (now - t) }
  | none => en

/-- R212, R233: the effect is complete: the entry awaits the end of its occupancy, `dur` cycles from its start, and
its completion `tail` cycles later. -/
def toRunning (s : State) (id : CoreId) (L : WordSpec) (en : Entry) (flags : Word) (dur tail : Nat) : State :=
  modQueue s id L.eng fun q =>
    let doneAt := Nat.max (en.startAt + dur + (en.unstall s.cyc.toNat).waited)
      (if en.prog = 0 && en.kept.isEmpty && en.given = 0 then 0 else s.cyc.toNat)
    { q with
      entry := none
      waiting := false
      lastEnd := doneAt
      sigks := []
      waitks := []
      slot := none
      running := q.running ++ [{
        index := en.index, opc := en.opc, startAt := en.startAt, doneAt := doneAt,
        completeAt := doneAt + tail, weight := en.weight, flags := flags,
        pushes := neighbours q.set (lfSu en.lf) (lfSd en.lf), sigks := q.sigks, tiles := en.tiles,
        banks := if en.nullified then [] else L.banks en.ops
        draws := if en.nullified then [] else L.draws s id en.ops
        late := if en.nullified then none else L.late s id en }] }

/-- R307, R312: the trap of a launch at its start; a poisoned word writes its record. -/
def logBad (s : State) (id : CoreId) (e : Eng) (index : BitVec 16) (cause : BitVec 8) (tval : Word) : State :=
  if cause = cPOISON then logEntryPoison s id e index 0 (tval &&& 0x7FFFFFFFFFFFFFFF#64) else s

/-- R344: a record of an engine's check, residue or parity prediction as a free value has it: its SEQ and its code. -/
def logMismatch (s : State) (id : CoreId) (e : Eng) (sev : Nat) (index : BitVec 16) : Nat × Nat × State :=
  let ecc := if Config.freeBool s.tick then 4 else 3
  let r := logErr { s with tick := s.tick + 2 } (unitRec s id
    { cls := 2, sev := sev, kind := engCode e + 3, unit := partUnit id (engCode e + 3), die := id.die,
      ecc := ecc, synd := (Config.freeWord s.tick).toNat % 2 ^ 32,
      ctx := 0x10 + engCode e, entry := some (engCode e * 2 ^ 16 + index.toNat) })
  (r.1, ecc, r.2)

/-- R344: an engine other than the array whose check failed three times stops at the entry, the failing piece unwritten; a test of it
is due, which the record of the mismatch triggered (R357). -/
def stopMismatch (s : State) (id : CoreId) (e : Eng) (en : Entry) : State :=
  let r := logMismatch s id e 4 en.index
  let s1 := modDie r.2.2 id.die fun d => { d with due := d.due ++ [(.engine id e, BitVec.ofNat 32 r.1, r.2.1)] }
  modQueue s1 id e fun q =>
    stopWith s.cyc.toNat cREPLAYX (BitVec.ofNat 64 r.1) en.index .replay { q with entry := some en, mismatch := false }

/-- Run a started launch, or go on with it. A stop that leaves only the completion (BREAKDOWN) is raised, and
ends the occupancy, `prog` cycles from the start (R273, R276). -/
def runEntry (s : State) (id : CoreId) (L : WordSpec) (en : Entry) : State :=
  let dur := L.dur s id en.ops
  let tail := L.tail s id en.ops
  if en.nullified then toRunning s id L en 0 dur tail
  else if (queueOf s id L.eng).mismatch then stopMismatch s id L.eng en
  else match L.run s id en with
    | .done s1 flags => toRunning s1 id L en (en.flags ||| flags) dur tail
    | .wait s1 en1 => modQueue s1 id L.eng fun q => { q with entry := some en1, waiting := false }
    | .stop s1 en1 cause tval resume =>
      if resume = .completeOnly then
        modQueue (toRunning s1 id L { en1 with prog := 0 } en1.flags en1.prog 0) id L.eng
          (stopWith (en.startAt + en1.prog) cause tval en.index resume)
      else
        let s2 := if cause = cPAGE || cause = cPROT then count s1 id 0x46 1 en.modes.super else s1
        modQueue s2 id L.eng fun q => stopWith s.cyc.toNat cause tval en.index resume { q with entry := some en1 }

/-- R222: a parked array comes back under the next lease. -/
def restoreArray (s : State) (id : CoreId) : State :=
  if holdsLease s id && (coreOf s id).unpark then
    modCore (modClus s (CoreId.cl id) fun cl => { cl with array := (coreOf s id).park }) id fun c =>
      { c with revk := false, unpark := false }
  else s

/-- R222: what happens on the array's side before an MX launch is considered. -/
def beforeMx (s : State) (id : CoreId) : State :=
  restoreArray (if leaseSpent s id && (coreOf s id).qMx.running.isEmpty then exhaustLease s id else s) id

/-- An entry in progress goes on; one of the array's only under a lease (R221). -/
def goOnEntry (s : State) (id : CoreId) (L : WordSpec) (en : Entry) : State :=
  if L.eng ≠ .mx then runEntry s id L en
  else
    let s1 := restoreArray s id
    if holdsLease s1 id then runEntry s1 id L en else s1

/-- R135, R212: the launch at the head waits; the place of its wait on a semaphore stands from its first try. -/
def launchWait (s : State) (id : CoreId) (e : Eng) (q : Queue) (on tile : Bool) : State :=
  let rank : Bool := q.waitTicket = 0 && !waitksHold s id q
  setQueue (if rank then { s with ticket := s.ticket + 1 } else s) id e
    { q with
      waiting := on
      charge := none
      waitTicket := if rank then s.ticket + 1 else q.waitTicket
      tileSince := if tile then some (q.tileSince.getD s.cyc.toNat) else none }

/-- R213: a predicated launch is nullified when the latch is 0. -/
def isNullified (f : BitVec 6) (q : Queue) : Bool := lfPr f && !q.set.latch

/-- R212: A LAUNCH WORD at the head of its queue, or in progress. -/
def launchWord (i : Instr) (L : WordSpec) (f : BitVec 6) (s0 : State) : State :=
  let id := s0.cur.core
  let q0 := queueOf s0 id L.eng
  if q0.stop.isSome then s0
  else match q0.entry with
  | some en => if en.opc.toNat = L.opc then goOnEntry s0 id L en else s0
  | none =>
    let s := if L.eng = .mx then beforeMx s0 id else s0
    let q := beginEntry (queueOf s id L.eng)
    let s1 := setQueue s id L.eng q
    let null := isNullified f q
    if (coreOf s id).leaseDue && L.eng = .mx && !null then
      stopHead (modCore s1 id fun c => { c with leaseDue := false }) id L.eng cLEASE 2 .fresh
    else if q.set.stack.length < L.pops then
      stopHead s1 id L.eng cENGERR (engTval (word16 i) q.pos 5) .fresh
    else if marked q L.pops && !null then stopMarked s1 id L.eng
    else
      let ops := (q.set.stack.take L.pops).reverse
      let ns := neighbours q.set (lfPu f) (lfPd f)
      match startOf s1 id L q ns ops null with
      | .stop cause tval => stopHead s1 id L.eng cause tval (if cause = cSCHED then .untimed else .fresh)
      | .wait on tile => launchWait s1 id L.eng q on tile
      | .charge w =>
        setQueue s1 id L.eng
          { q with
            waiting := false
            tileSince := none
            charge := some ((q.charge.map (·.1)).getD s.cyc.toNat, w) }
      | .go t region =>
        let en : Entry :=
          { opc := BitVec.ofNat 7 L.opc, lf := f, nullified := null, ops := ops, prog := 0, flags := 0,
            modes := ((q.words[q.pos]?).map (·.modes)).getD {}
            weight := L.weight s1 id ops, stack0 := q.set0.stack, marks0 := q.set0.marks, index := q.headIdx, startAt := t, pos := q.pos,
            arrived := ((q.words[q.pos]?).map (·.came)).getD 0, after := q.lastStart }
        let bad := L.check s1 id en
        match en.nullified, bad with
        | false, some (.engerr n) => stopHead s1 id L.eng cENGERR (engTval (word16 i) q.pos n) .fresh
        | false, some (.trap c v) =>
          stopHead (logBad s1 id L.eng q.headIdx c v) id L.eng c v (if c = cSCHED then .untimed else .fresh)
        | _, _ =>
          let en1 := { en with tiles := if bad.isSome then [] else L.acts s1 id ops }
          runEntry (startLaunch s1 id L f ns en1 region) id L en1

/-- R185: what an entry that completes hands on: a token, a count or the state of a tile. -/
def hasEdge (r : Running) : Bool := !(r.pushes.isEmpty && r.sigks.isEmpty && r.tiles.isEmpty)

/-- R185, R186: before an edge leaves an entry, what its engine has stored in the L1 stands at the home slices, and who goes on comes
after what it has done. -/
def edgeOut (s : State) (id : CoreId) (e : Eng) (r : Running) : State :=
  if hasEdge r then
    modCore (if e = .st then writeOut s id engWriter true else s) id fun c => { c with engWts := Nat.max c.engWts (queueIn e c).pts }
  else s

/-- R212, R214, R218, R124: THE COMPLETION of the oldest launch of a queue. -/
def completeEntry (s0 : State) (id : CoreId) (e : Eng) (r : Running) : State :=
  let s := edgeOut s0 id e r
  let s1 := modCtx s ⟨id, feederOf e⟩ fun c => { c with fctl := c.fctl ||| r.flags }
  let s2 := r.pushes.foldl (fun s t => modFifo s id e t (· + 1)) s1
  let s3 := r.sigks.foldl (fun s k => modSem s id k (semAdd 1)) s2
  let s4 := if r.sigks.isEmpty then s3 else setLatches s3 id
  let s5 := tilesDo tileEnd s4 r.tiles
  modQueue s5 id e fun q => { q with running := q.running.tail }

/-- R220, R333: a replay of the queue's window is not over. -/
def replaying (q : Queue) : Bool := q.redo || q.redoFrom.isSome

/-- R212, R243, R352: the oldest entry of a queue can complete. -/
def canComplete (s : State) (id : CoreId) (e : Eng) (r : Running) : Bool :=
  let q := queueOf s id e
  r.completeAt ≤ s.cyc.toNat && r.late.isNone && !replaying q && (match q.stop with | some t => t.index ≠ r.index | none => true) &&
    !verdictHeld s id r && !pushBlocked (coreOf s id) e r

/-- Run f with the engine of a core moving, then put the mover back. -/
def asEng (s : State) (id : CoreId) (e : Eng) (f : State → State) : State :=
  { f { s with cur := ⟨id, feederOf e⟩, curEng := e } with cur := s.cur, curEng := s.curEng }

end Sys2Proof.Machine
end

