-- ==== Sys2Proof/Machine/Tiles.lean ====
section
/-!
DEFINITION. Elements of tiles and of memory regions as the engines move them: rows of bytes with their
marks, codes, block scales, conversion and transposition (02 R48; 04 R73-R90; 07 R157, R161; 08 R199).
-/
namespace Sys2Proof.Machine

/-- The bytes of a store with the mark of the 4-byte word that holds each. -/
def bytesIn (m : SMap Byte) (p : SMap Bool) (a n : Nat) : List Pz :=
  (List.range n).map fun k => ((mget 0 m (a + k)).toNat, mget false p ((a + k) / 4))

/-- Write bytes with their poison, 4-byte word by word, by the writer given. -/
def putWords (wr : State → Nat → List Byte → Bool → State) : Nat → State → Nat → List Pz → State
  | 0, s, _, _ => s
  | fuel + 1, s, a, bs =>
    if bs.isEmpty then s
    else if bs.all fun b => !b.2 then wr s a (bs.map fun b => BitVec.ofNat 8 b.1) false
    else
      let n := 4 - a % 4
      let h := bs.take n
      putWords wr fuel (wr s a (h.map fun b => BitVec.ofNat 8 b.1) (h.any (·.2))) (a + n) (bs.drop n)

/-- A block-scaled format keeps its scales apart; a code of a scaled element comes with its scale. -/
structure Elt where
  code : Nat
  sc : Nat := 0
  poison : Bool := false
  deriving DecidableEq, Repr, Inhabited

/-- The value of element (i, j) (R70-R76). -/
def eltNum (fmt : BitVec 4) (ftz : Bool) (i j : Nat) (e : Elt) : Num :=
  if isSq fmt then sqValue fmt (BitVec.ofNat 16 e.sc) (i % 4) (j % 4) e.code
  else if fmt = 5 then mxValue e.sc e.code
  else decElt fmt ftz e.code

/-- Cut n codes of a format out of the bytes of a row. -/
def codesOf (fmt : BitVec 4) (bs : List Pz) (n : Nat) : List Pz :=
  let w := eltBits fmt
  if w < 8 then
    (List.range n).map fun j =>
      let b := bs.getD (j * w / 8) (0, false)
      (b.1 / 2 ^ (j * w % 8) % 2 ^ w, b.2)
  else
    (List.range n).map fun j =>
      let f := (bs.drop (j * (w / 8))).take (w / 8)
      (leNat (f.map fun b => BitVec.ofNat 8 b.1), f.any (·.2))

/-- Pack codes of a format into the bytes of a row. -/
def packRow (fmt : BitVec 4) (cs : List Pz) : List Pz :=
  let w := eltBits fmt
  if w < 8 then
    let k := 8 / w
    (List.range ((cs.length + k - 1) / k)).map fun i =>
      let f := (cs.drop (i * k)).take k
      ((f.zipIdx.map fun c => c.1.1 * 2 ^ (c.2 * w)).sum, f.any (·.2))
  else cs.flatMap fun c => (leBytes (w / 8) c.1).map fun b => (b.toNat, c.2)

/-- Rows of codes with the scales of their blocks: block rows of 4 for SQ, of 1 for MXFP4. -/
structure Grid where
  fmt : BitVec 4
  rows : List (List Pz)
  scs : List (List Pz)
  deriving DecidableEq, Repr

/-- Rows and columns of a block. -/
def blkRows (fmt : BitVec 4) : Nat := if isSq fmt then 4 else 1
def blkCols (fmt : BitVec 4) : Nat := if isSq fmt then 4 else if fmt = 5 then 32 else 1
/-- Bytes of a scale. -/
def scBytes (fmt : BitVec 4) : Nat := if isSq fmt then 2 else if fmt = 5 then 1 else 0

/-- Element (i, j) of a grid; a poisoned scale poisons its block (R228). -/
def gridElt (g : Grid) (i j : Nat) : Elt :=
  let c := (g.rows.getD i []).getD j (0, false)
  if isBlocked g.fmt then
    let s := (g.scs.getD (i / blkRows g.fmt) []).getD (j / blkCols g.fmt) (0, false)
    { code := c.1, sc := s.1, poison := c.2 || s.2 }
  else { code := c.1, poison := c.2 }

def gridNum (g : Grid) (ftz : Bool) (i j : Nat) : Num := eltNum g.fmt ftz i j (gridElt g i j)

/-- A conversion's target: its format, the modes, and the address of each element for R86. -/
structure Target where
  fmt : BitVec 4
  rm : BitVec 3
  ftz : Bool
  seed : BitVec 32
  stamp : BitVec 16
  addr : Nat → Nat → Nat

/-- R86: z of element (i, j). -/
def targetZ (t : Target) (i j : Nat) : Nat :=
  if t.rm = 4 then stampZ t.seed (BitVec.ofNat 32 (t.addr i j)) t.stamp else 0

/-- R86: the address of element j of a row that begins at a byte address. -/
def eltAddr (fmt : BitVec 4) (row j : Nat) : Nat :=
  let w := eltBits fmt
  if w < 8 then row * (8 / w) + j else row + j * (w / 8)

/-- An n x m table. -/
def tab {α : Type} (n m : Nat) (f : Nat → Nat → α) : List (List α) :=
  (List.range n).map fun i => (List.range m).map fun j => f i j

/-- Converted elements with the flags set. -/
def orFlags (l : List Word) : Word := l.foldl (· ||| ·) 0

/-- R286: a poisoned value is taken as +0 when its block is quantised. -/
def cleanNum (x : Num × Bool) : Num := if x.2 then .fin false 0 0 else x.1

/-- R89: values (with their poison) to a format without scales; a poisoned element sets no flag (R283). -/
def convPlain (t : Target) (n m : Nat) (v : Nat → Nat → Num × Bool) : Grid × Word :=
  let cells := tab n m fun i j =>
    let x := v i j
    let r := encElt t.fmt t.rm (targetZ t i j) t.ftz x.1
    ((r.1, x.2), if x.2 then 0 else r.2)
  ({ fmt := t.fmt, rows := cells.map fun r => r.map (·.1), scs := [] },
   orFlags (cells.flatMap fun r => r.map (·.2)))

/-- R78: values to an SQ format by 4 x 4 blocks; a poisoned value poisons its block, scale included. -/
def convSq (t : Target) (n m : Nat) (v : Nat → Nat → Num × Bool) : Grid × Word :=
  let blocks := tab (n / 4) (m / 4) fun bi bj =>
    let xs := (List.range 16).map fun k => v (4 * bi + k / 4) (4 * bj + k % 4)
    (sqQuant t.fmt t.rm (fun k => targetZ t (4 * bi + k / 4) (4 * bj + k % 4)) (xs.map cleanNum), xs.any (·.2))
  let at' (i j : Nat) := (blocks.getD i []).getD j ((0, [], 0), false)
  ({ fmt := t.fmt
     rows := tab n m fun i j => let b := at' (i / 4) (j / 4); (b.1.2.1.getD (4 * (i % 4) + j % 4) 0, b.2)
     scs := blocks.map fun r => r.map fun b => (b.1.1.toNat, b.2) },
   orFlags (blocks.flatMap fun r => r.map fun b => b.1.2.2))

/-- R89: values to MXFP4 by runs of 32 of a row. -/
def convMx (t : Target) (n m : Nat) (v : Nat → Nat → Num × Bool) : Grid × Word :=
  let runs := tab n (m / 32) fun i b =>
    let xs := (List.range 32).map fun k => v i (32 * b + k)
    (mxQuant t.rm (fun k => targetZ t i (32 * b + k)) (xs.map cleanNum), xs.any (·.2))
  let at' (i j : Nat) := (runs.getD i []).getD j ((0, [], 0), false)
  ({ fmt := 5
     rows := tab n m fun i j => let b := at' i (j / 32); (b.1.2.1.getD (j % 32) 0, b.2)
     scs := runs.map fun r => r.map fun b => (b.1.1, b.2) },
   orFlags (runs.flatMap fun r => r.map fun b => b.1.2.2))

/-- R89: values to any format. -/
def convTo (t : Target) (n m : Nat) (v : Nat → Nat → Num × Bool) : Grid × Word :=
  if isSq t.fmt then convSq t n m v else if t.fmt = 5 then convMx t n m v else convPlain t n m v

/-- An element of the block of (i, j) is poisoned. -/
def blockPoison (g : Grid) (i j : Nat) : Bool :=
  let h := blkRows g.fmt
  let w := blkCols g.fmt
  (List.range (h * w)).any fun k => (gridElt g (i / h * h + k / w) (j / w * w + k % w)).poison

/-- R89: an SQ grid to another SQ format under its kept scales; a zero or NaN block changes no value. -/
def resizeSq (t : Target) (n m : Nat) (g : Grid) : Grid × Word :=
  let cells := tab n m fun i j =>
    let e := gridElt g i j
    let r := sqResize g.fmt t.fmt t.rm (targetZ t i j) (if e.poison then 0 else e.code)
    ((r.1, blockPoison g i j), if e.sc % 256 = 0 || e.sc % 256 = 255 then 0 else r.2)
  ({ fmt := t.fmt, rows := cells.map fun r => r.map (·.1),
     scs := g.scs.zipIdx.map fun r => r.1.zipIdx.map fun c => (c.1.1, c.1.2 || blockPoison g (4 * r.2) (4 * c.2)) },
   orFlags (cells.flatMap fun r => r.map (·.2)))

/-- R80: an SQ grid of n x m transposed to m x n. -/
def transSq (n m : Nat) (g : Grid) : Grid :=
  { fmt := g.fmt
    rows := tab m n fun i j => (g.rows.getD j []).getD i (0, false)
    scs := tab (m / 4) (n / 4) fun i j =>
      let s := (g.scs.getD j []).getD i (0, false)
      ((sqTransScale (BitVec.ofNat 16 s.1)).toNat, s.2) }

/-- R81, R85: a clean value of a transposed MXFP4 tile changed. -/
def changed (n m : Nat) (a : Nat → Nat → Num × Bool) (b : Nat → Nat → Num) : Bool :=
  (List.range n).any fun i => (List.range m).any fun j =>
    !((a i j).2 || numEq (a i j).1 (b i j) || (numIsNan (a i j).1 && numIsNan (b i j)))

/-- R228, R81, R80, R89: an n x m grid moved to a format, transposed or not; the result is m x n when
transposed. -/
def moveGrid (t : Target) (trans : Bool) (n m : Nat) (g : Grid) : Grid × Word :=
  let v (i j : Nat) : Num × Bool :=
    let e := if trans then gridElt g j i else gridElt g i j
    (if trans then eltNum g.fmt t.ftz j i e else eltNum g.fmt t.ftz i j e, e.poison)
  let n' := if trans then m else n
  let m' := if trans then n else m
  if isSq g.fmt then
    let g1 := if trans then transSq n m g else g
    if t.fmt = g.fmt then (g1, 0)
    else if isSq t.fmt then resizeSq t n' m' g1
    else convTo t n' m' v
  else if t.fmt = g.fmt then
    if !trans then (g, 0)
    else if g.fmt = 5 then
      let r := convMx { t with rm := 0 } n' m' v
      (r.1, r.2 ||| flagIf (changed n' m' v (gridNum r.1 false)) flNX)
    else ({ fmt := g.fmt, rows := tab n' m' fun i j => (g.rows.getD j []).getD i (0, false), scs := [] }, 0)
  else convTo t n' m' v

/-- R286, R306: every block with a poisoned element is poisoned whole, its scale included. -/
def poisonWhole (g : Grid) : Grid :=
  { g with
    rows := g.rows.zipIdx.map fun r => r.1.zipIdx.map fun c => (c.1.1, blockPoison g r.2 c.2)
    scs := g.scs.zipIdx.map fun r => r.1.zipIdx.map fun c => (c.1.1, blockPoison g (blkRows g.fmt * r.2) (blkCols g.fmt * c.2)) }

/-- R306, R231, R89: a conversion's result as a grid and the flags. A source without blocks is converted even to its own
format; SQ to its own format keeps its blocks, and so does MXFP4 (R89 gives no rule from MX). -/
def cvMove (trans : Bool) (t : Target) (n m : Nat) (g : Grid) : Grid × Word :=
  if !trans && isBlocked g.fmt && t.fmt = g.fmt then (poisonWhole g, 0)
  else if trans || isBlocked g.fmt || t.fmt ≠ g.fmt then moveGrid t trans n m g
  else convTo t n m fun i j => (gridNum g t.ftz i j, (gridElt g i j).poison)

/-- The stash bytes [off, off + n) of a core with their marks. -/
def stashPz (c : Core) (off n : Nat) : List Pz := bytesIn c.stash c.stashPoison off n

/-- Offsets within a tile: row i, and the scale of block (bi, bj) (R48, R77, R74). -/
def tileRow (t : Tile) (i : Nat) : Nat := t.base.toNat + i * tilePitch t
def tileScale (t : Tile) (bi bj : Nat) : Nat :=
  t.base.toNat + tileRows t * tilePitch t + scBytes t.fmt * (bi * (tileCols t / blkCols t.fmt) + bj)

/-- R153, R86: the stash address of element (i, j) of a tile. -/
def tileAddr (id : CoreId) (t : Tile) (i j : Nat) : Nat := eltAddr t.fmt (id.rank * 2 ^ 21 + tileRow t i) j

/-- R161: where an access of an engine stops: the state, the trap, and of the step that it stops in the bytes that were read
and how many were written; a pause has no trap (R300). -/
structure Halt where
  s : State
  cause : BitVec 8
  tval : Word
  kept : List Pz := []
  given : Nat := 0
  pause : Bool := false

/-- R161: a step of an entry under way. `kept` are bytes that an earlier attempt read and `skip` counts those that it wrote,
which are not repeated; `got` and `put` are what this attempt has come to. -/
structure Part where
  s : State
  kept : List Pz := []
  got : List Pz := []
  skip : Nat := 0
  put : Nat := 0

/-- The step stops at a fault. -/
def Part.halt (p : Part) (s : State) (e : BitVec 8 × Word) : Halt := { s := s, cause := e.1, tval := e.2, kept := p.got, given := p.put }

/-- R300: the state in which a word of the copy engine moves one more piece, none where it pauses: another word may move before it
goes on. -/
def paced (s : State) : Option State :=
  if s.curEng ≠ .cp || s.pace = 0 then some s else if s.pace = 1 then none else some { s with pace := s.pace - 1 }
def Part.halted (p : Part) : Halt := { p.halt p.s (0, 0) with pause := true }
/-- R300: the unit in which a range is cut: a word, where the copy engine may pause. -/
def grain (s : State) (unit : Nat) : Nat := if s.curEng ≠ .cp || s.pace = 0 then unit else 4

/-- A reader of n bytes at an address, and a writer of bytes at one, which may fault before they do anything to them. -/
abbrev Reader := State → Nat → Nat → Except (State × BitVec 8 × Word) (List Pz × State)
abbrev Writer := State → Nat → List Pz → Except (State × BitVec 8 × Word) State

/-- Pieces of [a, a + n) cut at the multiples of a unit: address and length. -/
def cutAt (unit : Nat) : Nat → Nat → Nat → List (Nat × Nat)
  | 0, _, _ => []
  | fuel + 1, a, n =>
    if n = 0 then []
    else
      let k := Nat.min n (unit - a % unit)
      (a, k) :: cutAt unit fuel (a + k) (n - k)

/-- R161: read pieces in order; what an earlier attempt read is not read again. -/
def takeEach (read : Reader) : List (Nat × Nat) → Part → Except Halt (List Pz × Part)
  | [], p => .ok ([], p)
  | (a, n) :: t, p =>
    let go (bs : List Pz) (p : Part) : Except Halt (List Pz × Part) :=
      match takeEach read t { p with got := p.got ++ bs } with
      | .error h => .error h
      | .ok r => .ok (bs ++ r.1, r.2)
    let k := p.kept.length
    if n ≤ k then go (p.kept.take n) { p with kept := p.kept.drop n }
    else
      let got := { p with kept := [], got := p.got ++ p.kept }
      match paced p.s with
    | none => .error got.halted
    | some s0 =>
      match read s0 (a + k) (n - k) with
      | .error e => .error (got.halt e.1 e.2)
      | .ok r => go (p.kept ++ r.1) { p with s := r.2, kept := [] }

/-- R161: write pieces in order; what an earlier attempt wrote is not written again. -/
def giveEach (write : Writer) : List (Nat × Nat) → List Pz → Part → Except Halt Part
  | [], _, p => .ok p
  | (a, n) :: t, bs, p =>
    let k := p.skip
    if n ≤ k then giveEach write t (bs.drop n) { p with skip := k - n, put := p.put + n }
    else match paced p.s with
    | none => .error { p with put := p.put + k }.halted
    | some s0 =>
      match write s0 (a + k) ((bs.take n).drop k) with
      | .error e => .error ({ p with put := p.put + k }.halt e.1 e.2)
      | .ok s1 => giveEach write t (bs.drop n) { p with s := s1, skip := 0, put := p.put + n }

/-- Read, or write, a range cut at the multiples of a unit. -/
def takeCut (unit : Nat) (read : Reader) (a n : Nat) (p : Part) : Except Halt (List Pz × Part) :=
  let u := grain p.s unit
  takeEach read (cutAt u (n / u + 2) a n) p
def giveCut (unit : Nat) (write : Writer) (a : Nat) (bs : List Pz) (p : Part) : Except Halt Part :=
  let u := grain p.s unit
  giveEach write (cutAt u (bs.length / u + 2) a bs.length) bs p

/-- Take many things one after another. -/
def takeAll {α β : Type} (f : Part → α → Except Halt (β × Part)) : List α → Part → Except Halt (List β × Part)
  | [], p => .ok ([], p)
  | x :: t, p =>
    match f p x with
    | .error h => .error h
    | .ok r => match takeAll f t r.2 with
      | .error h => .error h
      | .ok q => .ok (r.1 :: q.1, q.2)

/-- Give many things one after another. -/
def giveAll {α : Type} (f : Part → α → Except Halt Part) : List α → Part → Except Halt Part
  | [], p => .ok p
  | x :: t, p =>
    match f p x with
    | .error h => .error h
    | .ok q => giveAll f t q

/-- Steps of a word from its progress on: step k gives a new state and flags, stops the entry at k (R161, R333), or pauses in it
(R300). -/
def runSteps (step : Part → Nat → Except Halt (State × Word)) : Nat → State → Entry → Run
  | 0, s, en => .done s en.flags
  | n + 1, s, en =>
    match step { s := s, kept := en.kept, skip := en.given } en.prog with
    | .error h =>
      let en1 := { en with kept := h.kept, given := h.given }
      if h.pause then .wait h.s en1 else .stop h.s en1 h.cause h.tval .goOn
    | .ok (s1, fl) => runSteps step n s1 { en with prog := en.prog + 1, flags := en.flags ||| fl, kept := [], given := 0 }

/-- All n steps of an entry, from its progress on. -/
def stepsOf (n : Nat) (step : Part → Nat → Except Halt (State × Word)) (s : State) (en : Entry) : Run :=
  runSteps step (n - en.prog) s en

/-- R167: an engine's access to another core's stash is counted, for each 128-byte line (DESIGN CHOICE, log 135). -/
def countPeer (s : State) (c : CoreId) (super : Bool) : State :=
  if c = s.cur.core then s else count s s.cur.core 0x47 1 super

/-- R161, R169: stash bytes within one line, its mapped line made present. -/
def stashRead (c : CoreId) (super : Bool) : Reader := fun s a n =>
  match touchLine s c super false none a with
  | .error e => .error (e.2.2, e.1, e.2.1)
  | .ok s1 => .ok (stashPz (coreOf s1 c) a n, countPeer s1 c super)

/-- Write stash bytes with their poison, raw or filled. -/
def stashPutPz (s : State) (id : CoreId) (off : Nat) (bs : List Pz) : State :=
  putWords (fun s a b p => stashPut s id a b p) (bs.length + 1) s off bs

def stashWrite (c : CoreId) (super : Bool) : Writer := fun s a bs =>
  match touchLine s c super true none a with
  | .error e => .error (e.2.2, e.1, e.2.1)
  | .ok s1 => .ok (stashPutPz (countPeer s1 c super) c a bs)

/-- R161: a step reads, or writes, a range of a stash. -/
def stashTake (c : CoreId) (super : Bool) (a n : Nat) (p : Part) : Except Halt (List Pz × Part) := takeCut 128 (stashRead c super) a n p
def stashGive (c : CoreId) (super : Bool) (a : Nat) (bs : List Pz) (p : Part) : Except Halt Part := giveCut 128 (stashWrite c super) a bs p

/-- Blocks in n elements of a side. -/
def blocksOf (n b : Nat) : Nat := (n + b - 1) / b

/-- Cut scales of a format out of bytes. -/
def scalesOf (fmt : BitVec 4) (bs : List Pz) (n : Nat) : List Pz :=
  (List.range n).map fun k =>
    let f := (bs.drop (k * scBytes fmt)).take (scBytes fmt)
    (leNat (f.map fun x => BitVec.ofNat 8 x.1), f.any (·.2))
/-- The bytes of a row of scales. -/
def scaleRow (fmt : BitVec 4) (l : List Pz) : List Pz := l.flatMap fun c => (leBytes (scBytes fmt) c.1).map fun b => (b.toNat, c.2)

/-- A step reads rows [i, i + n) and columns [j, j + m) of a tile; i and j begin a block. -/
def tileTake (c : CoreId) (super : Bool) (t : Tile) (i n j m : Nat) (p : Part) : Except Halt (Grid × Part) :=
  match takeAll (fun p k => stashTake c super (tileRow t (i + k) + j * eltBits t.fmt / 8) (packedRow t.fmt m) p) (List.range n) p with
  | .error h => .error h
  | .ok (rows, p1) =>
    let g : Grid := { fmt := t.fmt, rows := rows.map fun b => codesOf t.fmt b m, scs := [] }
    if !isBlocked t.fmt then .ok (g, p1)
    else
      let w := blocksOf m (blkCols t.fmt)
      match takeAll (fun p b => stashTake c super (tileScale t (i / blkRows t.fmt + b) (j / blkCols t.fmt)) (w * scBytes t.fmt) p)
          (List.range (blocksOf n (blkRows t.fmt))) p1 with
      | .error h => .error h
      | .ok (ss, p2) => .ok ({ g with scs := ss.map fun b => scalesOf t.fmt b w }, p2)

/-- A step reads the rows of a tile from the first on. -/
def tileRowsTake (c : CoreId) (super : Bool) (t : Tile) (n m : Nat) (p : Part) : Except Halt (Grid × Part) := tileTake c super t 0 n 0 m p

/-- A step writes a grid into a tile with its corner at row i, column j. -/
def tileGive (c : CoreId) (super : Bool) (t : Tile) (i j : Nat) (g : Grid) (p : Part) : Except Halt Part :=
  match giveAll (fun p r => stashGive c super (tileRow t (i + r.2) + j * eltBits t.fmt / 8) (packRow t.fmt r.1) p) g.rows.zipIdx p with
  | .error h => .error h
  | .ok p1 =>
    if !isBlocked t.fmt then .ok p1
    else giveAll (fun p r => stashGive c super (tileScale t (i / blkRows t.fmt + r.2) (j / blkCols t.fmt)) (scaleRow t.fmt r.1) p)
      g.scs.zipIdx p1

/-- A rectangular region of memory (R226): row k at va + k * pitch. -/
structure Region where
  va : Nat
  pitch : Nat
  fmt : BitVec 4
  rows : Nat
  cols : Nat
  deriving DecidableEq, Repr

/-- R233: the bytes of a packed row of a region. -/
def regionRow (r : Region) : Nat := packedRow r.fmt r.cols

/-- R161: a leaf is right for an access in a format: a format page only for its own format. 15 stands for bytes,
which any page holds (R305). -/
def leafFmtOk (l : Leaf) (fmt : BitVec 4) : Bool :=
  if fmt = 15 then true else if isBlocked fmt || isBlocked l.fmt then l.fmt = fmt else true

/-- Translate for an engine's access in a format. -/
def engXl (s : State) (id : CoreId) (super : Bool) (k : Acc) (fmt : BitVec 4) (va : Nat) : Except (BitVec 8 × Word) Xl :=
  match translateBy (engL1 s) s id super k va with
  | .error e => .error (e, BitVec.ofNat 64 va)
  | .ok x => if leafFmtOk x.leaf fmt then .ok x else .error (cPROT, BitVec.ofNat 64 va)

/-- R166: bytes within one line, of a class, as its home slice gives them to an engine of a core; a load of a coherent line takes its
time there. -/
def homeRead (s : State) (id : CoreId) (cls key pa n : Nat) : List Pz × State :=
  let line := pa / 128
  let s1 := touchHome s key line (acctOf s id) false
  let s2 := if cls = 2 then raiseTo (renewHome s1 line (engPts s)) cls line else s1
  let r := homeImage s2 id line
  (bytesIn r.1 r.2.1 pa n, r.2.2)

/-- R162, R166, R199: what an engine reads within one line: the load and store engines through the core's L1, but for a format page;
any other engine at the home slice. -/
def lineRead (s : State) (id : CoreId) (x : Xl) (n : Nat) : List Pz × State :=
  if engL1 s && !isBlocked x.leaf.fmt then
    let s1 := l1Fetch s id x (engPts s)
    let l := l1Of s1 id (x.pa / 128)
    (bytesIn l.bytes l.poison x.pa n, if x.leaf.cls = 2 then raiseEng s1 l.wts else s1)
  else homeRead s id x.leaf.cls (homeKey x.leaf x.pa) x.pa n

/-- R159: a translation that the moving engine uses is cached where it looks. -/
def engFill (s : State) (id : CoreId) (l : Leaf) : State := fillTlbBy (engL1 s) s id l

/-- R167: an access of the moving engine that a fault ends was looked up. -/
def engFault (s : State) (id : CoreId) (e : BitVec 8 × Word) : State × BitVec 8 × Word := (faulted (engL1 s) s id e.1 e.2.toNat, e)

/-- What an engine reads within one page, line by line. -/
def pageRead (id : CoreId) (x : Xl) (n : Nat) (s : State) : List Pz × State :=
  (cutAt 128 (n / 128 + 2) x.pa n).foldl (fun r c =>
    let q := lineRead r.2 id { x with pa := c.1 } c.2
    (r.1 ++ q.1, q.2)) ([], engFill s id x.leaf)

/-- R161: a reader, and a writer, of memory in a format within one page. -/
def memRead (id : CoreId) (super : Bool) (fmt : BitVec 4) : Reader := fun s va n =>
  match engXl s id super .load fmt va with
  | .error e => .error (engFault s id e)
  | .ok x => .ok (pageRead id x n s)

/-- Write bytes within one page at a translated address, under home keys. -/
def putKeyed (s : State) (id : CoreId) (x : Xl) (key : Nat → Nat) (bs : List Pz) : State :=
  putWords (fun s a b p => engStore s id x key a b p) (bs.length + 1)
    (engFill (setLeafDirty s id x.leaf) id { x.leaf with w0 := x.leaf.w0 ||| 256 }) x.pa bs
def putXl (s : State) (id : CoreId) (x : Xl) (bs : List Pz) : State := putKeyed s id x (homeKey x.leaf) bs

def memWrite (id : CoreId) (super : Bool) (fmt : BitVec 4) : Writer := fun s va bs =>
  match engXl s id super .store fmt va with
  | .error e => .error (engFault s id e)
  | .ok x => .ok (putXl s id x bs)

/-- R161: a step reads, or writes, a range of memory: cut at 4 KiB, the grain in which a unit may or may not reach it (R383, R402). -/
def memTake (id : CoreId) (super : Bool) (fmt : BitVec 4) (va n : Nat) (p : Part) : Except Halt (List Pz × Part) :=
  takeCut 4096 (memRead id super fmt) va n p
def memGive (id : CoreId) (super : Bool) (fmt : BitVec 4) (va : Nat) (bs : List Pz) (p : Part) : Except Halt Part :=
  giveCut 4096 (memWrite id super fmt) va bs p

/-- R157: where a scaled region begins in its page: block row, block column. -/
def regionBlock (x : Xl) (va : Nat) : Nat × Nat :=
  let off := va - x.leaf.va
  let p := pagePitch x.leaf
  (off / p / blkRows x.leaf.fmt, off % p * 8 / eltBits x.leaf.fmt / blkCols x.leaf.fmt)

/-- R77, R74: the physical address of the scale of a block of a page. -/
def scalePa (l : Leaf) (bi bj : Nat) : Nat := l.scl + scBytes l.fmt * (bi * l.geom + bj)

/-- R232: a scaled region that a page does not hold as blocks: not at a block, another pitch, or past the
end of the page. An address that does not translate is judged by the access. -/
def regionBad (s : State) (id : CoreId) (r : Region) : Bool :=
  if !isBlocked r.fmt || 2 ^ 56 ≤ r.va then false
  else match walkBy (engL1 s) s id r.va with
  | none => false
  | some l =>
    if l.fmt ≠ r.fmt then false
    else
      let off := r.va - l.va
      let p := pagePitch l
      let b := off % p * 8 / eltBits r.fmt
      r.pitch ≠ p || off / p % blkRows r.fmt ≠ 0 || b % blkCols r.fmt ≠ 0 ||
        p < off % p + regionRow r || l.size < (off / p + r.rows) * p

/-- The blocks of a block row of a region, and the bytes of its payload and of its scales. -/
def regionBlocks (r : Region) : Nat := blocksOf r.cols (blkCols r.fmt)
def payBytes (r : Region) : Nat := blkRows r.fmt * regionRow r
def scaBytes (r : Region) : Nat := regionBlocks r * scBytes r.fmt

/-- R152: every 4 KiB that meets a range of physical addresses is one that the unit may reach. -/
def allAllowed (s : State) (id : CoreId) (cls pa n : Nat) : Bool :=
  (cutAt 4096 (n / 4096 + 2) pa n).all fun c => paAllowed s id cls c.1

/-- Translate the block row of a scaled region that begins at row i; its rows and its scales lie where the unit may go, or PROT (R152). -/
def blockXl (s : State) (id : CoreId) (super : Bool) (k : Acc) (r : Region) (i : Nat) : Except (BitVec 8 × Word) (Xl × Nat) :=
  let va := r.va + i * r.pitch
  match engXl s id super k r.fmt va with
  | .error e => .error e
  | .ok x =>
    let b := regionBlock x va
    let a := scalePa x.leaf b.1 b.2
    match (List.range (blkRows r.fmt)).find? fun k => !allAllowed s id x.leaf.cls (x.pa + k * r.pitch) (regionRow r) with
    | some k => .error (cPROT, BitVec.ofNat 64 (va + k * r.pitch))
    | none => if allAllowed s id x.leaf.cls a (scaBytes r) then .ok (x, b.1) else .error (cPROT, BitVec.ofNat 64 va)

/-- The scales of a block row, at their home slice. -/
def scaleRead (s : State) (id : CoreId) (x : Xl) (b : Nat) (r : Region) (va : Nat) : List Pz × State :=
  (cutAt 128 (scaBytes r / 128 + 2) (scalePa x.leaf b (regionBlock x va).2) (scaBytes r)).foldl (fun q c =>
    let h := homeRead q.2 id x.leaf.cls (scaleKey x.leaf b) c.1 c.2
    (q.1 ++ h.1, h.2)) ([], s)

/-- R199, R229: a reader of a block row of a scaled region: its payload and its scales at one access, of which the scales alone may be
wanted. -/
def blockRead (id : CoreId) (super scales : Bool) (r : Region) (i : Nat) : Reader := fun s _ _ =>
  match blockXl s id super .load r i with
  | .error e => .error (engFault s id e)
  | .ok (x, b) =>
    let rows := (List.range (blkRows r.fmt)).foldl (fun (q : List Pz × State) k =>
      let h := pageRead id { x with pa := x.pa + k * r.pitch } (regionRow r) q.2
      (q.1 ++ h.1, h.2)) ([], engFill s id x.leaf)
    let sc := scaleRead rows.2 id x b r (r.va + i * r.pitch)
    .ok (if scales then sc.1 else rows.1 ++ sc.1, sc.2)

/-- R199: a writer of a block row of a scaled region: payload and scales as one update. -/
def blockWrite (id : CoreId) (super : Bool) (r : Region) (i : Nat) : Writer := fun s _ bs =>
  match blockXl s id super .store r i with
  | .error e => .error (engFault s id e)
  | .ok (x, b) =>
    let s1 := (List.range (blkRows r.fmt)).foldl (fun s k =>
      putXl s id { x with pa := x.pa + k * r.pitch } ((bs.drop (k * regionRow r)).take (regionRow r))) s
    .ok (putKeyed s1 id { x with pa := scalePa x.leaf b (regionBlock x (r.va + i * r.pitch)).2 } (fun _ => scaleKey x.leaf b) (bs.drop (payBytes r)))

/-- Put grids one below another. -/
def stackGrids (fmt : BitVec 4) (l : List Grid) : Grid := { fmt := fmt, rows := l.flatMap (·.rows), scs := l.flatMap (·.scs) }

/-- A step reads the block row of a scaled region that begins at row i. -/
def blockTake (id : CoreId) (super scales : Bool) (r : Region) (i : Nat) (p : Part) : Except Halt (Grid × Part) :=
  let pay := if scales then 0 else payBytes r
  match takeEach (blockRead id super scales r i) [(0, pay + scaBytes r)] p with
  | .error h => .error h
  | .ok (bs, p1) =>
    .ok ({ fmt := r.fmt
           rows := if scales then [] else (List.range (blkRows r.fmt)).map fun k => codesOf r.fmt ((bs.drop (k * regionRow r)).take (regionRow r)) r.cols
           scs := [scalesOf r.fmt (bs.drop pay) (regionBlocks r)] }, p1)

/-- A step reads rows [i, i + n) of a region as a grid; `i` at a block row. -/
def regionTake (id : CoreId) (super : Bool) (r : Region) (i n : Nat) (p : Part) : Except Halt (Grid × Part) :=
  if isBlocked r.fmt then
    match takeAll (fun p b => blockTake id super false r (i + b * blkRows r.fmt) p) (List.range (blocksOf n (blkRows r.fmt))) p with
    | .error h => .error h
    | .ok (l, p1) => .ok (stackGrids r.fmt l, p1)
  else
    match takeAll (fun p k => memTake id super r.fmt (r.va + (i + k) * r.pitch) (regionRow r) p) (List.range n) p with
    | .error h => .error h
    | .ok (l, p1) => .ok ({ fmt := r.fmt, rows := l.map fun b => codesOf r.fmt b r.cols, scs := [] }, p1)

/-- A step writes a grid into a region from row i on. -/
def regionGive (id : CoreId) (super : Bool) (r : Region) (i : Nat) (g : Grid) (p : Part) : Except Halt Part :=
  if isBlocked r.fmt then
    giveAll (fun p q =>
      let h := blkRows r.fmt
      let bs := (((g.rows.drop (q.2 * h)).take h).flatMap (packRow r.fmt)) ++ scaleRow r.fmt q.1
      giveEach (blockWrite id super r (i + q.2 * h)) [(0, bs.length)] bs p) g.scs.zipIdx p
  else giveAll (fun p q => memGive id super r.fmt (r.va + (i + q.2) * r.pitch) (packRow r.fmt q.1) p) g.rows.zipIdx p

end Sys2Proof.Machine
end

