-- ==== Sys2Proof/Machine/LdSt.lean ====
section
/-!
DEFINITION. The words of the load and store engines (11 R225-R233).
-/
namespace Sys2Proof.Machine

/-- Operand n of an entry, in pop order. -/
def op (ops : List Word) (n : Nat) : Word := ops.getD n 0

/-- Fields of TCTL (R226). -/
def tcTile (v : Word) : BitVec 6 := v.setWidth 6
def tcFmt (v : Word) : BitVec 4 := v.extractLsb' 12 4
def tcRmd (v : Word) : Nat := bitsAt v 16 4
def tcStamp (v : Word) : BitVec 16 := v.extractLsb' 48 16
def tcT (v : Word) : Bool := v.getLsbD 11
def tcK (v : Word) : Bool := v.getLsbD 10
def tcInv (v : Word) : Bool := v.getLsbD 9

/-- R226: a control word with no bit outside those a word uses. -/
def onlyBits (v mask : Word) : Bool := (v &&& ~~~mask) == 0
/-- R226: an address operand. -/
def addrOk (v : Word) : Bool := v.toNat < 2 ^ 56
/-- R226, R232: a pitch operand of at least n bytes. -/
def pitchOk (v : Word) (n : Nat) : Bool := v.toNat < 2 ^ 32 && n ≤ v.toNat
/-- Formats that move row by row with indices (R229, R231). -/
def rowFmt (f : BitVec 4) : Bool := f.toNat ≤ 4 || f = 9

/-- R232: an index array of n entries in raw stash of the team. -/
def idxOk (s : State) (id : CoreId) (v : Word) (n : Nat) : Bool :=
  let r := stashRank v.toNat
  let c := coreOf s (coreAt (CoreId.cl id) r)
  v.toNat < 2 ^ 23 && v.toNat % 4 = 0 && stashOff v.toNat + 4 * n ≤ 2 ^ 21 && r < teamSize s id && !c.retired && c.unit.isSome &&
    !c.maps.any (fun m => rangesMeet m.off m.len (stashOff v.toNat) (4 * n))

/-- ENGERR with a subcause unless a condition holds. -/
def need (sub : Nat) (ok : Bool) : Option Bad := if ok then none else some (.engerr sub)

/-- The tile a TCTL names. -/
def tcBind (s : State) (id : CoreId) (v : Word) : Tile := tileOf s id (tcTile v)

/-- R173: the waits of filling words and of reading words; an unbound tile is refused at the start and
holds no word back (DEDUCED, log 35). -/
def fills (s : State) (id : CoreId) (t : BitVec 6) : Bool := (tileOf s id t).st = .empty
def reads (s : State) (id : CoreId) (t : BitVec 6) : Bool := !(tileOf s id t).bound || (tileOf s id t).st = .ready
/-- R294: ST.T waits for a word that changes its tile in place. -/
def drains (s : State) (id : CoreId) (t : BitVec 6) : Bool := reads s id t && (tileOf s id t).writers = 0

/-- R217: the target of a conversion into a tile. -/
def tileTarget (m : Modes) (id : CoreId) (t : Tile) (stamp : BitVec 16) : Target :=
  { fmt := t.fmt, rm := m.rm, ftz := m.ftz, seed := m.seed, stamp := stamp, addr := tileAddr id t }

/-- R233: bytes on the tile side. -/
def tileBytes (t : Tile) : Nat := tileRows t * packedRow t.fmt (tileCols t) + scaleBytes t.fmt (tileRows t) (tileCols t)
def ceilDiv (a b : Nat) : Nat := (a + b - 1) / b

/-- The memory region of LD.T, LD.M and the ST words. -/
def tcRegion (ops : List Word) (fmt : BitVec 4) (rows cols : Nat) : Region :=
  { va := (op ops 0).toNat, pitch := (op ops 1).toNat, fmt := fmt, rows := rows, cols := cols }

/-- R228: source rows that a band takes: whole blocks of either side. -/
def bandHeight (src dst : BitVec 4) (trans : Bool) : Nat :=
  if trans && dst = 5 then 32 else if isSq src || isSq dst then 4 else 1

/-- R228: the region of LD.T. -/
def ldtRegion (s : State) (id : CoreId) (ops : List Word) : Region :=
  let t := tcBind s id (op ops 2)
  if tcT (op ops 2) then tcRegion ops (tcFmt (op ops 2)) (tileCols t) (tileRows t)
  else tcRegion ops (tcFmt (op ops 2)) (tileRows t) (tileCols t)

/-- The state and flags of a step that ends. -/
def endStep (fl : Word) : Except Halt Part → Except Halt (State × Word)
  | .error h => .error h
  | .ok p => .ok (p.s, fl)

/-- R228: one band of LD.T: read, move, write. -/
def ldtStep (id : CoreId) (en : Entry) (p : Part) (k : Nat) : Except Halt (State × Word) :=
  let v := op en.ops 2
  let t := tcBind p.s id v
  let r := ldtRegion p.s id en.ops
  let h := bandHeight (tcFmt v) t.fmt (tcT v)
  let n := Nat.min h (r.rows - k * h)
  match regionTake id en.modes.super r (k * h) n p with
  | .error e => .error e
  | .ok (g, p1) =>
    let tg := tileTarget en.modes id t (tcStamp v)
    let tg1 := { tg with addr := fun i j => if tcT v then tg.addr i (k * h + j) else tg.addr (k * h + i) j }
    let q := moveGrid tg1 (tcT v) n r.cols g
    endStep q.2 (if tcT v then tileGive id en.modes.super t 0 (k * h) q.1 p1 else tileGive id en.modes.super t (k * h) 0 q.1 p1)

/-- R228, R232: LD.T. -/
def ldtSpec : WordSpec :=
  { eng := .ld, opc := 0, pops := 3, src := 0x5C
    conds := fun s id ops => fills s id (tcTile (op ops 2))
    check := fun s id en =>
      let v := op en.ops 2
      let t := tcBind s id v
      let m := tcFmt v
      let r := ldtRegion s id en.ops
      need 14 (onlyBits v 0xFFFF00000000F83F && addrOk (op en.ops 0) && t.bound && m.toNat ≤ 9 &&
        (if m = 0 || t.fmt = 0 then m = t.fmt && !tcT v else true) && !(tcT v && t.fmt = 5 && tileRows t % 32 ≠ 0) &&
        pitchOk (op en.ops 1) (regionRow r) && !regionBad s id r)
    acts := fun _ id ops => [(id, tcTile (op ops 2), .filled)]
    dur := fun s id ops =>
      let t := tcBind s id (op ops 2)
      if tcFmt (op ops 2) = t.fmt && !tcT (op ops 2) then 24 + ceilDiv (tileBytes t) 64 else 32 + ceilDiv (tileBytes t) 32
    weight := fun _ _ _ => 4
    run := fun s id en =>
      let t := tcBind s id (op en.ops 2)
      let r := ldtRegion s id en.ops
      stepsOf (ceilDiv r.rows (bandHeight r.fmt t.fmt (tcT (op en.ops 2)))) (ldtStep id en) s en }

/-- R228: LD.T. -/
def execLdT (f : BitVec 6) (s : State) : Host.Outcome State Fault Refusal := .next (launchWord (.ldT f) ldtSpec f s)

/-- R307, R229: the address of a poisoned word in a trap's TVAL. -/
def poisonAddr (a : Word) : Word := a ||| 0x8000000000000000#64

/-- R229: index k of an index array. A marked one stops the entry with POISON, and is read again after it. -/
def indexTake (id : CoreId) (en : Entry) (e : Eng) (idx : Nat) (k : Nat) (p : Part) : Except Halt (Nat × Part) :=
  let c := coreAt (CoreId.cl id) (stashRank idx)
  match stashTake c en.modes.super (stashOff idx + 4 * k) 4 p with
  | .error h => .error h
  | .ok (bs, p1) =>
    if bs.any (·.2) then
      let a := BitVec.ofNat 64 (idx + 4 * k)
      .error { s := logEntryPoison p1.s id e en.index 0 a, cause := cPOISON, tval := poisonAddr a }
    else .ok (leNat (bs.map fun b => BitVec.ofNat 8 b.1), p1)

/-- R229, R231: the address of row I of a region: it wraps modulo 2^64 (DESIGN CHOICE, log 137). -/
def indexedRow (base pitch : Word) (i : Nat) : Nat := (base.toNat + i * pitch.toNat) % 2 ^ 64

/-- R229: row k of LD.G. -/
def ldgStep (id : CoreId) (en : Entry) (p : Part) (k : Nat) : Except Halt (State × Word) :=
  let t := tcBind p.s id (op en.ops 3)
  match indexTake id en .ld (op en.ops 1).toNat k p with
  | .error h => .error h
  | .ok (i, p1) =>
    match memTake id en.modes.super t.fmt (indexedRow (op en.ops 0) (op en.ops 2) i) (packedRow t.fmt (tileCols t)) p1 with
    | .error h => .error h
    | .ok (bs, p2) => endStep 0 (stashGive id en.modes.super (tileRow t k) bs p2)

/-- R229, R232: LD.G. -/
def ldgSpec : WordSpec :=
  { eng := .ld, opc := 1, pops := 4, src := 0x5C
    conds := fun s id ops => fills s id (tcTile (op ops 3))
    check := fun s id en =>
      let v := op en.ops 3
      let t := tcBind s id v
      need 14 (onlyBits v 0xF03F && addrOk (op en.ops 0) && t.bound && rowFmt t.fmt && tcFmt v = t.fmt &&
        idxOk s id (op en.ops 1) (tileRows t) && pitchOk (op en.ops 2) (packedRow t.fmt (tileCols t)))
    acts := fun _ id ops => [(id, tcTile (op ops 3), .filled)]
    dur := fun s id ops => let t := tcBind s id (op ops 3); 24 + ceilDiv (tileBytes t) 64 + tileRows t
    weight := fun _ _ _ => 4
    run := fun s id en => stepsOf (tileRows (tcBind s id (op en.ops 3))) (ldgStep id en) s en }

/-- R229: LD.G. -/
def execLdG (f : BitVec 6) (s : State) : Host.Outcome State Fault Refusal := .next (launchWord (.ldG f) ldgSpec f s)

/-- R229: one row of LD.M. -/
def ldmStep (id : CoreId) (en : Entry) (p : Part) (k : Nat) : Except Halt (State × Word) :=
  let v := op en.ops 2
  let t := tcBind p.s id v
  match memTake id en.modes.super 0 ((op en.ops 0).toNat + k * (op en.ops 1).toNat) (tileCols t) p with
  | .error h => .error h
  | .ok (bs, p1) => endStep 0 (stashGive id en.modes.super (tileRow t k) (if tcInv v then bs.map fun b => (255 - b.1, b.2) else bs) p1)

/-- R229, R232: LD.M. -/
def ldmSpec : WordSpec :=
  { eng := .ld, opc := 2, pops := 3, src := 0x5C
    conds := fun s id ops => fills s id (tcTile (op ops 2))
    check := fun s id en =>
      let v := op en.ops 2
      let t := tcBind s id v
      need 14 (onlyBits v 0xF23F && addrOk (op en.ops 0) && t.bound && t.fmt = 0 && tcFmt v = 0 && pitchOk (op en.ops 1) (tileCols t))
    acts := fun _ id ops => [(id, tcTile (op ops 2), .filled)]
    dur := fun s id ops => 24 + ceilDiv (tileBytes (tcBind s id (op ops 2))) 64
    weight := fun _ _ _ => 4
    run := fun s id en => stepsOf (tileRows (tcBind s id (op en.ops 2))) (ldmStep id en) s en }

/-- R229: LD.M. -/
def execLdM (f : BitVec 6) (s : State) : Host.Outcome State Fault Refusal := .next (launchWord (.ldM f) ldmSpec f s)

/-- R229: the region of LD.S: the page's own pitch. -/
def ldsRegion (s : State) (id : CoreId) (ops : List Word) : Region :=
  let t := tcBind s id (op ops 1)
  let p := match walkBy true s id (op ops 0).toNat with | some l => pagePitch l | none => 0
  { va := (op ops 0).toNat, pitch := p, fmt := t.fmt, rows := tileRows t, cols := tileCols t }

/-- R229: one block row of LD.S: the scales alone. -/
def ldsStep (id : CoreId) (en : Entry) (p : Part) (k : Nat) : Except Halt (State × Word) :=
  let t := tcBind p.s id (op en.ops 1)
  match blockTake id en.modes.super true (ldsRegion p.s id en.ops) (k * blkRows t.fmt) p with
  | .error h => .error h
  | .ok (g, p1) => endStep 0 (tileGive id en.modes.super t (k * blkRows t.fmt) 0 g p1)

/-- R229, R232: LD.S. -/
def ldsSpec : WordSpec :=
  { eng := .ld, opc := 3, pops := 2, src := 0x5C
    conds := fun s id ops => fills s id (tcTile (op ops 1))
    check := fun s id en =>
      let v := op en.ops 1
      let t := tcBind s id v
      need 14 (onlyBits v 0xF03F && addrOk (op en.ops 0) && t.bound && isBlocked t.fmt && tcFmt v = t.fmt &&
        !regionBad s id (ldsRegion s id en.ops))
    acts := fun _ id ops => [(id, tcTile (op ops 1), .filled)]
    dur := fun s id ops =>
      let t := tcBind s id (op ops 1)
      24 + tileRows t / blkRows t.fmt * (tileCols t / blkCols t.fmt)
    weight := fun _ _ _ => 4
    run := fun s id en => let t := tcBind s id (op en.ops 1); stepsOf (tileRows t / blkRows t.fmt) (ldsStep id en) s en }

/-- R229: LD.S. -/
def execLdS (f : BitVec 6) (s : State) : Host.Outcome State Fault Refusal := .next (launchWord (.ldS f) ldsSpec f s)

/-- R230: LD.R appends words to q.lx, waiting while it is full. -/
def ldrWords : Nat → CoreId → State → Entry → Run
  | 0, _, s, en => .done s en.flags
  | n + 1, id, s, en =>
    if 64 ≤ ringLevel s id 0 then .wait s (en.stall s.cyc.toNat)
    else match memTake id en.modes.super 0 ((op en.ops 0).toNat + 8 * en.prog) 8 { s := s, kept := en.kept } with
    | .error h => .stop h.s { en with kept := h.kept } h.cause h.tval .goOn
    | .ok (bs, p) =>
      let v : Word := BitVec.ofNat 64 (leNat (bs.map fun b => BitVec.ofNat 8 b.1))
      ldrWords n id (setRing p.s id 0 (ringOf p.s id 0 ++ [⟨v, bs.any (·.2)⟩])) { en.unstall s.cyc.toNat with prog := en.prog + 1, kept := [] }

/-- R230, R232: LD.R; its words follow in the cycles after its start, each after an RSEND of its cycle. -/
def ldrSpec : WordSpec :=
  { eng := .ld, opc := 4, pops := 2, src := 0x5C
    check := fun _ _ en =>
      let n := (op en.ops 1).toNat
      need 14 (addrOk (op en.ops 0) && (op en.ops 0).toNat % 8 = 0 && 1 ≤ n && n ≤ 4096)
    dur := fun _ _ ops => 8 + (op ops 1).toNat
    weight := fun _ _ _ => 4
    run := fun s id en =>
      if s.cyc.toNat ≤ en.startAt then .wait s en else ldrWords ((op en.ops 1).toNat - en.prog) id s en }

/-- R230: LD.R. -/
def execLdR (f : BitVec 6) (s : State) : Host.Outcome State Fault Refusal := .next (launchWord (.ldR f) ldrSpec f s)

/-- R230: PF requests the line of an address into the L1 or its home slice; a fault drops the request. -/
def pfLine (id : CoreId) (super home : Bool) (s : State) (va : Nat) : State :=
  match translate s id super .load va with
  | .error e => faulted true s id e va
  | .ok x =>
    if home || isBlocked x.leaf.fmt then touchHome (fillTlb s id x.leaf) (homeKey x.leaf x.pa) (x.pa / 128) (acctOf s id) false
    else l1Fetch (fillTlb s id x.leaf) id x (engPts s)

/-- The lines that meet a range. -/
def linesMet (a n : Nat) : List Nat := (List.range ((a + n - 1) / 128 - a / 128 + 1)).map fun k => (a / 128 + k) * 128

/-- R230, R232: PF. -/
def pfSpec : WordSpec :=
  { eng := .ld, opc := 5, pops := 2, src := 0x5C
    check := fun _ _ en =>
      let n := bitsAt (op en.ops 1) 0 22
      need 14 (addrOk (op en.ops 0) && onlyBits (op en.ops 1) 0x40000000003FFFFF && 1 ≤ n && n ≤ 2 ^ 21)
    dur := fun _ _ ops => 8 + ceilDiv (linesMet (op ops 0).toNat (bitsAt (op ops 1) 0 22)).length 4
    weight := fun _ _ _ => 4
    run := fun s id en =>
      .done ((linesMet (op en.ops 0).toNat (bitsAt (op en.ops 1) 0 22)).foldl
        (pfLine id en.modes.super ((op en.ops 1).getLsbD 62)) s) en.flags }

/-- R230: PF. -/
def execPf (f : BitVec 6) (s : State) : Host.Outcome State Fault Refusal := .next (launchWord (.pf f) pfSpec f s)

/-- R231: a band of a tile's rows in a memory format and the flags: converted by R89 (ST.CV), even to its own format, or as it
stands (ST.T). -/
def storeBand (cv : Bool) (m : Modes) (r : Region) (stamp : BitVec 16) (i h : Nat) (b : Grid) : Grid × Word :=
  let tg : Target := { fmt := r.fmt, rm := m.rm, ftz := m.ftz, seed := m.seed, stamp := stamp,
                       addr := fun a j => eltAddr r.fmt (r.va + (i + a) * r.pitch) j }
  if cv then cvMove false tg h r.cols b else moveGrid tg false h r.cols b

/-- R231: one band of ST.T and ST.CV: read, move, write. -/
def stStep (cv : Bool) (id : CoreId) (en : Entry) (m : Modes) (r : Region) (stamp : BitVec 16) (p : Part) (k : Nat) :
    Except Halt (State × Word) :=
  let t := tcBind p.s id (op en.ops 2)
  let h := bandHeight t.fmt r.fmt false
  match tileTake id en.modes.super t (k * h) h 0 (tileCols t) p with
  | .error e => .error e
  | .ok (b, p1) =>
    let g := storeBand cv m r stamp (k * h) h b
    endStep g.2 (regionGive id en.modes.super r (k * h) g.1 p1)

/-- R231: ST.T and ST.CV. -/
def stSteps (cv : Bool) (id : CoreId) (en : Entry) (m : Modes) (r : Region) (stamp : BitVec 16) (s : State) : Run :=
  let t := tcBind s id (op en.ops 2)
  stepsOf (tileRows t / bandHeight t.fmt r.fmt false) (stStep cv id en m r stamp) s en

/-- R231, R232: ST.T. -/
def sttSpec : WordSpec :=
  { eng := .st, opc := 0, pops := 3, src := 0x5D
    conds := fun s id ops => drains s id (tcTile (op ops 2))
    check := fun s id en =>
      let v := op en.ops 2
      let t := tcBind s id v
      let r := tcRegion en.ops t.fmt (tileRows t) (tileCols t)
      need 14 (onlyBits v 0xF43F && addrOk (op en.ops 0) && t.bound && tcFmt v = t.fmt && pitchOk (op en.ops 1) (regionRow r) &&
        !regionBad s id r)
    acts := fun _ id ops => [(id, tcTile (op ops 2), .drained (tcK (op ops 2)))]
    dur := fun s id ops => 24 + ceilDiv (tileBytes (tcBind s id (op ops 2))) 64
    weight := fun _ _ _ => 4
    run := fun s id en =>
      let t := tcBind s id (op en.ops 2)
      stSteps false id en en.modes (tcRegion en.ops t.fmt (tileRows t) (tileCols t)) 0 s }

/-- R231: ST.T. -/
def execStT (f : BitVec 6) (s : State) : Host.Outcome State Fault Refusal := .next (launchWord (.stT f) sttSpec f s)

/-- R231: row k of ST.S. -/
def stsStep (id : CoreId) (en : Entry) (p : Part) (k : Nat) : Except Halt (State × Word) :=
  let t := tcBind p.s id (op en.ops 3)
  match indexTake id en .st (op en.ops 1).toNat k p with
  | .error h => .error h
  | .ok (i, p1) =>
    match stashTake id en.modes.super (tileRow t k) (packedRow t.fmt (tileCols t)) p1 with
    | .error h => .error h
    | .ok (bs, p2) => endStep 0 (memGive id en.modes.super t.fmt (indexedRow (op en.ops 0) (op en.ops 2) i) bs p2)

/-- R231, R232: ST.S. -/
def stsSpec : WordSpec :=
  { eng := .st, opc := 1, pops := 4, src := 0x5D
    conds := fun s id ops => reads s id (tcTile (op ops 3))
    check := fun s id en =>
      let v := op en.ops 3
      let t := tcBind s id v
      need 14 (onlyBits v 0xF03F && addrOk (op en.ops 0) && t.bound && rowFmt t.fmt && tcFmt v = t.fmt &&
        idxOk s id (op en.ops 1) (tileRows t) && pitchOk (op en.ops 2) (packedRow t.fmt (tileCols t)))
    acts := fun _ id ops => [(id, tcTile (op ops 3), .readDone)]
    dur := fun s id ops => let t := tcBind s id (op ops 3); 24 + ceilDiv (tileBytes t) 64 + tileRows t
    weight := fun _ _ _ => 4
    run := fun s id en => stepsOf (tileRows (tcBind s id (op en.ops 3))) (stsStep id en) s en }

/-- R231: ST.S. -/
def execStS (f : BitVec 6) (s : State) : Host.Outcome State Fault Refusal := .next (launchWord (.stS f) stsSpec f s)

/-- R231: the mode of ST.CV. -/
def cvModes (m : Modes) (v : Word) : Modes := if tcRmd v = 0 then m else { m with rm := BitVec.ofNat 3 (tcRmd v - 1) }

/-- R231, R232: ST.CV; a scaled target takes whole blocks of the tile (log 34). -/
def stcvSpec : WordSpec :=
  { eng := .st, opc := 2, pops := 3, src := 0x5D
    conds := fun s id ops => reads s id (tcTile (op ops 2))
    check := fun s id en =>
      let v := op en.ops 2
      let t := tcBind s id v
      let m := tcFmt v
      let r := tcRegion en.ops m (tileRows t) (tileCols t)
      need 14 (onlyBits v 0xFFFF0000000FF03F && tcRmd v ≤ 5 && addrOk (op en.ops 0) && t.bound && t.fmt ≠ 0 && m ≠ 0 && m.toNat ≤ 9 &&
        tileRows t % blkRows m = 0 && tileCols t % blkCols m = 0 && pitchOk (op en.ops 1) (regionRow r) && !regionBad s id r)
    acts := fun _ id ops => [(id, tcTile (op ops 2), .readDone)]
    dur := fun s id ops => 32 + ceilDiv (tileBytes (tcBind s id (op ops 2))) 32
    weight := fun _ _ _ => 4
    run := fun s id en =>
      let v := op en.ops 2
      let t := tcBind s id v
      stSteps true id en (cvModes en.modes v) (tcRegion en.ops (tcFmt v) (tileRows t) (tileCols t)) (tcStamp v) s }

/-- R231: ST.CV. -/
def execStCv (f : BitVec 6) (s : State) : Host.Outcome State Fault Refusal := .next (launchWord (.stCv f) stcvSpec f s)

/-- Clean zero bytes. -/
def zeroPz (n : Nat) : List Pz := List.replicate n (0, false)

/-- R231, R232: ST.Z. -/
def stzSpec : WordSpec :=
  { eng := .st, opc := 3, pops := 1, src := 0x5D
    conds := fun s id ops => fills s id (tcTile (op ops 0))
    check := fun s id en => need 14 (onlyBits (op en.ops 0) 0x3F && (tcBind s id (op en.ops 0)).bound)
    acts := fun _ id ops => [(id, tcTile (op ops 0), .filled)]
    dur := fun s id ops => 8 + ceilDiv (tileBytes (tcBind s id (op ops 0))) 128
    weight := fun _ _ _ => 4
    run := fun s id en =>
      let t := tcBind s id (op en.ops 0)
      stepsOf (tileRows t) (fun p k =>
        match stashGive id en.modes.super (tileRow t k) (zeroPz (packedRow t.fmt (tileCols t))) p with
        | .error h => .error h
        | .ok p1 =>
          endStep 0 (if k + 1 = tileRows t then
            stashGive id en.modes.super (t.base.toNat + tileRows t * tilePitch t) (zeroPz (scaleBytes t.fmt (tileRows t) (tileCols t))) p1
            else .ok p1)) s en }

/-- R231: ST.Z. -/
def execStZ (f : BitVec 6) (s : State) : Host.Outcome State Fault Refusal := .next (launchWord (.stZ f) stzSpec f s)

end Sys2Proof.Machine
end

