-- ==== Sys2Proof/Machine/Vector.lean ====
section
/-!
DEFINITION. The vector engine (14 R278-R292).
-/
namespace Sys2Proof.Machine

/-- Fields of VCTL (R280). -/
def vVd (v : Word) : Nat := bitsAt v 0 4
def vVa (v : Word) : Nat := bitsAt v 4 4
def vVb (v : Word) : Nat := bitsAt v 8 4
def vVc (v : Word) : Nat := bitsAt v 12 4
def vTy (v : Word) : Nat := bitsAt v 16 2
def vFmt (v : Word) : BitVec 4 := v.extractLsb' 18 4
def vOp (v : Word) : Nat := bitsAt v 22 3
def vDir (v : Word) : Bool := v.getLsbD 25
def vImm (v : Word) : BitVec 16 := v.extractLsb' 32 16
def vStamp (v : Word) : BitVec 16 := v.extractLsb' 48 16

/-- The fields of VCTL as masks. -/
def mVd : Word := 0xF
def mVa : Word := 0xF0
def mVb : Word := 0xF00
def mVc : Word := 0xF000
def mTy : Word := 0x30000
def mFmt : Word := 0x3C0000
def mOp : Word := 0x1C00000
def mDir : Word := 0x2000000
def mImm : Word := 0xFFFF00000000
def mStamp : Word := 0xFFFF000000000000

def vecOf (s : State) (id : CoreId) : Vec := (coreOf s id).vec
def modVec (s : State) (id : CoreId) (f : Vec → Vec) : State := modCore s id fun c => { c with vec := f c.vec }
/-- Element (i, j) of a register. -/
def vGet (v : Vec) (r i j : Nat) : VElt := mget {} v.elts (1024 * r + 32 * i + j)
def vTag (v : Vec) (r : Nat) : VTag := mget {} v.tags r
/-- The scale of block (bi, bj) of a tagged register, blocks in row-major order of the tagged extents. -/
def vScale (v : Vec) (r bi bj : Nat) : BitVec 16 :=
  let t := vTag v r
  mget 0 v.scales (64 * r + bi * (t.tc / blkCols t.fmt) + bj)

/-- R278: write elements i < n, j < m of a register and clear its tag. -/
def vPutAll (r n m : Nat) (f : Nat → Nat → VElt) (v : Vec) : Vec :=
  { v with
    elts := (List.range (n * m)).foldl (fun e k => mset {} e (1024 * r + 32 * (k / m) + k % m) (f (k / m) (k % m))) v.elts
    tags := mset {} v.tags r {} }

/-- The same for elements of no block. -/
def vPut (r n m : Nat) (f : Nat → Nat → VElt) (v : Vec) : Vec := vPutAll r n m (fun i j => { f i j with code := 0 }) v

/-- Tag a register with a format, its extents and its scales. -/
def vSetTag (r : Nat) (fmt : BitVec 4) (tr tc : Nat) (sc : Nat → Nat → BitVec 16) (v : Vec) : Vec :=
  let w := tc / blkCols fmt
  { v with
    tags := mset {} v.tags r { fmt := fmt, tr := tr, tc := tc }
    scales := (List.range (tr / blkRows fmt * w)).foldl (fun m k => mset 0 m (64 * r + k) (sc (k / w) (k % w))) v.scales }

/-- R292: ceil(R * C / 32) of the shape. -/
def vLen (s : State) (id : CoreId) : Nat := ceilDiv ((vecOf s id).rows * (vecOf s id).cols) 32

/-- R282: ENGERR 11 unless VCTL uses only its fields and the operands are accepted. -/
def vSpec (opc pops : Nat) (mask : Word) (ok : State → CoreId → List Word → Bool) (dur : State → CoreId → List Word → Nat)
    (weight : Nat) (run : State → CoreId → Entry → State × Word) : WordSpec :=
  { eng := .vx, opc := opc, pops := pops, src := 0x58
    check := fun s id en => need 11 (onlyBits (op en.ops (pops - 1)) mask && ok s id en.ops)
    dur := dur
    weight := fun _ _ _ => weight
    run := fun s id en => let r := run s id en; .done r.1 r.2 }

/-- R283: an element-wise word of `n` sources. -/
def vEw (opc n : Nat) (extra : Word) (ok : Nat → Nat → BitVec 16 → Bool) (slow : Bool)
    (f : Modes → Word → BitVec 32 → BitVec 32 → BitVec 32 → BitVec 32 × Word) : WordSpec :=
  vSpec opc 1 (mVd ||| mTy ||| mOp ||| extra ||| (if 0 < n then mVa else 0) ||| (if 1 < n then mVb else 0) ||| (if 2 < n then mVc else 0))
    (fun _ _ ops => ok (vTy (op ops 0)) (vOp (op ops 0)) (vImm (op ops 0)))
    (fun s id _ => if slow then 16 + 2 * vLen s id else 8 + vLen s id)
    (if slow then 6 else 4)
    (fun s id en =>
      let c := op en.ops 0
      let v := vecOf s id
      let regs := [vVa c, vVb c, vVc c].take n
      let out (i j : Nat) : VElt × Word :=
        let xs := regs.map fun r => vGet v r i j
        let b (k : Nat) := (xs.getD k {}).bits
        let r := f en.modes c (b 0) (b 1) (b 2)
        let p := xs.any (·.poison)
        ({ bits := r.1, poison := p }, if p then 0 else r.2)
      let cells := tab v.rows v.cols out
      (modVec s id (vPut (vVd c) v.rows v.cols fun i j => ((cells.getD i []).getD j ({}, 0)).1),
        orFlags (cells.flatMap fun r => r.map (·.2))))

/-- TY 0 or 1 with OP 0. -/
def okBoth (ty op : Nat) (_ : BitVec 16) : Bool := ty ≤ 1 && op = 0
def okFp (ty op : Nat) (_ : BitVec 16) : Bool := ty = 0 && op = 0
def okInt (ty op : Nat) (_ : BitVec 16) : Bool := ty = 1 && op = 0

/-- R283: an FP32 result of one rounding, SR as RNE, or the word's INT32 result. -/
def vArith (g : BitVec 3 → Num → Num → Num → Num × Word) (h : BitVec 32 → BitVec 32 → BitVec 32 → BitVec 32)
    (m : Modes) (c : Word) (a b d : BitVec 32) : BitVec 32 × Word :=
  if vTy c = 1 then (h a b d, 0)
  else
    let rm := rmNoSr m.rm
    let v := g rm (dec32 m.ftz a) (dec32 m.ftz b) (dec32 m.ftz d)
    let r := rnd32 rm m.ftz v.1
    (r.1, v.2 ||| r.2)

/-- R283: VEXP, VRCP and VRSQ round by RNE. -/
def vFunc (g : Num → Num × Word) (m : Modes) (_ : Word) (a _ _ : BitVec 32) : BitVec 32 × Word :=
  let v := g (dec32 m.ftz a)
  let r := rnd32 0 m.ftz v.1
  (r.1, v.2 ||| r.2)

/-- R284: VMIN and VMAX. -/
def vLess (u : Bool) (a b : BitVec 32) : Bool := if u then a.ult b else a.slt b
def vMinI (u : Bool) (a b : BitVec 32) : BitVec 32 := if vLess u b a then b else a
def vMaxI (u : Bool) (a b : BitVec 32) : BitVec 32 := if vLess u a b then b else a
def okMin (ty op : Nat) (_ : BitVec 16) : Bool := (ty = 0 && op = 0) || (ty = 1 && op ≤ 1)

def vaddSpec : WordSpec := vEw 0x04 2 0 okBoth false (vArith (fun rm a b _ => numAdd rm a b) fun a b _ => a + b)
def vsubSpec : WordSpec := vEw 0x05 2 0 okBoth false (vArith (fun rm a b _ => numAdd rm a (numNeg b)) fun a b _ => a - b)
def vmulSpec : WordSpec := vEw 0x06 2 0 okBoth false (vArith (fun _ a b _ => numMul a b) fun a b _ => a * b)
def vfmaSpec : WordSpec := vEw 0x07 3 0 okBoth false (vArith (fun rm a b c => numFma rm a b c) fun a b c => a * b + c)
def vdivSpec : WordSpec := vEw 0x08 2 0 okFp true (vArith (fun _ a b _ => numDiv a b) fun a _ _ => a)
def vminSpec : WordSpec := vEw 0x09 2 0 okMin false fun m c =>
  vArith (fun _ a b _ => (numMin a b, 0)) (fun a b _ => vMinI (vOp c = 1) a b) m c
def vmaxSpec : WordSpec := vEw 0x0A 2 0 okMin false fun m c =>
  vArith (fun _ a b _ => (numMax a b, 0)) (fun a b _ => vMaxI (vOp c = 1) a b) m c

/-- R284, R112: VABS and VNEG act as FSGN, which FTZ leaves alone (DEDUCED, log 36). -/
def vSign (sign : Bool → Bool) (h : BitVec 32 → BitVec 32) (_ : Modes) (c : Word) (a _ _ : BitVec 32) : BitVec 32 × Word :=
  (if vTy c = 1 then h a else fsgnBits (fun x _ => sign x) a a, 0)
def vabsSpec : WordSpec := vEw 0x0B 1 0 okBoth false (vSign (fun _ => false) fun a => if a.slt 0 then -a else a)
def vnegSpec : WordSpec := vEw 0x0C 1 0 okBoth false (vSign (fun x => !x) fun a => -a)

/-- R284, R97, R113: VCMP. -/
def vcmpSpec : WordSpec := vEw 0x0D 2 0 (fun ty op _ => (ty = 0 && op ≤ 3) || (ty = 1 && op ≤ 5)) false fun m c a b _ =>
  let cc := BitVec.ofNat 3 (vOp c)
  if vTy c = 1 then (if ccTest cc (a.signExtend 64) (b.signExtend 64) then 1 else 0, 0)
  else let r := numTest cc (dec32 m.ftz a) (dec32 m.ftz b); (if r.1 then 1 else 0, r.2)

/-- R284, R283: VSEL moves bits; FTZ makes a subnormal a zero. -/
def vselSpec : WordSpec := vEw 0x0E 3 0 okFp false fun m _ a b c =>
  let x := if c = 0 then b else a
  (if m.ftz && x.extractLsb' 23 8 = 0 then x &&& 0x80000000 else x, 0)

def vandSpec : WordSpec := vEw 0x13 2 0 okInt false fun _ _ a b _ => (a &&& b, 0)
def vorSpec : WordSpec := vEw 0x14 2 0 okInt false fun _ _ a b _ => (a ||| b, 0)
def vxorSpec : WordSpec := vEw 0x15 2 0 okInt false fun _ _ a b _ => (a ^^^ b, 0)
def vshlSpec : WordSpec := vEw 0x16 1 mImm (fun ty op imm => ty = 1 && op = 0 && imm.toNat ≤ 31) false fun _ c a _ _ =>
  (a <<< (vImm c).toNat, 0)
def vshrSpec : WordSpec := vEw 0x17 1 mImm (fun ty op imm => ty = 1 && op ≤ 1 && imm.toNat ≤ 31) false fun _ c a _ _ =>
  (if vOp c = 1 then a.sshiftRight (vImm c).toNat else a >>> (vImm c).toNat, 0)
def vexpSpec : WordSpec := vEw 0x18 1 0 okFp true (vFunc fun a => (numExp a, 0))
def vrcpSpec : WordSpec := vEw 0x19 1 0 okFp true (vFunc fun a => numDiv (.fin false 1 0) a)
def vrsqSpec : WordSpec := vEw 0x1A 1 0 okFp true (vFunc numRsqrt)

/-- R284: VCLIP by the rules of VMAX, then VMIN. -/
def vclipSpec : WordSpec := vEw 0x1C 3 0 okBoth false fun m c a b d =>
  let x := vArith (fun _ a b _ => (numMax a b, 0)) (fun a b _ => vMaxI false a b) m c a b 0
  let y := vArith (fun _ a b _ => (numMin a b, 0)) (fun a b _ => vMinI false a b) m c x.1 d 0
  (y.1, x.2 ||| y.2)

/-- R284: VIOTA. -/
def viotaSpec : WordSpec :=
  vSpec 0x1B 1 (mVd ||| mTy ||| mOp ||| mImm) (fun _ _ ops => vTy (op ops 0) = 1 && vOp (op ops 0) = 0)
    (fun s id _ => 8 + vLen s id) 4
    (fun s id en =>
      let c := op en.ops 0
      let v := vecOf s id
      (modVec s id (vPut (vVd c) v.rows v.cols fun i j =>
        { bits := (vImm c).signExtend 32 + BitVec.ofNat 32 (v.cols * i + j) }), 0))

def execVadd (f : BitVec 6) (s : State) : Host.Outcome State Fault Refusal := .next (launchWord (.vadd f) vaddSpec f s)
def execVsub (f : BitVec 6) (s : State) : Host.Outcome State Fault Refusal := .next (launchWord (.vsub f) vsubSpec f s)
def execVmul (f : BitVec 6) (s : State) : Host.Outcome State Fault Refusal := .next (launchWord (.vmul f) vmulSpec f s)
def execVfma (f : BitVec 6) (s : State) : Host.Outcome State Fault Refusal := .next (launchWord (.vfma f) vfmaSpec f s)
def execVdiv (f : BitVec 6) (s : State) : Host.Outcome State Fault Refusal := .next (launchWord (.vdiv f) vdivSpec f s)
def execVmin (f : BitVec 6) (s : State) : Host.Outcome State Fault Refusal := .next (launchWord (.vmin f) vminSpec f s)
def execVmax (f : BitVec 6) (s : State) : Host.Outcome State Fault Refusal := .next (launchWord (.vmax f) vmaxSpec f s)
def execVabs (f : BitVec 6) (s : State) : Host.Outcome State Fault Refusal := .next (launchWord (.vabs f) vabsSpec f s)
def execVneg (f : BitVec 6) (s : State) : Host.Outcome State Fault Refusal := .next (launchWord (.vneg f) vnegSpec f s)
def execVcmp (f : BitVec 6) (s : State) : Host.Outcome State Fault Refusal := .next (launchWord (.vcmp f) vcmpSpec f s)
def execVsel (f : BitVec 6) (s : State) : Host.Outcome State Fault Refusal := .next (launchWord (.vsel f) vselSpec f s)
def execVand (f : BitVec 6) (s : State) : Host.Outcome State Fault Refusal := .next (launchWord (.vand f) vandSpec f s)
def execVor (f : BitVec 6) (s : State) : Host.Outcome State Fault Refusal := .next (launchWord (.vor f) vorSpec f s)
def execVxor (f : BitVec 6) (s : State) : Host.Outcome State Fault Refusal := .next (launchWord (.vxor f) vxorSpec f s)
def execVshl (f : BitVec 6) (s : State) : Host.Outcome State Fault Refusal := .next (launchWord (.vshl f) vshlSpec f s)
def execVshr (f : BitVec 6) (s : State) : Host.Outcome State Fault Refusal := .next (launchWord (.vshr f) vshrSpec f s)
def execVexp (f : BitVec 6) (s : State) : Host.Outcome State Fault Refusal := .next (launchWord (.vexp f) vexpSpec f s)
def execVrcp (f : BitVec 6) (s : State) : Host.Outcome State Fault Refusal := .next (launchWord (.vrcp f) vrcpSpec f s)
def execVrsq (f : BitVec 6) (s : State) : Host.Outcome State Fault Refusal := .next (launchWord (.vrsq f) vrsqSpec f s)
def execVclip (f : BitVec 6) (s : State) : Host.Outcome State Fault Refusal := .next (launchWord (.vclip f) vclipSpec f s)
def execViota (f : BitVec 6) (s : State) : Host.Outcome State Fault Refusal := .next (launchWord (.viota f) viotaSpec f s)

/-- R285: one step of a reduction. -/
def vredStep (c : Word) (m : Modes) (a b : BitVec 32) : BitVec 32 × Word :=
  if vOp c = 0 then vArith (fun rm a b _ => numAdd rm a b) (fun a b _ => a + b) m c a b 0
  else if vOp c = 1 then vArith (fun _ a b _ => (numMax a b, 0)) (fun a b _ => vMaxI false a b) m c a b 0
  else vArith (fun _ a b _ => (numMin a b, 0)) (fun a b _ => vMinI false a b) m c a b 0

/-- R285: reduce a line of elements in ascending order from its first. -/
def vredLine (c : Word) (m : Modes) (xs : List VElt) : VElt × Word :=
  let p := xs.any (·.poison)
  let r := xs.tail.foldl (fun (a : BitVec 32 × Word) x => let q := vredStep c m a.1 x.bits; (q.1, a.2 ||| q.2)) ((xs.headD {}).bits, 0)
  ({ bits := r.1, poison := p }, if p then 0 else r.2)

/-- R285: VRED. -/
def vredSpec : WordSpec :=
  vSpec 0x10 1 (mVd ||| mVa ||| mTy ||| mOp ||| mDir) (fun _ _ ops => vTy (op ops 0) ≤ 1 && vOp (op ops 0) ≤ 2)
    (fun s id _ => 8 + vLen s id) 4
    (fun s id en =>
      let c := op en.ops 0
      let v := vecOf s id
      if vDir c then
        let rs := (List.range v.cols).map fun j => vredLine c en.modes ((List.range v.rows).map fun i => vGet v (vVa c) i j)
        (modVec s id (vPut (vVd c) 1 v.cols fun _ j => (rs.getD j ({}, 0)).1), orFlags (rs.map (·.2)))
      else
        let rs := (List.range v.rows).map fun i => vredLine c en.modes ((List.range v.cols).map fun j => vGet v (vVa c) i j)
        (modVec s id (vPut (vVd c) v.rows 1 fun i _ => (rs.getD i ({}, 0)).1), orFlags (rs.map (·.2))))

/-- R285: VRED. -/
def execVred (f : BitVec 6) (s : State) : Host.Outcome State Fault Refusal := .next (launchWord (.vred f) vredSpec f s)

/-- R285: VBCAST. -/
def vbcastSpec : WordSpec :=
  vSpec 0x11 2 (mVd ||| mVa ||| mOp) (fun _ _ ops =>
      let c := op ops 1
      vOp c ≤ 2 && (if vOp c = 0 then vVa c = 0 && (op ops 0).toNat < 2 ^ 32 else op ops 0 = 0))
    (fun s id _ => 8 + vLen s id) 4
    (fun s id en =>
      let c := op en.ops 1
      let v := vecOf s id
      (modVec s id (vPut (vVd c) v.rows v.cols fun i j =>
        if vOp c = 0 then { bits := (op en.ops 0).setWidth 32 }
        else if vOp c = 1 then vGet v (vVa c) 0 j else vGet v (vVa c) i 0), 0))

/-- R285: VBCAST. -/
def execVbcast (f : BitVec 6) (s : State) : Host.Outcome State Fault Refusal := .next (launchWord (.vbcast f) vbcastSpec f s)

/-- R285: VTRANS, with the tag of an SQ register. -/
def vtransSpec : WordSpec :=
  vSpec 0x12 1 (mVd ||| mVa) (fun _ _ _ => true) (fun s id _ => 8 + Nat.max (vecOf s id).rows (vecOf s id).cols) 4
    (fun s id en =>
      let c := op en.ops 0
      let v := vecOf s id
      let t := vTag v (vVa c)
      let put := vPut (vVd c) v.cols v.rows fun i j => vGet v (vVa c) j i
      (modVec s id fun w =>
        if isSq t.fmt then vSetTag (vVd c) t.fmt t.tc t.tr (fun bi bj => sqTransScale (vScale v (vVa c) bj bi)) (put w) else put w, 0))

/-- R285: VTRANS. -/
def execVtrans (f : BitVec 6) (s : State) : Host.Outcome State Fault Refusal := .next (launchWord (.vtrans f) vtransSpec f s)

/-- R285: VPOISQ. -/
def vpoisqSpec : WordSpec :=
  vSpec 0x1E 1 (mVd ||| mVa ||| mOp) (fun _ _ ops => vOp (op ops 0) ≤ 2) (fun s id _ => 8 + vLen s id) 4
    (fun s id en =>
      let c := op en.ops 0
      let v := vecOf s id
      let some' := (List.range v.rows).any fun i => (List.range v.cols).any fun j => (vGet v (vVa c) i j).poison
      let s1 := modVec s id (vPut (vVd c) v.rows v.cols fun i j =>
        let e := vGet v (vVa c) i j
        if vOp c = 2 then (if e.poison then {} else e) else { bits := if e.poison then 1 else 0 })
      (if vOp c = 1 then modQueue s1 id .vx fun q => { q with set := { q.set with latch := !some' } } else s1, 0))

/-- R285: VPOISQ. -/
def execVpoisq (f : BitVec 6) (s : State) : Host.Outcome State Fault Refusal := .next (launchWord (.vpoisq f) vpoisqSpec f s)

/-- R285: VMOVS. -/
def vmovsSpec : WordSpec :=
  vSpec 0x1F 2 (mVd ||| mVa) (fun s id ops =>
      let p := op ops 0
      onlyBits p 0x1F1F && (vecOf s id).rows + bitsAt p 0 5 ≤ 32 && (vecOf s id).cols + bitsAt p 8 5 ≤ 32)
    (fun s id _ => 8 + vLen s id) 4
    (fun s id en =>
      let c := op en.ops 1
      let v := vecOf s id
      (modVec s id (vPut (vVd c) v.rows v.cols fun i j =>
        vGet v (vVa c) (i + bitsAt (op en.ops 0) 0 5) (j + bitsAt (op en.ops 0) 8 5)), 0))

/-- R285: VMOVS. -/
def execVmovs (f : BitVec 6) (s : State) : Host.Outcome State Fault Refusal := .next (launchWord (.vmovs f) vmovsSpec f s)

/-- The FP32 bits of an exact value (R278); a NaN is canonical. -/
def vBits (v : Num) : BitVec 32 := exact32 v

/-- R278: a decoded element of a block; a value beyond FP32 keeps its code, its bits are open (log 136). -/
def vBlockElt (g : Grid) (i j : Nat) : VElt :=
  let e := gridElt g i j
  let v := eltNum g.fmt false i j e
  match numLog2 v with
  | some l => if 127 < l then { bits := Config.mxBeyond e.sc e.code, poison := e.poison, code := e.code + 1 }
              else { bits := vBits v, poison := e.poison }
  | none => { bits := vBits v, poison := e.poison }

/-- R286: write a grid of a block format as decoded values with its tag. -/
def vPutGrid (r n m : Nat) (g : Grid) (v : Vec) : Vec :=
  vSetTag r g.fmt n m (fun bi bj => BitVec.ofNat 16 ((g.scs.getD bi []).getD bj (0, false)).1) (vPutAll r n m (vBlockElt g) v)

/-- A register's element as a number of its type. -/
def vNum (ty : Nat) (ftz : Bool) (e : VElt) : Num := if ty = 1 then numOfInt false e.bits.toInt 0 else dec32 ftz e.bits

/-- R287: the pseudo-address of element (i, j). -/
def vcvtAddr (a0 : Nat) (fmt : BitVec 4) (i j : Nat) : Nat :=
  let w := eltBits fmt
  let b := a0 + 128 * i + j * w / 8
  if w < 8 then b * (8 / w) + j % (8 / w) else b

/-- R286: VCVT. -/
def vcvtSpec : WordSpec :=
  vSpec 0x0F 2 (mVd ||| mVa ||| mTy ||| mFmt ||| mStamp) (fun s id ops =>
      let c := op ops 1
      let v := vecOf s id
      (op ops 0).toNat < 2 ^ 32 && vTy c ≤ 1 && 1 ≤ (vFmt c).toNat && (vFmt c).toNat ≤ 10 &&
        (vFmt c ≠ 5 || v.cols = 32) && (!isSq (vFmt c) || (v.rows % 4 = 0 && v.cols % 4 = 0)))
    (fun s id ops => (if isBlocked (vFmt (op ops 1)) then 16 else 8) + vLen s id) 4
    (fun s id en =>
      let c := op en.ops 1
      let v := vecOf s id
      let t : Target := { fmt := vFmt c, rm := en.modes.rm, ftz := en.modes.ftz, seed := en.modes.seed, stamp := vStamp c,
                          addr := vcvtAddr (op en.ops 0).toNat (vFmt c) }
      let g := convTo t v.rows v.cols fun i j => let e := vGet v (vVa c) i j; (vNum (vTy c) en.modes.ftz e, e.poison)
      let put : Vec → Vec :=
        if isBlocked (vFmt c) then vPutGrid (vVd c) v.rows v.cols g.1
        else vPut (vVd c) v.rows v.cols fun i j =>
          let e := gridElt g.1 i j
          { bits := if vFmt c = 9 then (BitVec.ofNat 8 e.code).signExtend 32
                    else if vFmt c = 1 || vFmt c = 10 then BitVec.ofNat 32 e.code
                    else vBits (decElt (vFmt c) false e.code)
            poison := e.poison }
      (modVec s id put, g.2))

/-- R286: VCVT. -/
def execVcvt (f : BitVec 6) (s : State) : Host.Outcome State Fault Refusal := .next (launchWord (.vcvt f) vcvtSpec f s)

/-- The code whose value under a block's scale is that of a tagged element (R290). -/
def codeUnder (fmt : BitVec 4) (sc : BitVec 16) (i j : Nat) (x : VElt) : Nat :=
  if x.code ≠ 0 then x.code - 1 else
  match dec32 false x.bits with
  | .fin s m e =>
    if isSq fmt then
      let k := sqBits fmt
      if sqE sc = 0 || sqE sc = 255 then 0
      else
        let q : Int := (sqE sc : Int) - 127 - sqUr sc (i % 4) - sqUc sc (j % 4) - ((k : Int) - 1)
        (if s then 2 ^ k else 0) + (roundAt 1 0 s m e q).1
    else if sc = 255 then 0 else (if s then 8 else 0) + (e2m1Round 1 0 s m (e - ((sc.toNat : Int) - 127))).1
  | _ => 0

/-- R288, R290: the first n rows and m columns of a tagged register as codes, with its recorded scales; poison stays
with the elements. -/
def vGrid (v : Vec) (r n m : Nat) : Grid :=
  let t := vTag v r
  { fmt := t.fmt
    rows := tab n m fun i j =>
      let e := vGet v r i j
      (codeUnder t.fmt (vScale v r (i / blkRows t.fmt) (j / blkCols t.fmt)) i j e, e.poison)
    scs := tab (blocksOf n (blkRows t.fmt)) (blocksOf m (blkCols t.fmt)) fun bi bj => ((vScale v r bi bj).toNat, false) }

/-- R88: a block grid composed with 2^delta; a block without a clean element sets no flag (R85). -/
def composeGrid (delta : Int) (g : Grid) : Grid × Word :=
  let br := blkRows g.fmt
  let bc := blkCols g.fmt
  let one (bi bj : Nat) (sc : Pz) : (Pz × List Nat) × Word :=
    let cells := (List.range (br * bc)).map fun k => (g.rows.getD (bi * br + k / bc) []).getD (bj * bc + k % bc) (0, false)
    let codes := cells.map (·.1)
    let dead := sc.2 || cells.all (·.2)
    if isSq g.fmt then
      let q := sqCompose g.fmt delta (BitVec.ofNat 16 sc.1) codes
      (((q.1.toNat, sc.2), q.2.1), if dead then 0 else q.2.2)
    else
      let q := mxCompose delta sc.1 codes
      (((q.1, sc.2), q.2.1), if dead then 0 else q.2.2)
  let bs : List (List ((Pz × List Nat) × Word)) := g.scs.zipIdx.map fun r => r.1.zipIdx.map fun c => one r.2 c.2 c.1
  ({ fmt := g.fmt
     rows := g.rows.zipIdx.map fun r => r.1.zipIdx.map fun c =>
       (((((bs.getD (r.2 / br) []).getD (c.2 / bc) (((0, false), []), (0 : Word))).1.2).getD (r.2 % br * bc + c.2 % bc) 0), c.1.2)
     scs := bs.map fun r => r.map fun b => b.1.1 },
   orFlags (bs.flatMap fun r => r.map (·.2)))

/-- R288: VSCALE; a tagged register composes the blocks of its tagged extents. -/
def vscaleSpec : WordSpec :=
  vSpec 0x1D 1 (mVd ||| mVa ||| mTy ||| mImm) (fun _ _ ops =>
      let d := (vImm (op ops 0)).toInt
      vTy (op ops 0) = 0 && -128 ≤ d && d ≤ 127)
    (fun s id ops => (if (vTag (vecOf s id) (vVa (op ops 0))).fmt = 0 then 8 else 16) + vLen s id) 4
    (fun s id en =>
      let c := op en.ops 0
      let v := vecOf s id
      let d := (vImm c).toInt
      let t := vTag v (vVa c)
      if t.fmt = 0 then
        let rm := rmNoSr en.modes.rm
        let cells := tab v.rows v.cols fun i j =>
          let e := vGet v (vVa c) i j
          let r := rnd32 rm en.modes.ftz (numScale d (dec32 en.modes.ftz e.bits))
          (({ bits := r.1, poison := e.poison } : VElt), if e.poison then (0 : Word) else r.2)
        (modVec s id (vPut (vVd c) v.rows v.cols fun i j => ((cells.getD i []).getD j ({}, 0)).1),
          orFlags (cells.flatMap fun r => r.map (·.2)))
      else
        let g := composeGrid d (vGrid v (vVa c) t.tr t.tc)
        (modVec s id (vPutGrid (vVd c) t.tr t.tc g.1), g.2))

/-- R288: VSCALE. -/
def execVscale (f : BitVec 6) (s : State) : Host.Outcome State Fault Refusal := .next (launchWord (.vscale f) vscaleSpec f s)

/-- R281: a tile window: the core, the tile and the corner. -/
def winCore (id : CoreId) (v : Word) : CoreId := coreAt (CoreId.cl id) (bitsAt v 8 2)
def winTile (v : Word) : BitVec 6 := v.setWidth 6
def winRow (v : Word) : Nat := bitsAt v 16 7
def winCol (v : Word) : Nat := bitsAt v 24 7
def winBind (s : State) (id : CoreId) (v : Word) : Tile := tileOf s (winCore id v) (winTile v)

/-- R282: the rank of an operand names a core of the team whose unit has not retired. -/
def rankOk (s : State) (id : CoreId) (r : Nat) : Bool :=
  r < teamSize s id && !(coreOf s (coreAt (CoreId.cl id) r)).retired
/-- R173, R282, R294: the waits of a word on the tile of a window: it is READY, or EMPTY; no tile of the team stands in its way where the
team has no such rank (DEDUCED, log 35). -/
def winReads (s : State) (id : CoreId) (v : Word) : Bool := !rankOk s id (bitsAt v 8 2) || reads s (winCore id v) (winTile v)
def winFills (s : State) (id : CoreId) (v : Word) : Bool := !rankOk s id (bitsAt v 8 2) || fills s (winCore id v) (winTile v)
/-- R282: a window names a bound tile of such a core. -/
def winOk (s : State) (id : CoreId) (v : Word) : Bool :=
  onlyBits v 0x7F7F033F && rankOk s id (bitsAt v 8 2) && (winBind s id v).bound

/-- R289: the columns of a tile in elements of a vector word. -/
def vCols (t : Tile) : Nat := if t.fmt = 0 then tileCols t / 4 else tileCols t

/-- R289, R290: the window of a vector word fits its tile. -/
def vWinOk (s : State) (id : CoreId) (v : Word) : Bool :=
  let t := winBind s id v
  let x := vecOf s id
  winOk s id v && winRow v + x.rows ≤ tileRows t && winCol v + x.cols ≤ vCols t

/-- R289: TY of a tile format. -/
def vTyOk (fmt : BitVec 4) (ty : Nat) : Bool := if fmt = 0 then ty ≤ 1 else if fmt = 9 then ty = 1 else ty = 0

/-- R289: element (i, j) of a window of a tile in a register. -/
def vldElt (g : Grid) (i j : Nat) : VElt :=
  if g.fmt = 0 then
    let bs := (List.range 4).map fun k => gridElt g i (4 * j + k)
    { bits := BitVec.ofNat 32 (leNat (bs.map fun b => BitVec.ofNat 8 b.code)), poison := bs.any (·.poison) }
  else
    let e := gridElt g i j
    { bits := if g.fmt = 1 then BitVec.ofNat 32 e.code
              else if g.fmt = 9 then (BitVec.ofNat 8 e.code).signExtend 32
              else vBits (eltNum g.fmt false i j e)
      poison := e.poison }

/-- R292: a tile in another core's stash costs 32 cycles. -/
def peerCost (id : CoreId) (v : Word) : Nat := if bitsAt v 8 2 = id.rank then 0 else 32

/-- R289: VLD. -/
def vldSpec : WordSpec :=
  { eng := .vx, opc := 0x00, pops := 2, src := 0x58
    conds := fun s id ops => winReads s id (op ops 0)
    check := fun s id en =>
      let w := op en.ops 0
      let c := op en.ops 1
      let t := winBind s id w
      let v := vecOf s id
      need 11 (onlyBits c (mVd ||| mTy) && vWinOk s id w && vTyOk t.fmt (vTy c) &&
        (!isSq t.fmt || (winRow w % 4 = 0 && winCol w % 4 = 0 && v.rows % 4 = 0 && v.cols % 4 = 0)) &&
        (t.fmt ≠ 5 || (winCol w = 0 && v.cols = 32)))
    acts := fun _ id ops => [(winCore id (op ops 0), winTile (op ops 0), .readDone)]
    dur := fun s id ops => 8 + (vecOf s id).rows + peerCost id (op ops 0)
    weight := fun _ _ _ => 4
    run := fun s id en =>
      let w := op en.ops 0
      let c := op en.ops 1
      let t := winBind s id w
      let v := vecOf s id
      let u := if t.fmt = 0 then 4 else 1
      stepsOf 1 (fun p _ =>
        match tileTake (winCore id w) en.modes.super t (winRow w) v.rows (u * winCol w) (u * v.cols) p with
        | .error h => .error h
        | .ok (g, p1) =>
          .ok (modVec p1.s id (if isBlocked t.fmt then vPutGrid (vVd c) v.rows v.cols g else vPut (vVd c) v.rows v.cols (vldElt g)), 0)) s en }

/-- R289: VLD. -/
def execVld (f : BitVec 6) (s : State) : Host.Outcome State Fault Refusal := .next (launchWord (.vld f) vldSpec f s)

/-- R290: the rows and columns of whole blocks of a tile that a window meets: first row, rows, first column, columns. -/
def vstCover (t : Tile) (r0 n c0 m : Nat) : Nat × Nat × Nat × Nat :=
  let br := blkRows t.fmt
  let bc := blkCols t.fmt
  (r0 / br * br, (blocksOf (r0 + n) br - r0 / br) * br, c0 / bc * bc, (blocksOf (c0 + m) bc - c0 / bc) * bc)

/-- R290: the recorded scales of a register are used in a window. -/
def vstKeeps (v : Vec) (r : Nat) (t : Tile) (r0 c0 : Nat) : Bool :=
  let tag := vTag v r
  isBlocked t.fmt && tag.fmt = t.fmt && r0 % blkRows t.fmt = 0 && c0 % blkCols t.fmt = 0 && v.rows ≤ tag.tr && v.cols ≤ tag.tc

/-- R290: what VST writes into the blocks that its window meets, `old` being what they hold: elements outside the window keep
their codes under recorded scales, and their values otherwise (DEDUCED, log 34). -/
def vstBlocks (v : Vec) (c : Word) (m : Modes) (dst : CoreId) (t : Tile) (r0 c0 : Nat) (old : Grid) : Grid × Word :=
  let w := vstCover t r0 v.rows c0 v.cols
  let inside (i j : Nat) : Bool := r0 ≤ w.1 + i && w.1 + i < r0 + v.rows && c0 ≤ w.2.2.1 + j && w.2.2.1 + j < c0 + v.cols
  if vstKeeps v (vVa c) t r0 c0 then
    let g := vGrid v (vVa c) v.rows v.cols
    ({ g with rows := tab w.2.1 w.2.2.2 fun i j =>
        if inside i j then (g.rows.getD i []).getD j (0, false) else (old.rows.getD i []).getD j (0, false) }, 0)
  else
    convTo { fmt := t.fmt, rm := m.rm, ftz := m.ftz, seed := m.seed, stamp := vStamp c,
             addr := fun i j => tileAddr dst t (w.1 + i) (w.2.2.1 + j) }
      w.2.1 w.2.2.2 fun i j =>
        if inside i j then let e := vGet v (vVa c) (w.1 + i - r0) (w.2.2.1 + j - c0); (vNum (vTy c) m.ftz e, e.poison)
        else (gridNum old m.ftz i j, (gridElt old i j).poison)

/-- R290: what VST writes into a tile without blocks. -/
def vstPlain (v : Vec) (c : Word) (m : Modes) (dst : CoreId) (t : Tile) (r0 c0 : Nat) : Grid × Word :=
  if t.fmt = 0 then
    ({ fmt := 0, rows := (List.range v.rows).map fun i => (List.range v.cols).flatMap fun j =>
        let e := vGet v (vVa c) i j
        (leBytes 4 e.bits.toNat).map fun b => (b.toNat, e.poison), scs := [] }, 0)
  else
    convTo { fmt := t.fmt, rm := m.rm, ftz := m.ftz, seed := m.seed, stamp := vStamp c,
             addr := fun i j => tileAddr dst t (r0 + i) (c0 + j) }
      v.rows v.cols fun i j => let e := vGet v (vVa c) i j; (vNum (vTy c) m.ftz e, e.poison)

/-- R290: the step of VST; blocks that the window holds in part are read first. -/
def vstStep (id : CoreId) (en : Entry) (p : Part) (_ : Nat) : Except Halt (State × Word) :=
  let w := op en.ops 0
  let c := op en.ops 1
  let dst := winCore id w
  let t := winBind p.s id w
  let v := vecOf p.s id
  if isBlocked t.fmt then
    let b := vstCover t (winRow w) v.rows (winCol w) v.cols
    let whole : Bool := b = (winRow w, v.rows, winCol w, v.cols)
    match (if whole then .ok ({ fmt := t.fmt, rows := [], scs := [] }, p)
        else tileTake dst en.modes.super t b.1 b.2.1 b.2.2.1 b.2.2.2 p) with
    | .error h => .error h
    | .ok (old, p1) =>
      let g := vstBlocks v c en.modes dst t (winRow w) (winCol w) old
      endStep g.2 (tileGive dst en.modes.super t b.1 b.2.2.1 g.1 p1)
  else
    let g := vstPlain v c en.modes dst t (winRow w) (winCol w)
    endStep g.2 (tileGive dst en.modes.super t (winRow w) (if t.fmt = 0 then 4 * winCol w else winCol w) g.1 p)

/-- R290: VST. -/
def vstSpec : WordSpec :=
  { eng := .vx, opc := 0x01, pops := 2, src := 0x58
    conds := fun s id ops => if vOp (op ops 1) % 2 = 1 then winFills s id (op ops 0) else winReads s id (op ops 0)
    check := fun s id en =>
      let w := op en.ops 0
      let c := op en.ops 1
      let t := winBind s id w
      let v := vecOf s id
      need 11 (onlyBits c (mVa ||| mTy ||| mOp ||| mStamp) && vTy c ≤ 1 && vOp c ≤ 1 && vWinOk s id w &&
        (vOp c = 0 || (winRow w = 0 && winCol w = 0 && v.rows = tileRows t && (if t.fmt = 0 then 4 * v.cols else v.cols) = tileCols t)))
    acts := fun _ id ops => if vOp (op ops 1) = 1 then [(winCore id (op ops 0), winTile (op ops 0), .filled)] else []
    dur := fun s id ops => 8 + (vecOf s id).rows + peerCost id (op ops 0)
    weight := fun _ _ _ => 4
    run := fun s id en => stepsOf 1 (vstStep id en) s en }

/-- R290: VST. -/
def execVst (f : BitVec 6) (s : State) : Host.Outcome State Fault Refusal := .next (launchWord (.vst f) vstSpec f s)

/-- R353: the rows of a drain that have been committed are noted in its window entry. -/
def noteRows (index : BitVec 16) (rows : List Nat) (q : Queue) : Queue :=
  { q with window := q.window.map fun w => if w.entry.index = index then { w with committed := w.committed ++ rows } else w }

/-- R255: a row of the result buffer lands; one that accumulates is committed (R251). -/
def landRow (c : Core) (l : Landing) : Core :=
  { c with
    rbuf := l.bits.zipIdx.foldl (fun m b => mset 0 m (128 * l.row + b.2) b.1) c.rbuf
    rbufPoison := l.poison.zipIdx.foldl (fun m b => mset false m (128 * l.row + b.2) b.1) c.rbufPoison
    qMx := if l.bank.isSome && !l.bits.isEmpty then noteRows l.index [l.row] c.qMx else c.qMx }

/-- R251: a row waits for the verdict of its bank, `bad` being the banks whose verdict has failed. -/
def heldRow (bad : BitVec 2) (l : Landing) : Bool :=
  !l.bits.isEmpty && (match l.bank with | some b => bad.getLsbD b | none => false)

/-- R251, R255: the rows that have landed by a cycle. -/
def landed (bad : BitVec 2) (t : Nat) (c : Core) : Core :=
  let now (l : Landing) : Bool := l.cycle ≤ t && !heldRow bad l
  let k := (c.landings.filter now).foldl landRow c
  { k with landings := c.landings.map fun l => if now l then { l with bits := [], poison := [] } else l }

/-- R251: the banks of the array under whose verdicts the rows of a core land. -/
def badBanks (s : State) (id : CoreId) : BitVec 2 := (clusOf s (CoreId.cl id)).array.verdictFail

/-- R291: some row of the window lands too late for a read that starts at t, or has not landed because its verdict has failed. -/
def landsLate (bad : BitVec 2) (c : Core) (row n t : Nat) : Bool :=
  c.landings.any fun l => row ≤ l.row && l.row < row + n && (t + (l.row - row) < l.cycle || heldRow bad l)

/-- R291: VLDRB. -/
def vldrbSpec : WordSpec :=
  { eng := .vx, opc := 0x02, pops := 2, src := 0x58
    check := fun s id en =>
      let p := op en.ops 0
      let c := op en.ops 1
      let v := vecOf s id
      if !(onlyBits c (mVd ||| mTy) && vTy c = 0 && onlyBits p 0x7F7F && bitsAt p 0 7 + v.rows ≤ 128 && bitsAt p 8 7 + v.cols ≤ 128)
      then some (.engerr 11)
      else if landsLate (badBanks s id) (coreOf s id) (bitsAt p 0 7) v.rows en.startAt then some (.trap cSCHED (schedTval 4 (queueOf s id .vx).slot))
      else none
    dur := fun s id _ => (vecOf s id).rows + 2
    weight := fun _ _ _ => 4
    run := fun s id en =>
      let p := op en.ops 0
      let v := vecOf s id
      let c := landed (badBanks s id) (en.startAt + v.rows) (coreOf s id)
      .done (modVec s id (vPut (vVd (op en.ops 1)) v.rows v.cols fun i j =>
        let k := 128 * (bitsAt p 0 7 + i) + bitsAt p 8 7 + j
        { bits := mget 0 c.rbuf k, poison := mget false c.rbufPoison k })) en.flags }

/-- R291: VLDRB. -/
def execVldrb (f : BitVec 6) (s : State) : Host.Outcome State Fault Refusal := .next (launchWord (.vldrb f) vldrbSpec f s)

/-- R292: VSHP. -/
def vshpSpec : WordSpec :=
  { eng := .vx, opc := 0x03, pops := 1, src := 0x58
    check := fun _ _ en => need 11 (onlyBits (op en.ops 0) 0x1F1F)
    dur := fun _ _ _ => 1
    weight := fun _ _ _ => 4
    run := fun s id en =>
      .done (modVec s id fun v => { v with rows := bitsAt (op en.ops 0) 0 5 + 1, cols := bitsAt (op en.ops 0) 8 5 + 1 }) en.flags }

/-- R292: VSHP. -/
def execVshp (f : BitVec 6) (s : State) : Host.Outcome State Fault Refusal := .next (launchWord (.vshp f) vshpSpec f s)

end Sys2Proof.Machine
end

