-- ==== Sys2Proof/Machine/RowEng.lean ====
section
/-!
DEFINITION. The row engine (14 R293-R297).
-/
namespace Sys2Proof.Machine

/-- R294: the rows of a window. -/
def rwRows (v : Word) : Nat := bitsAt v 24 7 + 1
def rwWinOk (s : State) (id : CoreId) (v : Word) : Bool :=
  winOk s id v && (winBind s id v).fmt = 1 && winRow v + rwRows v ≤ tileRows (winBind s id v)

/-- R294: MASK names a tile that can mask the rows, or masks nothing. -/
def maskOn (v : Word) : Bool := v.getLsbD 15
def maskOk (s : State) (id : CoreId) (mask rows : Word) : Bool :=
  let t := winBind s id mask
  if maskOn mask then
    onlyBits mask 0x833F && rankOk s id (bitsAt mask 8 2) && t.bound && t.fmt = 0 &&
      ceilDiv (tileCols (winBind s id rows)) 8 ≤ tileCols t && winRow rows + rwRows rows ≤ tileRows t
  else mask = 0

/-- R296: the natural slot length and the one in force. -/
def slotNat (t : Tile) : Nat := ceilDiv (tileCols t) 32 + 12
def slotT (s : State) (id : CoreId) (v : Word) : Nat :=
  if (coreOf s id).slotLen = 0 then slotNat (winBind s id v) else (coreOf s id).slotLen.toNat

/-- R296: the pairs of words that chain. -/
def chains (a b : BitVec 7) : Bool := (a = 0 && b = 1) || (a = 1 && b = 2) || (a = 3 && b = 4) || (a = 4 && b = 5)

/-- R296: the entry that started last chains to the one before it. -/
def chained (s : State) (id : CoreId) : Bool :=
  let q := queueOf s id .rw
  match q.window.getLast?.map (·.entry) with
  | some e => (match e.after with
    | some (i, opc, rows, t) =>
      i + 1 = e.index && chains opc e.opc && rows = e.ops.getLastD 0 && e.arrived ≤ t && q.waitks.isEmpty && q.slot.isNone &&
        !lfPu e.lf && !lfPd e.lf
    | none => false)
  | none => false

/-- R296: the first slot of a word that chains is the second of the word before it: what chains to it must have come by then. -/
def inChain (s : State) (id : CoreId) (en : Entry) : State :=
  match en.after with
  | some (_, _, v, t) =>
    if chained s id then
      modQueue s id .rw fun q => { q with lastStart := q.lastStart.map fun x => (x.1, x.2.1, x.2.2.1, t + slotT s id v) }
    else s
  | none => s

/-- FP32 operations of R295: one rounding by RNE. -/
def rOp (ftz : Bool) (v : Num × Word) : BitVec 32 × Word := let r := rnd32 0 ftz v.1; (r.1, v.2 ||| r.2)
def rAdd (ftz : Bool) (a b : BitVec 32) : BitVec 32 × Word := rOp ftz (numAdd 0 (dec32 ftz a) (dec32 ftz b))
def rSub (ftz : Bool) (a b : BitVec 32) : BitVec 32 × Word := rOp ftz (numAdd 0 (dec32 ftz a) (numNeg (dec32 ftz b)))
def rMul (ftz : Bool) (a b : BitVec 32) : BitVec 32 × Word := rOp ftz (numMul (dec32 ftz a) (dec32 ftz b))
def rFma (ftz : Bool) (a b c : BitVec 32) : BitVec 32 × Word := rOp ftz (numFma 0 (dec32 ftz a) (dec32 ftz b) (dec32 ftz c))
def rDivN (ftz : Bool) (a : BitVec 32) (n : Nat) : BitVec 32 × Word := rOp ftz (numDiv (dec32 ftz a) (.fin false n 0))
def rExp (ftz : Bool) (a : BitVec 32) : BitVec 32 × Word := rOp ftz (numExp (dec32 ftz a), 0)
def rRcp (ftz : Bool) (a : BitVec 32) : BitVec 32 × Word := rOp ftz (numDiv (.fin false 1 0) (dec32 ftz a))
def rRsq (ftz : Bool) (a : BitVec 32) : BitVec 32 × Word := rOp ftz (numRsqrt (dec32 ftz a))

/-- A row with its statistics and the flags set; a poisoned value sets none (R283, log 33). -/
structure RowVal where
  xs : List VElt
  st : Stat
  fl : Word := 0
  deriving DecidableEq, Repr

/-- The sum of a row of a function of its elements, with poison and flags: a poisoned sum sets none. -/
def rSum (f : VElt → BitVec 32 → BitVec 32 × Word) (p0 : Bool) (xs : List VElt) : BitVec 32 × Bool × Word :=
  let r := xs.foldl (fun (a : BitVec 32 × Word) x => let r := f x a.1; (r.1, a.2 ||| r.2)) (0, 0)
  let p := p0 || xs.any (·.poison)
  (r.1, p, if p then 0 else r.2)

/-- An element-wise result. -/
def rMap (f : VElt → BitVec 32 × Word) (p : Bool) (xs : List VElt) : List VElt × Word :=
  let rs := xs.map fun x => let r := f x; let q := p || x.poison; (({ bits := r.1, poison := q } : VElt), if q then 0 else r.2)
  (rs.map (·.1), orFlags (rs.map (·.2)))

def negInf32 : BitVec 32 := 0xFF800000

/-- R295: RMASK on a row; `mask j` is the mask bit and its poison. -/
def rowMask (mask : Nat → Bool × Bool) (xs : List VElt) : List VElt :=
  xs.zipIdx.map fun x =>
    let b := mask x.2
    if b.2 then { x.1 with poison := true } else if b.1 then x.1 else { bits := negInf32 }

/-- R295: RMAX. -/
def rowMax (ftz : Bool) (mask : Nat → Bool × Bool) (r : RowVal) : RowVal :=
  let xs := rowMask mask r.xs
  let m := xs.foldl (fun (a : Num) x =>
    let v := dec32 ftz x.bits
    if numIsNan v then .nan else if numIsNan a then a else numMax a v) (.inf true)
  let o := rnd32 0 ftz m
  { xs := xs, st := { r.st with m := o.1, mPoison := xs.any (·.poison) }, fl := if xs.any (·.poison) then 0 else o.2 }

/-- R295: REXPSUM, with its fully masked case. -/
def rowExpSum (ftz : Bool) (r : RowVal) : RowVal :=
  if r.st.m = negInf32 then
    { xs := r.xs.map fun x => { bits := 0, poison := x.poison || r.st.mPoison },
      st := { r.st with s := 0, sPoison := r.st.mPoison || r.xs.any (·.poison) } }
  else
    let e := rMap (fun x => let d := rSub ftz x.bits r.st.m; let y := rExp ftz d.1; (y.1, d.2 ||| y.2)) r.st.mPoison r.xs
    let t := rSum (fun x a => rAdd ftz a x.bits) r.st.mPoison e.1
    { xs := e.1, st := { r.st with s := t.1, sPoison := t.2.1 }, fl := e.2 ||| t.2.2 }

/-- R295: RSCALE. -/
def rowScale (ftz : Bool) (r : RowVal) : RowVal :=
  if numIsZero (dec32 ftz r.st.s) then { r with xs := r.xs.map fun x => { bits := 0, poison := x.poison || r.st.sPoison } }
  else
    let c := rRcp ftz r.st.s
    let e := rMap (fun x => rMul ftz x.bits c.1) r.st.sPoison r.xs
    { r with xs := e.1, fl := e.2 ||| (if r.st.sPoison then 0 else c.2) }

/-- R295: RMEAN. -/
def rowMean (ftz : Bool) (r : RowVal) : RowVal :=
  let t := rSum (fun x a => rAdd ftz a x.bits) false r.xs
  let m := rDivN ftz t.1 r.xs.length
  { r with st := { r.st with m := m.1, mPoison := t.2.1 }, fl := if t.2.1 then 0 else t.2.2 ||| m.2 }

/-- R295: RVAR. -/
def rowVar (ftz : Bool) (r : RowVal) : RowVal :=
  let t := rSum (fun x a => let d := rSub ftz x.bits r.st.m; let y := rFma ftz d.1 d.1 a; (y.1, d.2 ||| y.2)) r.st.mPoison r.xs
  let v := rDivN ftz t.1 r.xs.length
  { r with st := { r.st with s := v.1, sPoison := t.2.1 }, fl := if t.2.1 then 0 else t.2.2 ||| v.2 }

/-- R295: RNORM. -/
def rowNorm (ftz : Bool) (eps : BitVec 32) (r : RowVal) : RowVal :=
  let a := rAdd ftz r.st.s eps
  let q := rRsq ftz a.1
  let e := rMap (fun x => let d := rSub ftz x.bits r.st.m; let y := rMul ftz d.1 q.1; (y.1, d.2 ||| y.2))
    (r.st.mPoison || r.st.sPoison) r.xs
  { r with xs := e.1, fl := e.2 ||| (if r.st.sPoison then 0 else a.2 ||| q.2) }

/-- R294: a step reads the mask bits of row k: the bit of each element and its poison. -/
def maskTake (id : CoreId) (super : Bool) (v : Word) (k n : Nat) (p : Part) : Except Halt ((Nat → Bool × Bool) × Part) :=
  if !maskOn v then .ok (fun _ => (true, false), p)
  else match stashTake (winCore id v) super (tileRow (winBind p.s id v) k) (ceilDiv n 8) p with
    | .error h => .error h
    | .ok (bs, p1) => .ok (fun j => let b := bs.getD (j / 8) (0, false); (natBit b.1 (j % 8), b.2), p1)

/-- R295: run a word on row r of its window. `all` tells that it writes every element, any other only those the mask governs. -/
def rowStep (id : CoreId) (en : Entry) (mask : Option Word) (all : Bool) (f : (Nat → Bool × Bool) → RowVal → RowVal) (p : Part) (r : Nat) :
    Except Halt (State × Word) :=
  let v := en.ops.getLastD 0
  let w := winCore id v
  let t := winBind p.s id v
  let k := winRow v + r
  let n := tileCols t
  match maskTake id en.modes.super (mask.getD 0) k n p with
  | .error h => .error h
  | .ok (m, p1) =>
    match stashTake w en.modes.super (tileRow t k) (4 * n) p1 with
    | .error h => .error h
    | .ok (bs, p2) =>
      let xs := (codesOf 1 bs n).map fun c => ({ bits := BitVec.ofNat 32 c.1, poison := c.2 } : VElt)
      let o := f m { xs := xs, st := mget {} (coreOf p2.s id).stats k }
      let row := o.xs.map fun x => (x.bits.toNat, x.poison)
      let ended : Except Halt Part :=
        if all then stashGive w en.modes.super (tileRow t k) (packRow 1 row) p2
        else giveAll (fun p (x : Pz × Nat) => if m x.2 = (true, false) then .ok p
          else stashGive w en.modes.super (tileRow t k + 4 * x.2) (packRow 1 [x.1]) p) row.zipIdx p2
      match ended with
      | .error h => .error h
      | .ok p3 => .ok (modCore p3.s id fun c => { c with stats := mset {} c.stats k o.st }, o.fl)

/-- R294-R296: a row-engine word with its checks. `mask` tells that it pops MASK, `all` that it writes every element. -/
def rwSpec (opc pops : Nat) (mask all : Bool) (ok : List Word → Bool)
    (f : Entry → (Nat → Bool × Bool) → RowVal → RowVal) : WordSpec :=
  { eng := .rw, opc := opc, pops := pops, src := 0x59
    conds := fun s id ops =>
      let v := op ops (pops - 1)
      winReads s id v && (!(mask && maskOn (op ops 0)) || winReads s id (op ops 0))
    check := fun s id en =>
      let v := op en.ops (pops - 1)
      need 11 (rwWinOk s id v && (!mask || maskOk s id (op en.ops 0) v) && ok en.ops &&
        ((coreOf s id).slotLen = 0 || slotNat (winBind s id v) ≤ (coreOf s id).slotLen.toNat))
    acts := fun _ id ops =>
      let v := op ops (pops - 1)
      (winCore id v, winTile v, .writeDone) ::
        (if mask && maskOn (op ops 0) then [(winCore id (op ops 0), winTile (op ops 0), .readDone)] else [])
    dur := fun s id ops =>
      let v := op ops (pops - 1)
      if chained s id then slotT s id v else rwRows v * slotT s id v
    weight := fun _ _ _ => 3
    cnt := fun _ _ ops => rwRows (op ops (pops - 1))
    run := fun s id en =>
      stepsOf (rwRows (op en.ops (pops - 1))) (rowStep id en (if mask then some (op en.ops 0) else none) all (f en)) (inChain s id en) en }

def rmaxSpec : WordSpec := rwSpec 0 2 true false (fun _ => true) fun en mask r => rowMax en.modes.ftz mask r
def rexpsumSpec : WordSpec := rwSpec 1 1 false true (fun _ => true) fun en _ r => rowExpSum en.modes.ftz r
def rscaleSpec : WordSpec := rwSpec 2 1 false true (fun _ => true) fun en _ r => rowScale en.modes.ftz r
def rmeanSpec : WordSpec := rwSpec 3 1 false false (fun _ => true) fun en _ r => rowMean en.modes.ftz r
def rvarSpec : WordSpec := rwSpec 4 1 false false (fun _ => true) fun en _ r => rowVar en.modes.ftz r
def rnormSpec : WordSpec := rwSpec 5 2 false true (fun ops => (op ops 0).toNat < 2 ^ 32) fun en _ r =>
  rowNorm en.modes.ftz ((op en.ops 0).setWidth 32) r
def rmaskSpec : WordSpec := rwSpec 6 2 true false (fun _ => true) fun _ mask r => { r with xs := rowMask mask r.xs }

def execRmax (f : BitVec 6) (s : State) : Host.Outcome State Fault Refusal := .next (launchWord (.rmax f) rmaxSpec f s)
def execRexpsum (f : BitVec 6) (s : State) : Host.Outcome State Fault Refusal := .next (launchWord (.rexpsum f) rexpsumSpec f s)
def execRscale (f : BitVec 6) (s : State) : Host.Outcome State Fault Refusal := .next (launchWord (.rscale f) rscaleSpec f s)
def execRmean (f : BitVec 6) (s : State) : Host.Outcome State Fault Refusal := .next (launchWord (.rmean f) rmeanSpec f s)
def execRvar (f : BitVec 6) (s : State) : Host.Outcome State Fault Refusal := .next (launchWord (.rvar f) rvarSpec f s)
def execRnorm (f : BitVec 6) (s : State) : Host.Outcome State Fault Refusal := .next (launchWord (.rnorm f) rnormSpec f s)
def execRmask (f : BitVec 6) (s : State) : Host.Outcome State Fault Refusal := .next (launchWord (.rmask f) rmaskSpec f s)

/-- R297: RTTAB. -/
def rttabSpec : WordSpec :=
  { eng := .rw, opc := 7, pops := 1, src := 0x59
    check := fun _ _ en => need 11 ((op en.ops 0).toNat < 256)
    dur := fun _ _ _ => 1
    weight := fun _ _ _ => 3
    cnt := fun _ _ _ => 0
    run := fun s id en => .done (modCore s id fun c => { c with slotLen := (op en.ops 0).setWidth 8 }) en.flags }

/-- R297: RTTAB. -/
def execRttab (f : BitVec 6) (s : State) : Host.Outcome State Fault Refusal := .next (launchWord (.rttab f) rttabSpec f s)

end Sys2Proof.Machine
end

