-- ==== Sys2Proof/Machine/ArrayMul.lean ====
section
/-!
DEFINITION. The matrix array: multiply, load, drain, park and status (12 R234-R256; 18 R352-R355).
-/
namespace Sys2Proof.Machine

def arrayOf (s : State) (id : CoreId) : ArrayImg := (clusOf s (CoreId.cl id)).array
def modArray (s : State) (id : CoreId) (f : ArrayImg → ArrayImg) : State :=
  modClus s (CoreId.cl id) fun cl => { cl with array := f cl.array }
def bankOf (s : State) (id : CoreId) (b : Nat) : Bank := if b = 0 then (arrayOf s id).bank0 else (arrayOf s id).bank1
def modBank (s : State) (id : CoreId) (b : Nat) (f : Bank → Bank) : State :=
  modArray s id fun a => if b = 0 then { a with bank0 := f a.bank0 } else { a with bank1 := f a.bank1 }
/-- R352: the verdict of a bank begins afresh when it is overwritten. -/
def freshVerdict (s : State) (id : CoreId) (b : Nat) : State :=
  modArray s id fun a => { a with verdictFail := setBit a.verdictFail b false }
def verdictBad (s : State) (id : CoreId) (b : Nat) : Bool := (arrayOf s id).verdictFail.getLsbD b

/-- Word (i, j) of a bank: partial p of the element (R239). -/
def bankGet (b : Bank) (p i j : Nat) : BitVec 32 :=
  if p = 0 then mget 0 b.w (128 * i + j) else (mget none b.parts (16384 * p + 128 * i + j)).getD 0
def bankPut (b : Bank) (p i j : Nat) (v : BitVec 32) : Bank :=
  if p = 0 then { b with w := mset 0 b.w (128 * i + j) v }
  else { b with parts := mset none b.parts (16384 * p + 128 * i + j) (some v) }

/-- R240: a folded bank combined; the flags of the additions. -/
def combineBank (ftz : Bool) (b : Bank) : Bank × Word :=
  if b.fold = 0 then (b, 0)
  else
    let add (x y : BitVec 32) : BitVec 32 × Word := if b.int then (x + y, 0) else rAdd ftz x y
    let r := b.parts.foldl (fun (a : Bank × Word) e =>
      if e.1 < 16384 || 32768 ≤ e.1 then a
      else
        let i := (e.1 - 16384) / 128
        let j := e.1 % 128
        let x := add (bankGet b 0 i j) (bankGet b 1 i j)
        if b.fold = 2 then
          let y := add (bankGet b 2 i j) (bankGet b 3 i j)
          let z := add x.1 y.1
          (bankPut a.1 0 i j z.1, a.2 ||| x.2 ||| y.2 ||| z.2)
        else (bankPut a.1 0 i j x.1, a.2 ||| x.2)) (b, 0)
    ({ r.1 with fold := 0, parts := [] }, r.2)

/-- R235: fields of a descriptor; rank, tile and binding are those of a window (R281). -/
def dHeld (v : Word) : Bool := v.getLsbD 11
def dHold (v : Word) : Bool := v.getLsbD 10
/-- R244: a descriptor names a bound tile of a core of the team and sets no other bit. -/
def descOk (s : State) (id : CoreId) (v mask : Word) : Bool :=
  onlyBits v mask && rankOk s id (bitsAt v 8 2) && (winBind s id v).bound
/-- The tile supplies rows x cols, or cols x rows when read transposed. -/
def supplies (t : Tile) (trans : Bool) (rows cols : Nat) : Bool :=
  if trans then cols ≤ tileRows t && rows ≤ tileCols t else rows ≤ tileRows t && cols ≤ tileCols t

/-- An operand element as read: its value, bad, and in a zero block (R241). -/
structure Opnd where
  v : Num
  bad : Bool := false
  zero : Bool := false

/-- R241, R242: the block of element (i, j) is a zero block, one for a bad scale among them. -/
def zeroBlock (g : Grid) (i j : Nat) : Bool :=
  let zero (e : Elt) : Bool := e.poison || numIsZero (mxValue e.sc e.code)
  isBlocked g.fmt && (((g.scs.getD (i / blkRows g.fmt) []).getD (j / blkCols g.fmt) (0, false)).2 ||
    (if isSq g.fmt then sqE (BitVec.ofNat 16 (gridElt g i j).sc) = 0
     else (List.range 32).all fun k => zero (gridElt g i (j / 32 * 32 + k))))

/-- R236: an operand of rows x cols as its grid gives it, read transposed or not, exactly. -/
def opndOf (g : Grid) (trans : Bool) (rows cols : Nat) : List (List Opnd) :=
  tab rows cols fun i j =>
    let r := if trans then j else i
    let k := if trans then i else j
    let bad := (gridElt g r k).poison
    { v := if bad then .fin false 0 0 else gridNum g false r k, bad := bad, zero := zeroBlock g r k }

/-- R236, R241: an operand of rows x cols read from a tile of a core: MXFP4 in whole blocks, each judged whole. -/
def opndTake (c : CoreId) (super : Bool) (t : Tile) (trans : Bool) (rows cols : Nat) (p : Part) : Except Halt (List (List Opnd) × Part) :=
  let n := if trans then rows else cols
  match tileTake c super t 0 (if trans then cols else rows) 0 (if t.fmt = 5 then ceilDiv n 32 * 32 else n) p with
  | .error h => .error h
  | .ok (g, p1) => .ok (opndOf g trans rows cols, p1)

/-- The bad elements of an operand by their place in the tile, row by row. -/
def badElts (m : List (List Opnd)) (trans : Bool) : List (Nat × Nat) :=
  let r := m.length
  let c := (m.headD []).length
  let bad (i j : Nat) : Bool := match (m.getD i [])[j]? with | some o => o.bad | none => false
  if trans then (List.range c).flatMap fun i => (List.range r).filterMap fun j => if bad j i then some (i, j) else none
  else (List.range r).flatMap fun i => (List.range c).filterMap fun j => if bad i j then some (i, j) else none

/-- An operand's bad elements: operand B, its core, its tile and the places. -/
abbrev BadList := List (Bool × CoreId × Tile × List (Nat × Nat))

/-- R242: the stash address of an element of a tile. -/
def eltStash (c : CoreId) (t : Tile) (i j : Nat) : Nat := c.rank * 2 ^ 21 + tileRow t i + j * eltBits t.fmt / 8

/-- R242, R253: OPZ, SUBN, the first-substitution record, and the class 4 record of the word. -/
def substitute (s : State) (id : CoreId) (en : Entry) (bads : BadList) : State :=
  match bads.flatMap fun b => b.2.2.2.map fun p => (b.1, b.2.1, b.2.2.1, p) with
  | [] => s
  | l@((opB, c, t, p) :: _) =>
    let s1 := modArray s id fun a =>
      { a with
        opz := true
        subn := BitVec.ofNat 32 (Nat.min (a.subn.toNat + l.length) (2 ^ 32 - 1))
        subv := true
        subop := if a.subv then a.subop else opB
        subr := if a.subv then a.subr else BitVec.ofNat 7 p.1
        subc := if a.subv then a.subc else BitVec.ofNat 7 p.2
        subent := if a.subv then a.subent else en.index }
    let s2 := (logErr s1 (unitRec s1 id
      { cls := 4, sev := 1, kind := 5, unit := id.clus * 4 + id.rank, die := id.die,
        va := BitVec.ofNat 64 (eltStash c t p.1 p.2), ctx := 0x12, entry := some (2 * 2 ^ 16 + en.index.toNat) })).2
    count s2 id 0x52 l.length en.modes.super

/-- R82: a subnormal input under FTZ, by its format. -/
def flushElt (fmt : BitVec 4) (ftz : Bool) (v : Num) : Num :=
  match v with
  | .fin s m e =>
    let emin : Int := if fmt = 3 then -6 else if fmt = 4 then -14 else -126
    if ftz && 1 ≤ fmt.toNat && fmt.toNat ≤ 4 && m ≠ 0 && decide (e + bitLen m - 1 < emin) then .fin s 0 0 else v
  | _ => v

/-- R237: a format pair's group size, cycles per group, and whether its bank is INT32. -/
def pairOf (a b : BitVec 4) : Option (Nat × Nat × Bool) :=
  let fp8 (f : BitVec 4) : Bool := f = 3 || f = 4
  let sq24 (f : BitVec 4) : Bool := f = 6 || f = 7
  if a = 1 && b = 1 then some (1, 4, false)
  else if a = 2 && b = 2 then some (2, 2, false)
  else if (fp8 a && fp8 b) || (a = 8 && b = 8) then some (4, 2, false)
  else if a = 9 && b = 9 then some (4, 2, true)
  else if (a = 5 && b = 5) || (sq24 a && sq24 b) then some (8, 2, false)
  else none

/-- R413: the weight of a multiplying word by its pair. -/
def pairWeight (a b : BitVec 4) : Nat :=
  match pairOf a b with
  | some (8, _, _) => 32
  | some (4, _, _) => 30
  | some (2, _, _) => 28
  | some (1, _, _) => 24
  | _ => 8

/-- R239: the fold mode and its factor. -/
def foldMode (fold : Bool) (m n : Nat) : BitVec 2 × Nat :=
  if !fold || n = 1 then (0, 1)
  else if n ≤ 32 then (2, 4)
  else if n ≤ 64 then (1, 2)
  else if m ≤ 64 then (3, 2) else (0, 1)

/-- R238: one group into an FP32 accumulator. -/
def stepFp (ftz neg : Bool) (acc : BitVec 32) (ps : List (Num × Num)) : BitVec 32 × Word :=
  let g0 := ps.foldl (fun (x : Num) p => (numAdd 0 x (numMul p.1 p.2).1).1) (.fin false 0 0)
  let g := if neg then numNeg g0 else g0
  if numIsNan g then (0x7FC00000, flagIf (!ps.any fun p => numIsNan p.1 || numIsNan p.2) flNV)
  else if numIsZero g then (acc, 0)
  else rOp ftz (numAdd 0 (dec32 ftz acc) g)

/-- The integer of an INT8 element. -/
def numInt (v : Num) : Int :=
  match v with
  | .fin s m e => numAt s m e 0
  | _ => 0

/-- R238: one group into an INT32 accumulator. -/
def stepInt (neg : Bool) (acc : BitVec 32) (ps : List (Num × Num)) : BitVec 32 × Word :=
  let g := (ps.map fun p => numInt p.1 * numInt p.2).sum
  (acc + BitVec.ofInt 32 (if neg then -g else g), 0)

/-- R238: the groups of [lo, hi) in ascending order. -/
def dotGo (step : BitVec 32 → List (Num × Num) → BitVec 32 × Word) (ps : List (Num × Num)) (g hi : Nat) :
    Nat → Nat → BitVec 32 × Word → BitVec 32 × Word
  | 0, _, r => r
  | n + 1, lo, r =>
    if hi ≤ lo then r
    else
      let x := step r.1 ((ps.drop lo).take (Nat.min g (hi - lo)))
      dotGo step ps g hi n (lo + g) (x.1, r.2 ||| x.2)

/-- A multiplication on a bank (R238, R240): extents, group size, fold factor, the rows of A and the columns of B with the place of
those that hold a bad element, and whether the bank is a clean one of the other type (log 19). -/
structure MulJob where
  m : Nat
  n : Nat
  k : Nat
  g : Nat
  f : Nat
  lower : Bool
  a : List (List Num)
  b : List (List Num)
  badA : List Bool
  badB : List Bool
  other : Bool := false

/-- R240: the k range of partial p. -/
def partRange (j : MulJob) (p : Nat) : Nat × Nat :=
  let q := ceilDiv (ceilDiv j.k j.g) j.f
  (p * q * j.g, Nat.min ((p + 1) * q * j.g) j.k)

/-- R85: rows of an operand that hold a bad element. -/
def badRows (m : List (List Opnd)) : List Bool := m.map fun r => r.any (·.bad)

/-- R238, R240: every partial of every element; one with a bad input sets no flag (R85). -/
def mulBank (step : BitVec 32 → List (Num × Num) → BitVec 32 × Word) (j : MulJob) (b : Bank) : Bank × Word :=
  (List.range j.m).foldl (fun r i =>
    (List.range (if j.lower then i + 1 else j.n)).foldl (fun r c =>
      let ps := (j.a.getD i []).zip (j.b.getD c [])
      (List.range j.f).foldl (fun (r : Bank × Word) p =>
        let rg := partRange j p
        let w := bankGet r.1 p i c
        let x := dotGo step ps j.g rg.2 j.k rg.1 (if j.other && p = 0 then Config.bankOther w else w, 0)
        (bankPut r.1 p i c x.1, if j.badA.getD i false || j.badB.getD c false then r.2 else r.2 ||| x.2)) r) r) (b, 0)

/-- R241: group t of element (i, c) is skipped: on one side it lies in zero blocks, on the other in finite ones. -/
def skipsGroup (j : MulJob) (a b : List (List Opnd)) (i c t : Nat) : Bool :=
  let w := (((a.getD i []).zip (b.getD c [])).drop (t * j.g)).take j.g
  let finite (o : Opnd) : Bool := o.zero || !numIsNan o.v
  w.all (fun p => p.1.zero && finite p.2) || w.all fun p => p.2.zero && finite p.1

/-- The elements a word computes. -/
def mulCells (j : MulJob) : List (Nat × Nat) :=
  (List.range j.m).flatMap fun i => (List.range (if j.lower then i + 1 else j.n)).map fun c => (i, c)

/-- R241: the groups skipped. -/
def skipGroups (j : MulJob) (a b : List (List Opnd)) : Nat :=
  ((mulCells j).map fun e => ((List.range (ceilDiv j.k j.g)).filter (skipsGroup j a b e.1 e.2)).length).sum

/-- R413: what a multiplying word draws in its group steps, for each of the cyc cycles of a step: the weight's share of the groups
that are not skipped, rounded up (DESIGN CHOICE, log 51). -/
def groupDraws (weight cyc : Nat) (j : MulJob) (a b : List (List Opnd)) : List Nat :=
  let s := ceilDiv j.k j.g
  let q := ceilDiv s j.f
  (List.range q).flatMap fun t =>
    let gs := (mulCells j).flatMap fun e => ((List.range j.f).filter fun p => p * q + t < s).map fun p => skipsGroup j a b e.1 e.2 (p * q + t)
    List.replicate cyc (ceilDiv (weight * (gs.filter (!·)).length) gs.length)

/-- R240, R245: the bank a multiplying word starts from under a mode, and the flags of a combination. MSYRK combines a folded bank
even where it overwrites it. Under ACC = 1 the bank keeps its type (log 19). -/
def startBank (acc int ftz always : Bool) (mode : BitVec 2) (b : Bank) : Bank × Word :=
  if !acc then ({ int := int }, if always then (combineBank ftz b).2 else 0)
  else if b.fold ≠ 0 && b.fold ≠ mode then combineBank ftz b else (b, 0)

/-- R238-R245: run a multiplication on a bank of the array. -/
def mulOn (s : State) (id : CoreId) (en : Entry) (b : Nat) (acc neg int always : Bool) (mode : BitVec 2) (j : MulJob) : State × Word :=
  let k := bankOf s id b
  let x := startBank acc int en.modes.ftz always mode k
  let r := mulBank (if int then stepInt neg else stepFp en.modes.ftz neg) { j with other := acc && k.int != int } x.1
  let s1 := if acc then s else freshVerdict s id b
  (modBank s1 id b fun _ => { r.1 with fold := mode, dirty := true }, x.2 ||| r.2)

/-- Fields of the control word of R245. -/
def mcM (v : Word) : Nat := bitsAt v 0 7 + 1
def mcN (v : Word) : Nat := bitsAt v 7 7 + 1
def mcK (v : Word) : Nat := bitsAt v 14 7 + 1
def mcTa (v : Word) : Bool := v.getLsbD 21
def mcTb (v : Word) : Bool := v.getLsbD 22
def mcBank (v : Word) : Nat := bitsAt v 23 1
def mcAcc (v : Word) : Bool := v.getLsbD 24
def mcFold (v : Word) : Bool := v.getLsbD 25
def mcNeg (v : Word) : Bool := v.getLsbD 26

/-- The format of operand B of MMA. -/
def mmaFmtB (s : State) (id : CoreId) (b : Word) : BitVec 4 :=
  if dHeld b then (match (clusOf s (CoreId.cl id)).held with | some h => h.fmt | none => 0) else (winBind s id b).fmt

/-- R236, R244: operand B of MMA is a tile or the held operand, of n columns and k rows; the held format is judged by the pair it
forms with A (DESIGN CHOICE, log 141). -/
def mmaBOk (s : State) (id : CoreId) (b : Word) (ctl : Word) : Bool :=
  if dHeld b then
    onlyBits b 0xC00 && (match (clusOf s (CoreId.cl id)).held with | some h => h.k = mcK ctl && h.n = mcN ctl | none => false)
  else descOk s id b 0x73F && supplies (winBind s id b) (mcTb ctl) (mcK ctl) (mcN ctl)

/-- R244: ACC = 1 into a dirty bank keeps its type. -/
def typeOk (s : State) (id : CoreId) (b : Nat) (acc int : Bool) : Bool :=
  let k := bankOf s id b
  !(acc && k.dirty && k.int != int)

/-- Transpose a list of equal rows. -/
def columns (n : Nat) (m : List (List Opnd)) : List (List Opnd) := (List.range n).map fun j => m.filterMap fun r => r[j]?

/-- R245, R355: operand B as k x n; `replay` reads the source of the held operand afresh. -/
def mmaB (id : CoreId) (super replay : Bool) (b ctl : Word) (p : Part) : Except Halt (List (List Opnd) × Part) :=
  if !dHeld b then opndTake (winCore id b) super (winBind p.s id b) (mcTb ctl) (mcK ctl) (mcN ctl) p
  else match (clusOf p.s (CoreId.cl id)).held with
  | none => .ok ([], p)
  | some h =>
    if replay then
      let c := coreAt (CoreId.cl id) h.rank
      opndTake c super (tileOf p.s c h.tile) h.trans h.k h.n p
    else .ok (tab h.k h.n fun r c => { v := mget (.fin false 0 0) h.vals (128 * r + c), zero := mget false h.zeros (128 * r + c) }, p)

/-- R245, R355: the copy that HOLD takes. -/
def holdOf (id : CoreId) (fmt : BitVec 4) (b ctl : Word) (m : List (List Opnd)) : Held :=
  let cells := m.zipIdx.flatMap fun r => r.1.zipIdx.map fun o => (128 * r.2 + o.2, o.1)
  { fmt := fmt, k := mcK ctl, n := mcN ctl
    vals := cells.foldl (fun a c => mset (.fin false 0 0) a c.1 c.2.v) []
    zeros := cells.foldl (fun a c => mset false a c.1 c.2.zero) []
    rank := (winCore id b).rank, tile := winTile b, trans := mcTb ctl }

/-- The values of an operand for a word. -/
def opndVals (fmt : BitVec 4) (ftz : Bool) (m : List (List Opnd)) : List (List Num) :=
  m.map fun r => r.map fun o => flushElt fmt ftz o.v

/-- The multiplication that MMA asks for. -/
def mmaJob (fa fb : BitVec 4) (ftz : Bool) (ctl : Word) (A B : List (List Opnd)) : MulJob :=
  { m := mcM ctl, n := mcN ctl, k := mcK ctl, g := ((pairOf fa fb).getD (1, 4, false)).1
    f := (foldMode (mcFold ctl) (mcM ctl) (mcN ctl)).2, lower := false
    a := opndVals fa ftz A, b := opndVals fb ftz B, badA := badRows A, badB := badRows B }

/-- The operands of MMA: A by rows, B as it is read. -/
def mmaTake (id : CoreId) (super replay : Bool) (a b ctl : Word) (p : Part) : Except Halt (List (List Opnd) × List (List Opnd) × Part) :=
  match opndTake (winCore id a) super (winBind p.s id a) (mcTa ctl) (mcM ctl) (mcK ctl) p with
  | .error h => .error h
  | .ok (A, p1) =>
    match mmaB id super replay b ctl p1 with
    | .error h => .error h
    | .ok (B, p2) => .ok (A, B, p2)

/-- R245: the effect of MMA. -/
def mmaStep (replay : Bool) (id : CoreId) (en : Entry) (p : Part) : Except Halt (State × Word) :=
  let a := op en.ops 0
  let b := op en.ops 1
  let ctl := op en.ops 2
  match mmaTake id en.modes.super replay a b ctl p with
  | .error h => .error h
  | .ok (A, B, p1) =>
    let s := p1.s
    let ta := winBind s id a
    let fb := mmaFmtB s id b
    let bads : BadList := [(false, winCore id a, ta, badElts A (mcTa ctl))] ++
      (if dHeld b then [] else [(true, winCore id b, winBind s id b, badElts B (mcTb ctl))])
    let BC := columns (mcN ctl) B
    let j := mmaJob ta.fmt fb en.modes.ftz ctl A BC
    let s1 := if dHold b && !dHeld b && !replay then
        modClus s (CoreId.cl id) fun cl => { cl with held := some (holdOf id fb b ctl B) } else s
    let int := ((pairOf ta.fmt fb).getD (1, 4, false)).2.2
    let r := mulOn s1 id en (mcBank ctl) (mcAcc ctl) (mcNeg ctl) int false (foldMode (mcFold ctl) (mcM ctl) (mcN ctl)).1 j
    let s2 := if (coreOf s id).esel.isEmpty || !isBlocked fb then r.1 else count r.1 id 0x51 (skipGroups j A BC) en.modes.super
    .ok (substitute s2 id en bads, r.2)
def mmaRun (replay : Bool) (s : State) (id : CoreId) (en : Entry) : Run := stepsOf 1 (fun p _ => mmaStep replay id en p) s en

/-- R241, R413: what MMA draws; only scaled operands are ever skipped. -/
def mmaDraws (s : State) (id : CoreId) (ops : List Word) : List Nat :=
  let a := op ops 0
  let b := op ops 1
  let ctl := op ops 2
  let fa := (winBind s id a).fmt
  let fb := mmaFmtB s id b
  if !isBlocked fa then []
  else match mmaTake id false false a b ctl { s := s } with
    | .error _ => []
    | .ok (A, B, _) =>
      let BC := columns (mcN ctl) B
      groupDraws (pairWeight fa fb) ((pairOf fa fb).getD (1, 4, false)).2.1 (mmaJob fa fb false ctl A BC) A BC

/-- R254: 32 cycles for each operand in another core's stash. -/
def mmaP (id : CoreId) (a b : Word) : Nat := peerCost id a + (if dHeld b then 0 else peerCost id b)

/-- R244, R245: MMA. A nonzero reserved bit of its CTL, and of that of any word here, raises ENGERR 10 (DESIGN CHOICE, log 140). -/
def mmaSpec : WordSpec :=
  { eng := .mx, opc := 0x00, pops := 3, src := 0x50
    conds := fun s id ops =>
      let a := op ops 0
      let b := op ops 1
      winReads s id a && (dHeld b || winReads s id b)
    check := fun s id en =>
      let a := op en.ops 0
      let b := op en.ops 1
      let ctl := op en.ops 2
      let ta := winBind s id a
      need 10 (onlyBits ctl 0x7FFFFFF && descOk s id a 0x33F && mmaBOk s id b ctl && supplies ta (mcTa ctl) (mcM ctl) (mcK ctl) &&
        (match pairOf ta.fmt (mmaFmtB s id b) with | some p => typeOk s id (mcBank ctl) (mcAcc ctl) p.2.2 | none => false))
    acts := fun _ id ops =>
      let a := op ops 0
      let b := op ops 1
      (winCore id a, winTile a, .readDone) :: (if dHeld b then [] else [(winCore id b, winTile b, .readDone)])
    dur := fun s id ops =>
      let a := op ops 0
      let b := op ops 1
      let ctl := op ops 2
      let p := (pairOf (winBind s id a).fmt (mmaFmtB s id b)).getD (1, 4, false)
      let q := if mcFold ctl && mcN ctl = 1 then 1 else ceilDiv (ceilDiv (mcK ctl) p.1) (foldMode (mcFold ctl) (mcM ctl) (mcN ctl)).2
      Nat.max 8 (p.2.1 * q) + mmaP id a b
    weight := fun s id ops => pairWeight (winBind s id (op ops 0)).fmt (mmaFmtB s id (op ops 1))
    draws := mmaDraws
    run := mmaRun false }

/-- R245: MMA. -/
def execMma (f : BitVec 6) (s : State) : Host.Outcome State Fault Refusal := .next (launchWord (.mma f) mmaSpec f s)

/-- The multiplication that MSYRK asks for. -/
def msyrkJob (fmt : BitVec 4) (ftz : Bool) (ctl : Word) (A : List (List Opnd)) : MulJob :=
  let v := opndVals fmt ftz A
  { m := mcN ctl, n := mcN ctl, k := mcK ctl, g := ((pairOf fmt fmt).getD (1, 4, false)).1, f := 1, lower := true
    a := v, b := v, badA := badRows A, badB := badRows A }

/-- R246: the effect of MSYRK. -/
def msyrkStep (id : CoreId) (en : Entry) (p : Part) : Except Halt (State × Word) :=
  let a := op en.ops 0
  let ctl := op en.ops 1
  let t := winBind p.s id a
  match opndTake (winCore id a) en.modes.super t (mcTa ctl) (mcN ctl) (mcK ctl) p with
  | .error h => .error h
  | .ok (A, p1) =>
    let s := p1.s
    let j := msyrkJob t.fmt en.modes.ftz ctl A
    let r := mulOn s id en (mcBank ctl) (mcAcc ctl) (mcNeg ctl) ((pairOf t.fmt t.fmt).getD (1, 4, false)).2.2 true 0 j
    let s2 := if (coreOf s id).esel.isEmpty || !isBlocked t.fmt then r.1 else count r.1 id 0x51 (skipGroups j A A) en.modes.super
    .ok (substitute s2 id en [(false, winCore id a, t, badElts A (mcTa ctl))], r.2)
def msyrkRun (s : State) (id : CoreId) (en : Entry) : Run := stepsOf 1 (fun p _ => msyrkStep id en p) s en

/-- R241, R413: what MSYRK draws. -/
def msyrkDraws (s : State) (id : CoreId) (ops : List Word) : List Nat :=
  let t := winBind s id (op ops 0)
  let ctl := op ops 1
  if !isBlocked t.fmt then []
  else match opndTake (winCore id (op ops 0)) false t (mcTa ctl) (mcN ctl) (mcK ctl) { s := s } with
    | .error _ => []
    | .ok (A, _) => groupDraws 24 ((pairOf t.fmt t.fmt).getD (1, 4, false)).2.1 (msyrkJob t.fmt false ctl A) A A

/-- R244, R246: MSYRK. -/
def msyrkSpec : WordSpec :=
  { eng := .mx, opc := 0x06, pops := 2, src := 0x50
    conds := fun s id ops => winReads s id (op ops 0)
    check := fun s id en =>
      let a := op en.ops 0
      let ctl := op en.ops 1
      let t := winBind s id a
      need 10 (onlyBits ctl 0x5BFFFFF && mcM ctl = mcN ctl && descOk s id a 0x33F && supplies t (mcTa ctl) (mcN ctl) (mcK ctl) &&
        (match pairOf t.fmt t.fmt with | some p => typeOk s id (mcBank ctl) (mcAcc ctl) p.2.2 | none => false))
    acts := fun _ id ops => [(winCore id (op ops 0), winTile (op ops 0), .readDone)]
    dur := fun s id ops =>
      let t := winBind s id (op ops 0)
      let p := (pairOf t.fmt t.fmt).getD (1, 4, false)
      Nat.max 8 (p.2.1 * ceilDiv (mcK (op ops 1)) p.1) + peerCost id (op ops 0)
    weight := fun _ _ _ => 24
    draws := msyrkDraws
    run := msyrkRun }

/-- R246: MSYRK. -/
def execMsyrk (f : BitVec 6) (s : State) : Host.Outcome State Fault Refusal := .next (launchWord (.msyrk f) msyrkSpec f s)

/-- R247: MZERO. -/
def mzeroSpec : WordSpec :=
  { eng := .mx, opc := 0x01, pops := 1, src := 0x50
    check := fun _ _ en => need 10 (onlyBits (op en.ops 0) 0x3)
    dur := fun _ _ _ => 8
    weight := fun _ _ _ => 8
    run := fun s id en =>
      let ctl := op en.ops 0
      let b := bitsAt ctl 0 1
      .done (modBank (freshVerdict s id b) id b fun _ => { int := ctl.getLsbD 1, dirty := true }) en.flags }

/-- R247: MZERO. -/
def execMzero (f : BitVec 6) (s : State) : Host.Outcome State Fault Refusal := .next (launchWord (.mzero f) mzeroSpec f s)

/-- R247: fields of MLOADC's control word. -/
def lcM (v : Word) : Nat := bitsAt v 1 7 + 1
def lcN (v : Word) : Nat := bitsAt v 8 7 + 1

/-- R247, R72: the bank word of a tile element; widening a BF16 code flushes a subnormal under FTZ. -/
def loadcWord (ftz : Bool) (fmt : BitVec 4) (code : Nat) : BitVec 32 :=
  if fmt = 2 then exact32 (decElt 2 ftz code)
  else if fmt = 9 then (BitVec.ofNat 8 code).signExtend 32
  else BitVec.ofNat 32 code

/-- R247: the effect of MLOADC; it combines a folded bank, though it overwrites it (R240). -/
def mloadcStep (id : CoreId) (en : Entry) (p : Part) : Except Halt (State × Word) :=
  let a := op en.ops 0
  let ctl := op en.ops 1
  let t := winBind p.s id a
  match tileRowsTake (winCore id a) en.modes.super t (lcM ctl) (lcN ctl) p with
  | .error h => .error h
  | .ok (g, p1) =>
    let b := bitsAt ctl 0 1
    let cells := (List.range (lcM ctl)).flatMap fun i => (List.range (lcN ctl)).map fun j => (i, j)
    let k := cells.foldl (fun (k : Bank) c =>
      let e := gridElt g c.1 c.2
      bankPut k 0 c.1 c.2 (if e.poison then 0 else loadcWord en.modes.ftz t.fmt e.code)) { int := t.fmt = 9, dirty := true }
    .ok (substitute (modBank (freshVerdict p1.s id b) id b fun _ => k) id en
      [(false, winCore id a, t, cells.filter fun c => (gridElt g c.1 c.2).poison)], (combineBank en.modes.ftz (bankOf p1.s id b)).2)
def mloadcRun (s : State) (id : CoreId) (en : Entry) : Run := stepsOf 1 (fun p _ => mloadcStep id en p) s en

/-- R247: MLOADC. -/
def mloadcSpec : WordSpec :=
  { eng := .mx, opc := 0x02, pops := 2, src := 0x50
    conds := fun s id ops => winReads s id (op ops 0)
    check := fun s id en =>
      let a := op en.ops 0
      let ctl := op en.ops 1
      let t := winBind s id a
      need 10 (onlyBits ctl 0x7FFF && descOk s id a 0x33F && supplies t false (lcM ctl) (lcN ctl) && (t.fmt = 1 || t.fmt = 2 || t.fmt = 9))
    acts := fun _ id ops => [(winCore id (op ops 0), winTile (op ops 0), .readDone)]
    dur := fun _ id ops => Nat.max 8 (lcM (op ops 1)) + peerCost id (op ops 0)
    tail := fun _ _ _ => 4
    weight := fun _ _ _ => 8
    run := mloadcRun }

/-- R247: MLOADC. -/
def execMloadc (f : BitVec 6) (s : State) : Host.Outcome State Fault Refusal := .next (launchWord (.mloadc f) mloadcSpec f s)

/-- Fields of MDRAIN's control word (R248). -/
def dcBank (v : Word) : Nat := bitsAt v 0 1
def dcDest (v : Word) : Nat := bitsAt v 1 2
def dcAcc (v : Word) : Bool := v.getLsbD 3
def dcClamp (v : Word) : Bool := v.getLsbD 4
def dcM (v : Word) : Nat := bitsAt v 5 7 + 1
def dcN (v : Word) : Nat := bitsAt v 12 7 + 1
def dcFmt (v : Word) : BitVec 4 := v.extractLsb' 19 4
def dcDelta (v : Word) : Int := (v.extractLsb' 23 8).toInt
def dcCl (v : Word) : BitVec 32 := v.extractLsb' 32 32

/-- R248: the region of a drain to memory; a raw element is four bytes. -/
def drainRegion (ops : List Word) : Region :=
  let ctl := op ops 2
  { va := (op ops 1).toNat, pitch := bitsAt (op ops 0) 0 32, fmt := dcFmt ctl, rows := dcM ctl,
    cols := if dcFmt ctl = 0 then 4 * dcN ctl else dcN ctl }

/-- R249: the rules that do not depend on the destination. -/
def drainOk (int : Bool) (ctl : Word) : Bool :=
  let fmt := dcFmt ctl
  !ctl.getLsbD 31 && fmt.toNat ≤ 9 && !(dcAcc ctl && (int || fmt ≠ 1)) &&
    !(dcCl ctl).getLsbD 31 && !numIsNan (dec32 false (dcCl ctl)) && !(dcClamp ctl && int) &&
    !(dcDelta ctl ≠ 0 && (int || fmt = 0)) && !(int && fmt ≠ 0 && fmt ≠ 1 && fmt ≠ 9) &&
    !(isSq fmt && (dcM ctl % 4 ≠ 0 || dcN ctl % 4 ≠ 0)) && !(fmt = 5 && dcN ctl % 32 ≠ 0)

/-- R248, R249: the destination is accepted; a scaled region that passes the end of its row or page is not (DESIGN CHOICE, log 142). -/
def drainDstOk (s : State) (id : CoreId) (ops : List Word) : Bool :=
  let aux := op ops 0
  let dst := op ops 1
  let ctl := op ops 2
  let fmt := dcFmt ctl
  let r := drainRegion ops
  if dcDest ctl = 0 then aux = 0 && dst = 0 && (fmt = 0 || fmt = 1)
  else if dcDest ctl = 1 then
    onlyBits aux 0xFFFF000000000000 && descOk s id dst 0x33F && (winBind s id dst).fmt = fmt &&
      supplies (winBind s id dst) false (dcM ctl) r.cols
  else if dcDest ctl = 2 then
    let es := if fmt = 0 then 4 else eltBits fmt / 8
    bitsAt aux 32 16 = 0 && regionRow r ≤ r.pitch &&
      (if isBlocked fmt then !regionBad s id r else r.va % es = 0 && r.pitch % es = 0)
  else false

/-- R250: c(y). -/
def clampNum (cl y : Num) : Num := if numLt cl y then cl else if numLt y (numNeg cl) then numNeg cl else y

/-- R250: a drained value: exact, added to the old value, clamped. -/
def drainNum (m : Modes) (int : Bool) (ctl : Word) (w : BitVec 32) (old : Option (BitVec 32)) : Num × Word :=
  let v := if int then numOfInt false w.toInt 0 else dec32 m.ftz w
  let x := numScale (dcDelta ctl) v
  let y := match old with | some o => numAdd 0 (dec32 m.ftz o) x | none => (x, 0)
  (if dcClamp ctl then clampNum (dec32 m.ftz (dcCl ctl)) y.1 else y.1, y.2)

/-- R250: rows [i, i + n) of a bank as a grid of the destination's format; `old` gives the element before
and its poison, `addr` its address. -/
def drainGrid (m : Modes) (ctl aux : Word) (b : Bank) (i n : Nat) (old : Nat → Nat → BitVec 32 × Bool) (addr : Nat → Nat → Nat) :
    Grid × Word :=
  let fmt := dcFmt ctl
  let word (r j : Nat) : BitVec 32 := bankGet b 0 (i + r) j
  let rm : BitVec 3 := if dcAcc ctl || dcDest ctl = 0 then 0 else m.rm
  let t : Target := { fmt := fmt, rm := rm, ftz := m.ftz, seed := m.seed, stamp := aux.extractLsb' 48 16, addr := fun r j => addr (i + r) j }
  if fmt = 0 then
    ({ fmt := 0, rows := (List.range n).map fun r => (List.range (dcN ctl)).flatMap fun j =>
        (leBytes 4 (word r j).toNat).map fun x => (x.toNat, false), scs := [] }, 0)
  else if isBlocked fmt then
    let g := convTo t n (dcN ctl) fun r j =>
      let v := dec32 m.ftz (word r j)
      (if dcClamp ctl then numScale (-dcDelta ctl) (drainNum m false ctl (word r j) none).1 else v, false)
    let h := composeGrid (dcDelta ctl) g.1
    (h.1, g.2 ||| h.2)
  else
    let cells := tab n (dcN ctl) fun r j =>
      let o := old (i + r) j
      let v := drainNum m b.int ctl (word r j) (if dcAcc ctl then some o.1 else none)
      let c := encElt fmt rm (targetZ t r j) m.ftz v.1
      let p := dcAcc ctl && o.2
      ((c.1, p), if p then (0 : Word) else v.2 ||| c.2)
    ({ fmt := fmt, rows := cells.map fun r => r.map (·.1), scs := [] }, orFlags (cells.flatMap fun r => r.map (·.2)))

/-- R240, R250: combine a bank of the array. -/
def combineOn (s : State) (id : CoreId) (ftz : Bool) (b : Nat) : State × Word :=
  let r := combineBank ftz (bankOf s id b)
  (modBank s id b fun _ => r.1, r.2)

/-- R240, R250: an effect on combined banks; the flags of the combination are the word's. -/
def onCombined (k : State → CoreId → Entry → Run) (bs : List Nat) (s : State) (id : CoreId) (en : Entry) : Run :=
  let c := bs.foldl (fun r b => let c := combineOn r.1 id en.modes.ftz b; (c.1, r.2 ||| c.2)) (s, 0)
  k c.1 id { en with flags := en.flags ||| c.2 }

/-- R250: the bank of a finished drain is clean. -/
def drainEnd (id : CoreId) (b : Nat) (r : Run) : Run :=
  match r with
  | .done s fl => .done (modBank s id b fun k => { k with dirty := false }) fl
  | x => x

/-- R353: record the rows that an accumulating drain commits. -/
def commitRows (s : State) (id : CoreId) (index : BitVec 16) (rows : List Nat) : State := modQueue s id .mx (noteRows index rows)

/-- R353: the rows that an accumulating drain has committed. -/
def committedOf (s : State) (id : CoreId) (index : BitVec 16) : List Nat :=
  match (queueOf s id .mx).window.find? fun w => w.entry.index = index with
  | some w => w.committed
  | none => []

/-- R255: L. -/
def drainL (b : Bank) : Nat := if b.fold = 0 then 132 else 136

/-- R352: the verdict of a drain stands 8 cycles after its last row is read, a row each cycle (DEDUCED, log 139); its rows are
committed from then on, one in a cycle. -/
def verdictAt (en : Entry) (m : Nat) : Nat := en.startAt + m + 7

/-- R255: a drain to the result buffer: each row with its cycle, l cycles after the start and on, also where that lies before the verdict
(DESIGN CHOICE, log 139). -/
def drainBuf (skip : List Nat) (l : Nat) (s : State) (id : CoreId) (en : Entry) : Run :=
  let ctl := op en.ops 2
  let n := dcN ctl
  let late := landed 0 (en.startAt + l + dcM ctl) (coreOf s id)
  let g := drainGrid en.modes ctl 0 (bankOf s id (dcBank ctl)) 0 (dcM ctl)
    (fun i j => (mget 0 late.rbuf (128 * i + j), mget false late.rbufPoison (128 * i + j))) fun _ _ => 0
  let code (r : List Pz) (j : Nat) : BitVec 32 :=
    if dcFmt ctl = 0 then BitVec.ofNat 32 (leNat (((r.drop (4 * j)).take 4).map fun x => BitVec.ofNat 8 x.1))
    else BitVec.ofNat 32 (r.getD j (0, false)).1
  let rows := (List.range (dcM ctl)).filter fun i => !skip.contains i
  .done (modCore s id fun co =>
    { co with landings := co.landings.filter (fun x => !(x.bits.isEmpty && x.row < dcM ctl)) ++ rows.map fun i =>
        { index := en.index, row := i, cycle := en.startAt + l + i, bits := (List.range n).map (code (g.1.rows.getD i []))
          poison := (List.range n).map fun j => dcAcc ctl && mget false late.rbufPoison (128 * i + j)
          bank := if dcAcc ctl then some (dcBank ctl) else none } }) (en.flags ||| g.2)

/-- The lines of a stash range made present for a store, before any of it is written. -/
def stashReady (c : CoreId) (super : Bool) (a n : Nat) (p : Part) : Except Halt Part :=
  giveAll (fun p q => match touchLine p.s c super true none q.1 with
    | .error e => .error (p.halt e.2.2 (e.1, e.2.1))
    | .ok s1 => .ok { p with s := s1 }) (cutAt 128 (n / 128 + 2) a n) p

/-- R250, R251: row i of an accumulating drain of a bank to a tile, indivisible. -/
def accTile (b : Bank) (skip : List Nat) (id : CoreId) (en : Entry) (p : Part) (i : Nat) : Except Halt (State × Word) :=
  let dst := op en.ops 1
  let ctl := op en.ops 2
  let w := winCore id dst
  let t := winBind p.s id dst
  if skip.contains i then .ok (p.s, 0)
  else match tileTake w en.modes.super t i 1 0 (dcN ctl) p with
  | .error h => .error h
  | .ok (o, p1) =>
    match stashReady w en.modes.super (tileRow t i) (4 * dcN ctl) p1 with
    | .error h => .error h
    | .ok p2 =>
      let g := drainGrid en.modes ctl (op en.ops 0) b i 1
        (fun _ j => let e := gridElt o 0 j; (BitVec.ofNat 32 e.code, e.poison)) (tileAddr w t)
      .ok (commitRows (stashPutPz p2.s w (tileRow t i) (packRow 1 (g.1.rows.getD 0 []))) id en.index [i], g.2)

/-- R250: a drain to a tile in a store mode: row by row, or by rows of blocks. -/
def drainTile (s : State) (id : CoreId) (en : Entry) : Run :=
  let dst := op en.ops 1
  let ctl := op en.ops 2
  let w := winCore id dst
  let t := winBind s id dst
  let h := blkRows (dcFmt ctl)
  stepsOf (dcM ctl / h) (fun p k =>
    let g := drainGrid en.modes ctl (op en.ops 0) (bankOf p.s id (dcBank ctl)) (k * h) h (fun _ _ => (0, false)) (tileAddr w t)
    endStep g.2 (tileGive w en.modes.super t (k * h) 0 g.1 p)) s en

/-- R251: every page of a row admits the load and the store of an accumulating drain; a read-shared page
raises PROT (R249). -/
def accPieces (s : State) (id : CoreId) (super : Bool) (va n : Nat) : Except (BitVec 8 × Word) (List (Xl × Nat × Nat)) :=
  (cutAt 4096 (n / 4096 + 2) va n).foldl (fun (a : Except (BitVec 8 × Word) (List (Xl × Nat × Nat))) p =>
    match a with
    | .error e => .error e
    | .ok l =>
      match engXl s id super .load 1 p.1, engXl s id super .store 1 p.1 with
      | .error e, _ => .error e
      | _, .error e => .error e
      | .ok _, .ok x => if x.leaf.cls = 1 then .error (cPROT, BitVec.ofNat 64 p.1) else .ok (l ++ [(x, p.1 - va, p.2)])) (.ok [])

/-- R195, R251: the row update takes its issue tag. -/
def tagMx (s : State) (id : CoreId) : State :=
  modQueue (keepTag s (mxSource id) (queueOf s id .mx).opSeq 0) id .mx fun q => { q with opSeq := q.opSeq + 1 }

/-- R251: row i of an accumulating drain of a bank to memory, indivisible. -/
def accRow (b : Bank) (skip : List Nat) (id : CoreId) (en : Entry) (p : Part) (i : Nat) : Except Halt (State × Word) :=
  let ctl := op en.ops 2
  let r := drainRegion en.ops
  let va := r.va + i * r.pitch
  if skip.contains i then .ok (p.s, 0)
  else match accPieces p.s id en.modes.super va (regionRow r) with
  | .error e => let f := engFault p.s id e; .error (p.halt f.1 f.2)
  | .ok ps =>
    match memTake id en.modes.super 1 va (regionRow r) p with
    | .error h => .error h
    | .ok (old, p1) =>
      let os := codesOf 1 old (dcN ctl)
      let g := drainGrid en.modes ctl (op en.ops 0) b i 1
        (fun _ j => let o := os.getD j (0, false); (BitVec.ofNat 32 o.1, o.2)) (fun i j => eltAddr 1 (r.va + i * r.pitch) j)
      let bytes := packRow 1 (g.1.rows.getD 0 [])
      let s1 := ps.foldl (fun s q => putXl s id q.1 ((bytes.drop q.2.1).take q.2.2)) p1.s
      let lines := ps.flatMap fun q => (linesMet q.1.pa q.2.2).map (· / 128)
      .ok (commitRows (tagMx (levelLines s1 id lines) id) id en.index [i], g.2)

/-- R250: a drain to memory in a store mode. -/
def drainMem (s : State) (id : CoreId) (en : Entry) : Run :=
  let ctl := op en.ops 2
  let r := drainRegion en.ops
  let h := blkRows r.fmt
  stepsOf (r.rows / h) (fun p k =>
    let g := drainGrid en.modes ctl (op en.ops 0) (bankOf p.s id (dcBank ctl)) (k * h) h (fun _ _ => (0, false)) fun i j =>
      eltAddr r.fmt (r.va + i * r.pitch) j
    endStep g.2 (if r.fmt = 0 then memGive id en.modes.super 0 (r.va + k * r.pitch) (g.1.rows.getD 0 []) p
      else regionGive id en.modes.super r (k * h) g.1 p)) s en

/-- R251: the drain accumulates into a tile or into memory: it reads its bank, and commits its rows later. -/
def drainsLate (ops : List Word) : Bool := dcAcc (op ops 2) && dcDest (op ops 2) ≠ 0

/-- R250: the drain of a bank; of the rows that it lands in the result buffer those committed before are left out (R353). -/
def drainBody (skip : List Nat) (s : State) (id : CoreId) (en : Entry) : Run :=
  let ctl := op en.ops 2
  let l := drainL (bankOf s id (dcBank ctl))
  drainEnd id (dcBank ctl) (onCombined (
    if drainsLate en.ops then fun s _ en => .done s en.flags
    else if dcDest ctl = 0 then drainBuf skip l
    else if dcDest ctl = 1 then drainTile
    else drainMem) [dcBank ctl] s id en)

/-- R243, R251: what an accumulating drain that has read its bank is still to commit. -/
def drainLate (s : State) (id : CoreId) (en : Entry) : Option Late :=
  if drainsLate en.ops then some { en := { en with prog := 0, flags := 0 }, bank := bankOf s id (dcBank (op en.ops 2)) } else none

/-- R250, R352: the effect of MDRAIN; it waits while the verdict of its bank stands failed. -/
def mdrainRun (s : State) (id : CoreId) (en : Entry) : Run :=
  if verdictBad s id (dcBank (op en.ops 2)) then .wait s en else drainBody [] s id en

/-- R244, R249: MDRAIN. -/
def mdrainSpec : WordSpec :=
  { eng := .mx, opc := 0x03, pops := 3, src := 0x50
    conds := fun s id ops =>
      let dst := op ops 1
      let ctl := op ops 2
      if dcDest ctl ≠ 1 then true else if dcAcc ctl then winReads s id dst else winFills s id dst
    check := fun s id en =>
      let ctl := op en.ops 2
      need 10 (drainOk (bankOf s id (dcBank ctl)).int ctl && drainDstOk s id en.ops)
    acts := fun _ id ops =>
      let dst := op ops 1
      let ctl := op ops 2
      if dcDest ctl = 1 && !dcAcc ctl then [(winCore id dst, winTile dst, .filled)] else []
    dur := fun _ _ ops => Nat.max 8 (dcM (op ops 2))
    tail := fun s id ops =>
      let ctl := op ops 2
      let t := drainL (bankOf s id (dcBank ctl)) + dcM ctl - Nat.max 8 (dcM ctl)
      if dcDest ctl = 0 then t else if dcDest ctl = 1 then t + 8 else 0
    weight := fun _ _ _ => 8
    banks := fun ops => [dcBank (op ops 2)]
    run := mdrainRun
    late := drainLate }

/-- R248: MDRAIN. -/
def execMdrain (f : BitVec 6) (s : State) : Host.Outcome State Fault Refusal := .next (launchWord (.mdrain f) mdrainSpec f s)

/-- R251: row i of what a drain is still to commit; one committed before a replay is left out (R353). -/
def lateStep (l : Late) (id : CoreId) (p : Part) (i : Nat) : Except Halt (State × Word) :=
  let skip := committedOf p.s id l.en.index
  if dcDest (op l.en.ops 2) = 1 then accTile l.bank skip id l.en p i else accRow l.bank skip id l.en p i

/-- R251, R352: how many more rows of a drain have come to their cycle. -/
def lateRows (s : State) (l : Late) : Nat :=
  let m := dcM (op l.en.ops 2)
  Nat.min m (s.cyc.toNat + 1 - verdictAt l.en m) - l.en.prog

/-- What a running entry is still to commit, and the flags it has gathered. -/
def putLate (s : State) (id : CoreId) (i : BitVec 16) (l : Option Late) (fl : Word) : State :=
  modQueue s id .mx fun q => { q with running := q.running.map fun r => if r.index = i then { r with late := l, flags := r.flags ||| fl } else r }

/-- R251: the rows of a drain whose cycle has come are committed, unless its queue has stopped, replays, or has met a failed verdict. -/
def commitLate (id : CoreId) (s : State) (r : Running) : State :=
  match r.late with
  | none => s
  | some l =>
    let q := queueOf s id .mx
    let n := lateRows s l
    if n = 0 || q.stop.isSome || replaying q || verdictHeld s id r || (coreOf s id).removal.isSome then s
    else asEng s id .mx fun s =>
      match runSteps (lateStep l id) n s l.en with
      | .done s1 fl =>
        let k := l.en.prog + n
        if k = dcM (op l.en.ops 2) then putLate s1 id r.index none fl
        else putLate s1 id r.index (some { l with en := { l.en with prog := k, flags := fl, kept := [], given := 0 } }) 0
      | .wait s1 en => putLate s1 id r.index (some { l with en := en }) 0
      | .stop s1 en cause tval _ =>
        let s2 := if cause = cPAGE || cause = cPROT then count s1 id 0x46 1 en.modes.super else s1
        modQueue (putLate s2 id r.index (some { l with en := en }) 0) id .mx (stopWith s.cyc.toNat cause tval r.index .goOn)

/-- R212, R243, R251, R352: the drains of a queue commit the rows that are due; the oldest entry completes at the end of its occupancy
and of its way through the array, in entry order, once its tokens have room and no failed verdict of its bank is pending. -/
def tryComplete (s0 : State) (id : CoreId) (e : Eng) : State :=
  let s := if e = .mx then (queueOf s0 id .mx).running.foldl (commitLate id) s0 else s0
  match (queueOf s id e).running with
  | [] => s
  | r :: _ => if canComplete s id e r then completeEntry s id e r else s

/-- R212, R251: the completion as an event. -/
def execEntryCompletion (id : CoreId) (e : Eng) (s : State) : Host.Outcome State Fault Refusal := .next (tryComplete s id e)

/-- R252: MPARK, which reads both banks (R352). -/
def mparkSpec : WordSpec :=
  { eng := .mx, opc := 0x04, pops := 0, src := 0x50
    dur := fun _ _ _ => 528
    weight := fun _ _ _ => 8
    banks := fun _ => [0, 1]
    run := fun s id en =>
      if verdictBad s id 0 || verdictBad s id 1 then .wait s en
      else .done (modArray (parkArray s id) id fun _ => {}) en.flags }

/-- R252: MUNPARK. -/
def munparkSpec : WordSpec :=
  { eng := .mx, opc := 0x05, pops := 0, src := 0x50
    dur := fun _ _ _ => 528
    weight := fun _ _ _ => 8
    run := fun s id en => .done (modArray s id fun _ => (coreOf s id).park) en.flags }

/-- R252: MPARK. -/
def execMpark (f : BitVec 6) (s : State) : Host.Outcome State Fault Refusal := .next (launchWord (.mpark f) mparkSpec f s)

/-- R252: MUNPARK. -/
def execMunpark (f : BitVec 6) (s : State) : Host.Outcome State Fault Refusal := .next (launchWord (.munpark f) munparkSpec f s)

/-- R253, R258: a stash address that a record may be written to: aligned, in the team, outside every peer's
mapped region. -/
def stashRecOk (s : State) (id : CoreId) (a align n : Nat) : Bool :=
  let r := stashRank a
  let c := coreOf s (coreAt (CoreId.cl id) r)
  a < 2 ^ 23 && a % align = 0 && stashOff a + n ≤ 2 ^ 21 && rankOk s id r && c.unit.isSome &&
    (r = id.rank || !c.maps.any fun m => rangesMeet m.off m.len (stashOff a) n)

/-- Write a record's bytes, clean, at a stash address of the team, as a single update. -/
def putRecord (id : CoreId) (super : Bool) (a : Nat) (bs : List Byte) (p : Part) : Except Halt State :=
  let c := coreAt (CoreId.cl id) (stashRank a)
  match stashReady c super (stashOff a) bs.length p with
  | .error h => .error h
  | .ok p1 => .ok (stashPut p1.s c (stashOff a) bs false)

/-- R253: the two words of the status record. -/
def statusWords (cl : Cluster) : Nat × Nat :=
  let a := cl.array
  let bit (b : Bool) (k : Nat) : Nat := if b then 2 ^ k else 0
  (a.subn.toNat + a.subc.toNat * 2 ^ 32 + a.subr.toNat * 2 ^ 39 + bit a.subop 46 + bit a.subv 47 + a.subent.toNat * 2 ^ 48,
   bit a.opz 0 + bit a.bank0.dirty 7 + bit a.bank1.dirty 8 + a.bank0.fold.toNat * 2 ^ 9 + a.bank1.fold.toNat * 2 ^ 11 +
     bit a.bank0.int 13 + bit a.bank1.int 14 + bit cl.held.isSome 15)

/-- R253: MFLAGS; a DST that it may not name is refused like an FREC of R262 (DESIGN CHOICE, log 163). -/
def mflagsSpec : WordSpec :=
  { eng := .mx, opc := 0x07, pops := 2, src := 0x50
    check := fun s id en => need 10 (onlyBits (op en.ops 1) 0x1 && stashRecOk s id (op en.ops 0).toNat 16 16)
    dur := fun _ _ _ => 4
    weight := fun _ _ _ => 8
    run := fun s id en => stepsOf 1 (fun p _ =>
      let w := statusWords (clusOf p.s (CoreId.cl id))
      match putRecord id en.modes.super (op en.ops 0).toNat (leBytes 8 w.1 ++ leBytes 8 w.2) p with
      | .error e => .error e
      | .ok s1 =>
        .ok (if (op en.ops 1).getLsbD 0 then modArray s1 id fun a => { a with opz := false, subn := 0, subv := false } else s1, 0)) s en }

/-- R253: MFLAGS. -/
def execMflags (f : BitVec 6) (s : State) : Host.Outcome State Fault Refusal := .next (launchWord (.mflags f) mflagsSpec f s)

end Sys2Proof.Machine
end

