-- ==== Sys2Proof/Machine/System.lean ====
section
/-!
DEFINITION. Traps by instruction, return, yield, events, cancellation and power regions
(05 R121-R125; 24 R416).
-/
namespace Sys2Proof.Machine

/-- R121: TRAP. -/
def execTrap (n : BitVec 10) (g : BitVec 3) (s : State) : Host.Outcome State Fault Refusal :=
  .next (scalar (.trap n g) g true false (fun s _ => .trap s cTRAPI (n.setWidth 64)) s)

/-- R122, R206, R335: TRET; a return to another address than the kept one clears the ENQS count. -/
def tretDone (s : State) : State :=
  let s1 := trapReturn s s.cur
  let pend := preempting s s.cur.core
  modCtx s1 s.cur fun c =>
    let keep := tsInh c.tstat || c.enqsAddr = some c.pc
    { c with
      enqsCount := if keep then c.enqsCount else 0
      enqsAddr := if keep then c.enqsAddr else none
      held := c.held || (pend && (!anyLoop c || tsInh c.tstat)) }

/-- R122: TRET. -/
def execTret (g : BitVec 3) (s : State) : Host.Outcome State Fault Refusal :=
  .next (scalar (.tret g) g true false (fun s c =>
    if !tsInh c.tstat then .trap s cILLOP (wordOf (.tret g))
    else if !isSuper c then .trap s cPRIV (wordOf (.tret g))
    else if badSave c.tsave then .trap s cBADRET c.tsave
    else .left (tretDone s)) s)

/-- R123, R376: YIELD renews the budget and is a decision point; a budget that ran out in an earlier cycle stays run out. -/
def execYield (g : BitVec 3) (s : State) : Host.Outcome State Fault Refusal :=
  .next (scalar (.yield g) g true false (fun s c =>
    let cl := CoreId.cl s.cur.core
    .done (decideSlot (modTeam s cl fun t => { t with rem := t.bud }) cl true) (c.pc + 4)) s)

/-- R124: WFE. -/
def execWfe (g : BitVec 3) (s : State) : Host.Outcome State Fault Refusal :=
  .next (scalar (.wfe g) g true false (fun s c =>
    if c.latch then .done (modCtx s s.cur fun c => { c with latch := false }) (c.pc + 4)
    else .wait s .wfe) s)

/-- R125: work of this identifier is live: running, staged, saved, counted or in a loaded graph. -/
def namesLive (s : State) (w : CancelWhat) : Bool :=
  (s.clusters.any fun e =>
    (match e.2.team with | some t => cancels w t | none => false) ||
      [e.2.slot0, e.2.slot1].any fun sl => sl.st = .staged && cancelsRec w sl) ||
  (s.pkg.saved.any fun e => cancels w e.2.team) ||
  (match w with
    | .launch j l => (launchOf s j l).isSome || s.pkg.graphs.any fun g =>
        g.job = j && BitVec.ofNat 48 (g.gid.toNat * 1024 + l.toNat % 1024) = l
    | .graph jcb g => (graphOf s jcb g).isSome
    | .job j => (jobOf s j).isSome)

/-- R125, R146: the work an identifier names: the issuing job's own if it has some, else that of every other job
(DEDUCED, log 31). -/
def cancelFirst (s : State) (own : CancelWhat) (others : List CancelWhat) : State :=
  if namesLive s own then cancelWork s own else others.foldl cancelWork s

/-- R125, R146: what a CANCEL names; a phase is named by its number in the job (DEDUCED, log 31). -/
def cancelNamed (s : State) (level : BitVec 2) (v : Word) : State :=
  match teamOf s s.cur.core with
  | none => s
  | some t =>
    let l : BitVec 48 := v.setWidth 48
    if level = 0 then
      if v.toNat < 2 ^ 48 then cancelFirst s (.launch t.job l) (s.pkg.jobs.map fun j => .launch j.id l) else s
    else if level = 1 then
      if v.toNat < 2 ^ 48 then
        cancelFirst s (.graph t.jcb l) ((s.pkg.graphs.filter fun g => g.gid = l).map fun g => .graph g.jcb l)
      else s
    else if level = 2 then
      match jobOf s t.job with
      | some j =>
        if j.phase ≤ v.toNat && phaseCount s (jcbRoot s j.jcb) j.plist.toNat v.toNat ≠ 0 then
          let s1 := modJob s j.id fun j => { j with cancelPhases := v.toNat :: j.cancelPhases }
          if v.toNat = j.phase then
            (s.pkg.graphs.filter fun g => g.job = j.id).foldl (fun s g => cancelWork s (.graph g.jcb g.gid)) s1
          else s1
        else s
      | none => s
    else if v.toNat < 2 ^ 32 then cancelWork s (.job (v.setWidth 32)) else s

/-- R125: CANCEL. -/
def execCancel (a : BitVec 5) (l : BitVec 2) (g : BitVec 3) (s : State) : Host.Outcome State Fault Refusal :=
  .next (scalar (.cancel a l g) g true false (fun s c =>
    consume c [a] <|
      let v := (readX c a).val
      let own := match (curCore s).unit with | some u => l = 0 && v = u.lid.setWidth 64 | none => false
      if !isSuper c && !own then .trap s cPRIV (wordOf (.cancel a l g))
      else .done (cancelNamed s l v) (c.pc + 4)) s)

/-- R416: my request in the cluster's queue. -/
def isMyReq (id : CtxId) (r : PowerReq) : Bool := r.rank = id.core.rank && r.kind = id.kind && !r.restore

/-- R416: grant a level to a core. -/
def grantPower (s : State) (id : CoreId) (l : Byte) : State :=
  let old := (coreOf s id).plevel
  modCore (modClus s (CoreId.cl id) fun cl => { cl with rsv := cl.rsv - old + l }) id fun c => { c with plevel := l }

/-- R416: the request at the head can be granted. -/
def grantable (s : State) (id : CoreId) (l : Byte) : Bool :=
  let cl := clusOf s (CoreId.cl id)
  cl.rsv.toNat + l.toNat ≤ cl.rate.toNat + (coreOf s id).plevel.toNat

/-- R416: PACQ. PDECL is the level declared as the instruction issues; a wait that goes on declares nothing. Under a pre-emption
request a PACQ that cannot be granted at once stops and leaves no request (R335). -/
def execPacq (l : BitVec 8) (g : BitVec 3) (s : State) : Host.Outcome State Fault Refusal :=
  .next (scalar (.pacq l g) g (pacqOk l) false (fun s c =>
    let id := s.cur.core
    let cl := CoreId.cl id
    let asked := (curClus s).pacq.any (isMyReq s.cur)
    let s2 := if asked then s else modClus (modCore s id fun k => { k with pdecl := l }) cl fun k =>
      { k with pacq := putReq k.pacq { rank := id.rank, level := l, kind := s.cur.kind, cycle := s.cyc.toNat } }
    let rest := if preempting s2 id then dropPowerReq s2 s.cur else s2
    match (clusOf s2 cl).pacq with
    | r :: t =>
      if isMyReq s.cur r && grantable s2 id l then
        .done (grantPower (modClus s2 cl fun k => { k with pacq := t }) id l) (c.pc + 4)
      else .wait rest (.pacq l)
    | [] => .wait rest (.pacq l)) s)

/-- R416: PREL. -/
def execPrel (g : BitVec 3) (s : State) : Host.Outcome State Fault Refusal :=
  .next (scalar (.prel g) g true false (fun s c =>
    let s1 := grantPower s s.cur.core 0
    if (curCore s).plevel = 0 then .done s (c.pc + 4)
    else .done (modCore s1 s.cur.core fun k => { k with pdecl := 0 }) (c.pc + 4)) s)

end Sys2Proof.Machine
end

