-- ==== Sys2Proof/Machine/Power.lean ====
section
/-!
DEFINITION. Cluster power: the handshake, the retention store, the charge bucket's ramp and the package
cap (24 R414-R421; 25 R424, R425).
-/
namespace Sys2Proof.Machine

/-- The end of a transition: ACK set, BUSY clear. -/
def acked (cl : Cluster) : Cluster := { cl with ack := true, busySince := none }

/-- R424: what a staging did to its launch is undone: the counter holds what it held, and the launch is not bound. -/
def undoStage (s : State) (sl : Slot) : State :=
  if sl.undo.isEmpty then s
  else modPkg (sl.undo.foldl (fun s w => physWrite s w.1 w.2.1 w.2.2) s) fun p =>
    { p with launches := p.launches.filter fun l => !(l.lid = recLid sl && l.job = recJob sl) }

/-- R424: a record staged in the cycle of the QUIESCE write is refused, as though the write had come first (log 156); any other is
unbound. -/
def unbindStaged (s : State) (c : ClusId) (k : Nat) : State :=
  let sl := slotAt s c k
  if sl.st = .staged && sl.stagedAt = s.cyc.toNat then
    derEvent (modSlot (undoStage s sl) c k fun sl =>
      { setSlotWord sl 0 (slotWord sl 0 &&& 0x7FFFFFFFFFFFFFFF#64) with st := .free, undo := [] }) c k 5 0 (recJob sl)
  else unbindSlot s c k

/-- R421: QUIESCE from RUN; R424 item 1: both records are unbound. -/
def quiesce (s : State) (c : ClusId) : State :=
  let s1 := modClus s c fun cl => { cl with req := 1, busySince := some s.cyc.toNat }
  unbindStaged (unbindStaged s1 c 0) c 1

/-- R421: A WRITE OF CLPCTL. Any other request than the four rows only writes REQ; a request during a
transition is one of those (DEDUCED, log 40). -/
def clpctlWrite (s : State) (c : ClusId) (req : BitVec 2) : State :=
  let cl := clusOf s c
  let s1 := modClus s c fun cl => { cl with req := req }
  if cl.busySince.isSome then s1
  else match cl.power with
    | .run => if req = 1 then quiesce s c else s1
    | .quiesced =>
      if req = 0 then setPower s1 c .run acked
      else if req = 2 && cl.rdone && cl.gate = 0x1F then modClus s1 c fun cl => { cl with busySince := some s.cyc.toNat }
      else if req = 3 && cl.gate = 0x2F then
        setPower s1 c .off fun cl => { acked cl with rdone := false, saving := false }
      else s1
    | _ => s1

/-- R424: REQ = QUIESCE. -/
def execClpctlQuiesce (c : ClusId) (s : State) : Host.Outcome State Fault Refusal := .next (clpctlWrite s c 1)

/-- R421: REQ = RETAIN. -/
def execClpctlRetain (c : ClusId) (s : State) : Host.Outcome State Fault Refusal := .next (clpctlWrite s c 2)

/-- R421: REQ = OFF. -/
def execClpctlOff (c : ClusId) (s : State) : Host.Outcome State Fault Refusal := .next (clpctlWrite s c 3)

/-- R421: REQ = RUN. -/
def execClpctlRun (c : ClusId) (s : State) : Host.Outcome State Fault Refusal := .next (clpctlWrite s c 0)

/-- R421: both slots FREE, every queue empty, every engine idle, no lease held; a unit that runs alone counts
as work as well (DEDUCED, log 40). -/
def clusterDrained (s : State) (c : ClusId) : Bool :=
  let cl := clusOf s c
  cl.slot0.st = .free && cl.slot1.st = .free && cl.team.isNone && cl.leaseHolder.isNone &&
    (List.range 4).all fun r => allEngs.all fun e => queueIdle (queueOf s (coreAt c r) e)

/-- R421: QUIESCED is reached. -/
def execQuiescedReached (c : ClusId) (s : State) : Host.Outcome State Fault Refusal :=
  .next (
    let cl := clusOf s c
    if cl.power = .run && cl.busySince.isSome && clusterDrained s c then setPower s c .quiesced acked else s)

/-- R425: the rails have settled; a wake that was held acts now. -/
def execRetainedReached (c : ClusId) (s : State) : Host.Outcome State Fault Refusal :=
  .next (
    let cl := clusOf s c
    match cl.power, cl.busySince with
    | .quiesced, some t =>
      if t + 4096 ≤ s.cyc.toNat then
        let s1 := setPower s c .retained acked
        if cl.heldWake then startWaking s1 c else s1
      else s
    | _, _ => s)

/-- R421, R425: SAVE, accepted only in QUIESCED. -/
def clretsvSave (s : State) (c : ClusId) : State :=
  modClus s c fun cl =>
    if cl.power = .quiesced && !cl.saving && !cl.restoring then
      { cl with
        saving := true
        rdone := false
        store := { mcwin := cl.mcwin, ramp := cl.ramp, tgt := cl.tgt, rate := cl.rate, ecnt := cl.ecnt, esel := cl.esel } }
    else cl

/-- R425: SAVE as an event. -/
def execClretsvSave (c : ClusId) (s : State) : Host.Outcome State Fault Refusal := .next (clretsvSave s c)

/-- R420: RESTORE by software, taken in QUIESCED with a valid image (DEDUCED, log 41). -/
def clretsvRestore (s : State) (c : ClusId) : State :=
  modClus s c fun cl =>
    if cl.power = .quiesced && cl.rdone && !cl.saving then { cl with restoring := true } else cl

/-- R421: RESTORE as an event. -/
def execClretsvRestore (c : ClusId) (s : State) : Host.Outcome State Fault Refusal := .next (clretsvRestore s c)

/-- R425: the save is complete. -/
def execRetentionSaveDone (c : ClusId) (s : State) : Host.Outcome State Fault Refusal :=
  .next (modClus s c fun cl => if cl.saving then { cl with saving := false, rdone := true } else cl)

/-- R421: the copy back; RDONE stays (R425). The steps of the rate count from it (log 43). -/
def restoreRetained (cyc : Nat) (cl : Cluster) : Cluster :=
  { cl with
    restoring := false
    mcwin := cl.store.mcwin
    ramp := cl.store.ramp
    tgt := cl.store.tgt
    rate := cl.store.rate
    rampAt := cyc
    ecnt := cl.store.ecnt
    esel := cl.store.esel }

/-- R425: the restore is complete. -/
def execRetentionRestoreDone (c : ClusId) (s : State) : Host.Outcome State Fault Refusal :=
  .next (modClus s c fun cl => if cl.restoring then restoreRetained s.cyc.toNat cl else cl)

/-- R412, R421, R425: CLGATE: only in QUIESCED, RETAINED or OFF; a switch, that of the SRAM rail (2) too, opens only if CLK was 1
before; SRAM 3 is no code (DEDUCED, log 42). -/
def clgateWrite (s : State) (c : ClusId) (v : Word) : State :=
  modClus s c fun cl =>
    let opens : Bool := (v.setWidth 6 &&& ~~~cl.gate &&& 0xE#6) ≠ 0 || (v.getLsbD 5 && !cl.gate.getLsbD 5)
    if 64 ≤ v.toNat || bitsAt v 4 2 = 3 || cl.power = .run || cl.power = .waking || (opens && !cl.gate.getLsbD 0) then cl
    else { cl with gate := v.setWidth 6 }

/-- R421: CLGATE as an event. -/
def execClgateWrite (c : ClusId) (v : Word) (s : State) : Host.Outcome State Fault Refusal := .next (clgateWrite s c v)

/-- R421, R124: the latches of the named running cores of a cluster. -/
def wakeCores (s : State) (c : ClusId) (mask : Nat) : State :=
  (List.range 4).foldl (fun s r => if natBit mask r && (coreOf s (coreAt c r)).unit.isSome then setLatches s (coreAt c r) else s) s

/-- R421: CLWAKE, written by a source of CLWMASK. -/
def clwakeWrite (s : State) (c : ClusId) (v : Word) (source : Nat) : State :=
  if 16 ≤ v.toNat then s
  else if v = 0 then s
  else wakeSource (wakeCores s c v.toNat) c source

/-- R421: a direct write of CLWAKE. -/
def execClwakeWrite (c : ClusId) (v : Word) (s : State) : Host.Outcome State Fault Refusal := .next (clwakeWrite s c v 0)

/-- R421, R425: WAKING: the rails are up after 8,192 cycles and CLGATE reads 0; the restore follows if RDONE
is 1; then STATE is RUN and REQ is 0. -/
def execWakeComplete (c : ClusId) (s : State) : Host.Outcome State Fault Refusal :=
  .next (
    match (clusOf s c).power, (clusOf s c).busySince with
    | .waking, some t =>
      if s.cyc.toNat < t + 8192 then s
      else
        let s1 := modClus s c fun cl =>
          if cl.woken then cl else { cl with gate := 0, woken := true, restoring := cl.rdone }
        if (clusOf s1 c).restoring then s1 else setPower s1 c .run fun cl => { acked cl with req := 0 }
    | _, _ => s)

/-- R370, R424, R425: word 0 of a record; V = 0 unbinds. -/
def execBindStage (c : ClusId) (k : Nat) (w0 : Word) (s : State) : Host.Outcome State Fault Refusal :=
  .next (if 2 ≤ k then s
    else if w0.getLsbD 63 then stageRecord s c k w0
    else unbindSlot s c k)

/-- R414: one step of the rate. -/
def rateStep (cl : Cluster) : Cluster :=
  if cl.rate < cl.tgt then { cl with rate := cl.rate + 1 }
  else if cl.tgt < cl.rate && cl.rsv < cl.rate then { cl with rate := cl.rate - 1 }
  else cl

def rateSteps : Nat → Cluster → Cluster
  | 0, cl => cl
  | n + 1, cl => rateSteps n (rateStep cl)

/-- R414: the steps that are due; 256 of them reach any target. -/
def execBucketRampTick (c : ClusId) (s : State) : Host.Outcome State Fault Refusal :=
  .next (
    let cl := clusOf s c
    let n := (s.cyc.toNat - cl.rampAt) / cl.ramp.toNat
    if cl.ramp = 0 || n = 0 then s
    else modClus s c fun cl => { rateSteps (Nat.min n 256) cl with rampAt := cl.rampAt + n * cl.ramp.toNat })

/-- R415: CLBKT; RAMP 0 lies outside its range (DEDUCED, log 43). The steps count from the write. -/
def clbktWrite (s : State) (c : ClusId) (v : Word) : State :=
  if (v &&& 0x0000FF00FF00FF00#64) != 0 || 116 < bitsAt v 32 8 || bitsAt v 48 16 = 0 then s
  else modClus s c fun cl => { cl with ramp := v.extractLsb' 48 16, tgt := v.extractLsb' 32 8, rampAt := s.cyc.toNat }

/-- R415: CLBKT as an event. -/
def execClbktWrite (c : ClusId) (v : Word) (s : State) : Host.Outcome State Fault Refusal := .next (clbktWrite s c v)

/-- R419: the sum of the floors of the partitions that are defined. -/
def floorSum (s : State) : Nat := (s.pkg.parts.map fun e => if e.2.v then e.2.floor.toNat else 0).sum

/-- R419: a cluster of a partition that has a floor. -/
def floored (s : State) (c : ClusId) : Bool := s.pkg.parts.any fun e => e.2.v && e.2.floor ≠ 0 && partHas s e.1 c

/-- R414, R419: the Crier's targets: their values are open (log 44), none above 116; while the cap leaves no more than the floors, only
clusters with a floor get any. The steps count from here (log 43). -/
def newTargets (s : State) : State :=
  let tight : Bool := s.pkg.pcap.toNat - Config.idleWatts.toNat ≤ floorSum s
  let s1 := (List.range 100).foldl (fun s k =>
    let n := if tight && !floored s (clusOfKey k) then 0 else (Config.freeWord (s.tick + k)).toNat % 117
    modClus s (clusOfKey k) fun cl => { cl with tgt := BitVec.ofNat 8 n, rampAt := s.cyc.toNat }) s
  { s1 with tick := s.tick + 100 }

/-- R419: THE CAP IS JUDGED, at a write of it and when the floors change (DEDUCED, log 12): the bits, the Crier's interrupt for each that is set, and new
targets. -/
def judgeCap (s : State) : State :=
  let idle := Config.idleWatts.toNat
  let low : Bool := s.pkg.pcap.toNat < idle
  let unmet : Bool := s.pkg.pcap.toNat < idle + floorSum s
  let s1 := newTargets (modPkg s fun p => { p with capFloor := p.capFloor || low, capUnmet := p.capUnmet || unmet })
  let s2 := if low && !s.pkg.capFloor then queueIntr s1 0 2 0 0xFF else s1
  if unmet && !s.pkg.capUnmet then queueIntr s2 0 2 0 0xFF else s2

/-- R419: a write of the cap. -/
def pcapSet (s : State) (v : Word) : State := judgeCap (modPkg s fun p => { p with pcap := v.setWidth 16 })

/-- R419: PCAP as an event. -/
def execPcapWrite (v : Word) (s : State) : Host.Outcome State Fault Refusal := .next (pcapSet s v)

end Sys2Proof.Machine
end

