-- ==== Sys2Proof/Machine/SysPage.lean ====
section
/-!
DEFINITION. The system pages: their registers, the system window, and the events that write a register
(25 R423; 07 R160; 01 R25; 08 R188; 18 R350; 22 R382; 21 R369-R371, R377, R378; 23 R400-R404, R410; 24 R415-R422).
-/
namespace Sys2Proof.Machine

/-- Who may use an offset (R423): supervisor reads and writes, supervisor reads, the Crier or the sideband only,
or no register. -/
inductive PageUse where
  | rw
  | ro
  | crier
  | unassigned
  deriving DecidableEq, Repr

/-- An offset lies in [lo, hi]. -/
def offIn (lo hi off : Nat) : Bool := lo ≤ off && off ≤ hi

/-- R423: the division of a die's page. -/
def pageUse (die off : Nat) : PageUse :=
  if offIn 0x0400 0x040F off || offIn 0x0800 0x0817 off || offIn 0x0880 0x088F off || offIn 0x1000 0x161F off ||
    offIn 0x6000 0x663F off || offIn 0x6900 0x69FF off || offIn 0x7000 0x763F off || offIn 0x7800 0x78C7 off then .rw
  else if offIn 0x2000 0x2C8F off || offIn 0x3000 0x32FF off then .crier
  else if offIn 0x4000 0x5FFF off then .ro
  else if die ≠ 0 then .unassigned
  else if offIn 0x0900 0x090F off then .crier
  else if offIn 0x0980 0x0987 off || offIn 0x0A00 0x0BFF off || offIn 0x6800 0x6817 off then .ro
  else .unassigned

/-- A ring's index register, laid out as ELRING (R350). -/
def ringReg (drops tail head : BitVec 16) : Word := drops.setWidth 64 <<< 48 ||| tail.setWidth 64 <<< 16 ||| head.setWidth 64

/-- R401: words of a partition entry. -/
def partWord (p : Partition) (n : Nat) : Word :=
  match n with
  | 0 => (if p.v then 0x8000000000000000#64 else 0) ||| p.vclo.setWidth 64
  | 1 => p.vchi
  | 2 => p.peers.setWidth 64 <<< 48 ||| p.hlim.setWidth 64 <<< 32 ||| p.hbase.setWidth 64
  | _ => p.floor.setWidth 64

/-- R404: POINT, the number of the latest point in the partition's tier. -/
def pointNo (s : State) (part : Nat) : BitVec 32 := if (mget {} s.pkg.tiers part).v then (storeOf s part).point else 0

/-- R404: RPCTL. -/
def rpctlWord (point : BitVec 32) (t : Tier) : Word :=
  point.setWidth 64 <<< 32 ||| t.status.setWidth 64 <<< 12 ||| (if t.done then 0x100 else 0) ||| t.req.setWidth 64

/-- R402: words of a safe-tier entry. -/
def tierWord (point : BitVec 32) (t : Tier) (n : Nat) : Word :=
  match n with
  | 0 => (if t.v then 0x8000000000000000#64 else 0) ||| t.base.setWidth 64 <<< 12
  | 1 => t.size.setWidth 64 <<< 12
  | 2 => t.rate.setWidth 64
  | _ => rpctlWord point t

/-- R369: word n of a slot, STATE in word 0. -/
def slotStCode : SlotSt → Nat
  | .free => 0
  | .staged => 1
  | .running => 2
/-- R5, R369: the fields of the words of a bind record; the reserved bits between them read as zero. -/
def slotFields (n : Nat) : Word :=
  match n with
  | 0 => 0x9C0000FFFFFFFFFF
  | 2 => 0x0000FFFFFFFFFFFF
  | 3 => 0x00FFFFFFFFFFFFFF
  | 4 => 0x000FFFFFFFFFFFFF
  | 5 => 0x000FFFFFFFFF007F
  | 6 => 0xFFFFFFFF00000F00
  | _ => 0xFFFFFFFFFFFFFFFF

def slotReg (sl : Slot) (n : Nat) : Word :=
  (slotWord sl n &&& slotFields n) ||| (if n = 0 then BitVec.ofNat 64 (slotStCode sl.st * 2 ^ 61) else 0)

/-- R415, R420: the power registers of a cluster. -/
def powerReg (cl : Cluster) (o : Nat) : Word :=
  match o with
  | 0x00 => cl.req.setWidth 64
  | 0x08 => BitVec.ofNat 64 ((if cl.ack then 16 else 0) + (if cl.busySince.isSome then 8 else 0) + powerCode cl.power)
  | 0x10 => BitVec.ofNat 64 ((if cl.rdone then 4 else 0) + (if cl.restoring then 2 else 0) + (if cl.saving then 1 else 0))
  | 0x18 => cl.gate.setWidth 64
  | 0x20 => 0
  | 0x28 => cl.wmask.setWidth 64
  | 0x30 => cl.ramp.setWidth 64 <<< 48 ||| cl.tgt.setWidth 64 <<< 32 ||| cl.rate.setWidth 64 <<< 16 ||| cl.rsv.setWidth 64
  | 0x38 => BitVec.ofInt 64 cl.level
  | _ => 0

/-- A cluster of a die, 25 to a die. -/
def inDie (die c : Nat) : ClusId := ⟨die, c⟩

/-- Read an 8-byte register. -/
def sysRead (s : State) (die off : Nat) : Word :=
  let d := dieOf s die
  if off % 8 ≠ 0 || pageUse die off = .unassigned then 0
  else if off = 0x0400 then d.tlbiva
  else if off = 0x0408 then
    (if d.tlbDone then 0x100000000 else 0) ||| d.tlbKind.setWidth 64 <<< 16 ||| d.tlbAsid.setWidth 64
  else if off = 0x0800 then d.elbase
  else if off = 0x0808 then ringReg d.elDrops d.elTail d.elHead
  else if off = 0x0810 then d.elctl.setWidth 64
  else if off = 0x0880 then d.lasbase
  else if off = 0x0888 then BitVec.ofNat 64 d.las.length
  else if off = 0x0900 then s.pkg.subbase
  else if off = 0x0908 then ringReg 0 s.pkg.subTail s.pkg.subHead
  else if off = 0x0980 then s.pkg.bootFail.setWidth 64 <<< 4 ||| s.pkg.bootStage.setWidth 64
  else if offIn 0x0A00 0x0AFF off then partWord (mget {} s.pkg.parts ((off - 0x0A00) / 32)) (off % 32 / 8)
  else if offIn 0x0B00 0x0BFF off then tierWord (pointNo s ((off - 0x0B00) / 32)) (mget {} s.pkg.tiers ((off - 0x0B00) / 32)) (off % 32 / 8)
  else if offIn 0x1000 0x161F off then
    (if off % 64 < 32 then mget 0 (clusOf s (inDie die ((off - 0x1000) / 64))).mcwin (off % 64 / 8) else 0)
  else if off = 0x2C80 then d.derbase
  else if off = 0x2C88 then ringReg d.derDrops d.derTail d.derHead
  else if offIn 0x2000 0x2C7F off then
    slotReg (slotAt s (inDie die ((off - 0x2000) / 128)) (off % 128 / 64)) (off % 64 / 8)
  else if offIn 0x3000 0x32FF off then mget 0 d.remap ((off - 0x3000) / 8)
  else if offIn 0x4000 0x5FFF off then mget 0 d.accounts ((off - 0x4000) / 8)
  else if offIn 0x6000 0x663F off then powerReg (clusOf s (inDie die ((off - 0x6000) / 64))) (off % 64)
  else if off = 0x6800 then s.pkg.pcap.setWidth 64
  else if off = 0x6808 then BitVec.ofNat 64 (floorSum s * 2 ^ 32 + Config.idleWatts.toNat)
  else if off = 0x6810 then BitVec.ofNat 64 ((if s.pkg.capUnmet then 2 else 0) + (if s.pkg.capFloor then 1 else 0))
  else if offIn 0x6900 0x69FF off then
    mget 0 (if off % 16 = 0 then d.ecnt else d.esel) ((off - 0x6900) / 16)
  else if offIn 0x7000 0x763F off then
    let cl := clusOf s (inDie die ((off - 0x7000) / 64))
    mget 0 (if off % 16 = 0 then cl.ecnt else cl.esel) (off % 64 / 16)
  else 0

/-- R160: a write of TLBICMD; the command that GO starts, with its address, is what its end drops. -/
def tlbiWrite (s : State) (die : Nat) (v : Word) : State :=
  if (v &&& 0xFFFFFFFE7FFC0000#64) != 0 then s
  else modDie s die fun d =>
    let go : Bool := d.tlbDone && v.getLsbD 31 && bitsAt v 16 2 ≠ 3
    { d with
      tlbKind := v.extractLsb' 16 2
      tlbAsid := v.setWidth 16
      tlbDone := d.tlbDone && !go
      tlbCmd := if go then some (v.extractLsb' 16 2, v.setWidth 16, d.tlbiva) else d.tlbCmd }

/-- R350: writes of ELCTL and of a ring's index register. -/
def elctlWrite (v : Word) (d : Die) : Die :=
  if (v &&& 0xFFFFFFFFFFFFFF0E#64) != 0 then d
  else { d with elctl := v.setWidth 8, elDrops := if v.getLsbD 0 && !d.elctl.getLsbD 0 then 0 else d.elDrops }
def ringTailOk (v : Word) : Bool := (v &&& 0x0000FFFF00000000#64) == 0

/-- R188: a write of a window register. -/
def mcwinOk (v : Word) : Bool :=
  (v &&& 0x7FFFFFFFF0E00E00#64) == 0 && !(v.getLsbD 63 && bitsAt v 0 9 = 0) && bitsAt v 12 9 + bitsAt v 0 9 ≤ 512
def mcwinWrite (s : State) (c : ClusId) (n : Nat) (v : Word) : State :=
  if mcwinOk v then modClus s c fun cl => { cl with mcwin := mset 0 cl.mcwin n v } else s

/-- R25, R24, R124: a write of CLINT. -/
def clintPut (s : State) (c : ClusId) (v : Word) : State :=
  match (clusOf s c).team with
  | none => s
  | some t =>
    let rank := bitsAt v 8 2
    let kind : CtxKind := if bitsAt v 10 2 = 0 then .load else if bitsAt v 10 2 = 1 then .exec else .store
    if 2 ^ 12 ≤ v.toNat || bitsAt v 10 2 = 3 || t.size ≤ rank then s
    else modCtx s ⟨coreAt c rank, kind⟩ fun x =>
      { putIntp s.cyc.toNat ((x.intp &&& 0xFFFFFFFFFFFF00FF#64) ||| BitVec.ofNat 64 (bitsAt v 0 8 * 256) ||| 1) x with latch := true }

/-- R25: a CLINT write as an event. -/
def execClintWrite (c : ClusId) (v : Word) (s : State) : Host.Outcome State Fault Refusal := .next (clintPut s c v)

/-- R420: a write of a power register of a cluster; a reserved bit makes it ignored. -/
def powerWrite (s : State) (c : ClusId) (o : Nat) (v : Word) : State :=
  match o with
  | 0x00 => if v.toNat < 4 then clpctlWrite s c (v.setWidth 2) else s
  | 0x08 => if v.toNat < 32 then modClus s c fun cl => { cl with ack := cl.ack && !v.getLsbD 4 } else s
  | 0x10 =>
    if v.toNat < 8 then
      let s1 := if v.getLsbD 0 then clretsvSave s c else s
      if v.getLsbD 1 then clretsvRestore s1 c else s1
    else s
  | 0x18 => clgateWrite s c v
  | 0x20 => clwakeWrite s c v 0
  | 0x28 => if v.toNat < 8 then modClus s c fun cl => { cl with wmask := v.setWidth 3 } else s
  | 0x30 => clbktWrite s c v
  | _ => s

/-- R422: a write of a counter or a selector. -/
def cntWrite (srcOk : Nat → Bool) (isSel : Bool) (k : Nat) (v : Word) (ecnt esel : SMap Word) : SMap Word × SMap Word :=
  if isSel then (ecnt, if selOk srcOk v then mset 0 esel k (selWrite (mget 0 esel k) v) else esel)
  else (mset 0 ecnt k (v &&& 0xFFFFFFFFFFFF#64), esel)

/-- Registers that supervisor mode and the Crier write alike. -/
def sharedWrite (s : State) (die off : Nat) (v : Word) : State :=
  if off % 8 ≠ 0 then s
  else if off = 0x0400 then
    (if (v &&& 0xFF0000000000FFFF#64) == 0 then modDie s die fun d => { d with tlbiva := v } else s)
  else if off = 0x0408 then tlbiWrite s die v
  else if off = 0x0800 then (if ringBaseOk v then modDie s die fun d => { d with elbase := v } else s)
  else if off = 0x0808 then
    (if ringTailOk v then modDie s die fun d => { d with elTail := v.extractLsb' 16 16 } else s)
  else if off = 0x0810 then modDie s die (elctlWrite v)
  else if off = 0x0880 then
    modDie s die fun d => if ringBaseOk v && d.las.isEmpty then { d with lasbase := v } else d
  else if offIn 0x1000 0x161F off then
    (if off % 64 < 32 then mcwinWrite s (inDie die ((off - 0x1000) / 64)) (off % 64 / 8) v else s)
  else if offIn 0x6000 0x663F off then powerWrite s (inDie die ((off - 0x6000) / 64)) (off % 64) v
  else if offIn 0x6900 0x69FF off then
    modDie s die fun d =>
      let r := cntWrite dieSrcOk (off % 16 ≠ 0) ((off - 0x6900) / 16) v d.ecnt d.esel
      { d with ecnt := r.1, esel := r.2 }
  else if offIn 0x7000 0x763F off then
    modClus s (inDie die ((off - 0x7000) / 64)) fun cl =>
      let r := cntWrite clusSrcOk (off % 16 ≠ 0) (off % 64 / 16) v cl.ecnt cl.esel
      { cl with ecnt := r.1, esel := r.2 }
  else if offIn 0x7800 0x78C7 off then clintPut s (inDie die ((off - 0x7800) / 8)) v
  else s

/-- R377: the Crier writes an entry; the four copies are alike. -/
def remapWrite (s : State) (vc : Nat) (v : Word) : State :=
  if (v &&& 0x7FFFFFFFFFFFFF80#64) != 0 || 24 < bitsAt v 0 5 then s
  else (List.range 4).foldl (fun s d => modDie s d fun x => { x with remap := mset 0 x.remap vc v }) s

/-- R370: a word of a bind record. -/
def slotWrite (s : State) (c : ClusId) (k n : Nat) (v : Word) : State :=
  if n = 0 then
    if v.getLsbD 63 then stageRecord s c k v
    else if (slotAt s c k).st = .free then modSlot s c k fun sl => setSlotWord sl 0 (v &&& 0x9FFFFFFFFFFFFFFF#64)
    else unbindSlot s c k
  else if (slotAt s c k).st = .free then modSlot s c k fun sl => setSlotWord sl n v
  else s

/-- The clusters on which a team of a partition runs. -/
def partClusters (s : State) (part : Nat) : List ClusId :=
  s.clusters.filterMap fun e =>
    match e.2.team with
    | some t => if t.part = part then some (clusOfKey e.1) else none
    | none => none

def modTier (s : State) (part : Nat) (f : Tier → Tier) : State := modPkg s fun p => { p with tiers := mmod {} p.tiers part f }

/-- R359, R404: every team of the partition is asked to stop; the save areas of those the request stops are kept for their restart. -/
def preemptPart (s : State) (part : Nat) : State :=
  (partClusters s part).foldl (fun s c =>
    let fresh : List Nat := match (clusOf s c).team with | some t => if t.preempt.isNone then [t.save] else [] | none => []
    requestPreempt (modTier s part fun t => { t with stopped := t.stopped ++ fresh }) c .request false) s

/-- R404: GO with a request; ignored while the last one has not ended, and for REQ 3. -/
def rpctlGo (s : State) (part : Nat) (req : BitVec 2) : State :=
  if (mget {} s.pkg.tiers part).done && req ≠ 3 then
    preemptPart (modTier s part fun t => { t with doing := req, done := false, acting := true, stopped := [] }) part
  else s

/-- R404: a write of RPCTL: REQ is written whatever becomes of GO (DESIGN CHOICE, log 146). -/
def rpctlWrite (s : State) (part : Nat) (v : Word) : State :=
  let s1 := modTier s part fun t => { t with req := v.setWidth 2 }
  if v.getLsbD 7 then rpctlGo s1 part (v.setWidth 2) else s1

/-- R369, R371, R377, R400, R410, R419: the registers of the Crier and of the sideband; a partition or
safe-tier entry has an event of its own. -/
def crierWrite (s : State) (die off : Nat) (v : Word) : State :=
  if off % 8 ≠ 0 then s
  else if off = 0x2C80 then (if ringBaseOk v then modDie s die fun d => { d with derbase := v } else s)
  else if off = 0x2C88 then
    (if ringTailOk v then modDie s die fun d => { d with derTail := v.extractLsb' 16 16 } else s)
  else if offIn 0x2000 0x2C7F off then
    slotWrite s (inDie die ((off - 0x2000) / 128)) (off % 128 / 64) (off % 64 / 8) v
  else if offIn 0x3000 0x32FF off then remapWrite s ((off - 0x3000) / 8) v
  else if die ≠ 0 then s
  else if off = 0x0900 then (if ringBaseOk v then modPkg s fun p => { p with subbase := v } else s)
  else if off = 0x0908 then
    (if ringTailOk v then modPkg s fun p => { p with subTail := v.extractLsb' 16 16 } else s)
  else if offIn 0x0B00 0x0BFF off && off % 32 = 24 then rpctlWrite s ((off - 0x0B00) / 32) v
  else if off = 0x6800 then pcapSet s v
  else if off = 0x6810 then
    modPkg s fun p => { p with capFloor := p.capFloor && !v.getLsbD 0, capUnmet := p.capUnmet && !v.getLsbD 1 }
  else s

/-- R5: a register write by the Crier or through the sideband. -/
def execRegisterWrite (die : Nat) (off : BitVec 16) (v : Word) (s : State) : Host.Outcome State Fault Refusal :=
  .next (match pageUse die off.toNat with
    | .rw => sharedWrite s die off.toNat v
    | .unassigned => s
    | _ => crierWrite s die off.toNat v)

/-- R160: GO of a kind; the command is ignored while another is in progress. -/
def tlbiGo (s : State) (die kind : Nat) (asid : BitVec 16) : State :=
  tlbiWrite s die (BitVec.ofNat 64 (2 ^ 31 + kind * 2 ^ 16 + asid.toNat))

/-- R160: KIND 0, every page size that holds VA in the ASID. -/
def execTlbiPage (die : Nat) (asid : BitVec 16) (s : State) : Host.Outcome State Fault Refusal := .next (tlbiGo s die 0 asid)

/-- R160: KIND 1, all of the ASID. -/
def execTlbiAsid (die : Nat) (asid : BitVec 16) (s : State) : Host.Outcome State Fault Refusal := .next (tlbiGo s die 1 asid)

/-- R160: KIND 2, everything. -/
def execTlbiAll (die : Nat) (s : State) : Host.Outcome State Fault Refusal := .next (tlbiGo s die 2 0)

/-- R160: an invalidation meets a cached translation, or a cached pointer entry, of an address space over a range. -/
def tlbiHits (cmd : BitVec 2 × BitVec 16 × Word) (asid : BitVec 16) (va size : Nat) : Bool :=
  let a := cmd.2.2.toNat
  cmd.1 = 2 || (asid = cmd.2.1 && (cmd.1 = 1 || (va ≤ a && a < va + size)))

/-- R160: the matching entries of every TLB and walk cache of the package are dropped. -/
def tlbiDrop (cmd : BitVec 2 × BitVec 16 × Word) (s : State) : State :=
  let keep (l : List TlbEnt) : List TlbEnt := l.filter fun e => !tlbiHits cmd e.asid e.leaf.va e.leaf.size
  let s1 := s.cores.foldl (fun s e => modCore s (coreOfKey e.1) fun c => { c with tlb := keep c.tlb }) s
  let s2 := s1.clusters.foldl (fun s e => modClus s (clusOfKey e.1) fun c => { c with tlb := keep c.tlb }) s1
  s2.dies.foldl (fun s e => modDie s e.1 fun d => { d with walks := d.walks.filter fun p => !tlbiHits cmd p.asid p.va p.cover }) s2

/-- R160: the entries of the command in progress are dropped and every access that used one has completed: DONE. -/
def execTlbiDone (die : Nat) (s : State) : Host.Outcome State Fault Refusal :=
  .next (
    match (dieOf s die).tlbCmd with
    | none => s
    | some cmd => modDie (tlbiDrop cmd s) die fun d => { d with tlbDone := true, tlbCmd := none })

/-- R422: counter n of a core wraps: OVF, and the interrupt when OVIE is 1. The event is one more event of its source at a counter
that counts and stands at its last value. -/
def execEcntWrap (id : CoreId) (n : Nat) (s : State) : Host.Outcome State Fault Refusal :=
  .next (
    let sel := mget 0 (coreOf s id).esel n
    if n < 8 && mget 0 (coreOf s id).ecnt n = 0xFFFFFFFFFFFF#64 && bitsAt sel 0 8 ≠ 0 && !sel.getLsbD 10 then
      let s1 := modCore s id fun c => coreWrap { c with ecnt := mset 0 c.ecnt n 0 } n
      if sel.getLsbD 11 then raiseCntov s1 id else s1
    else s)

/-- R423: the offset and the die of a system-window address. -/
def winOff (ea : Word) : Nat := bitsAt ea 0 16
def winDie (ea : Word) : Nat := bitsAt ea 16 2

/-- R423: the forbidden accesses. -/
def winForbidden (super store : Bool) (ea : Word) : Bool :=
  !super || bitsAt ea 18 30 ≠ 0 || pageUse (winDie ea) (winOff ea) = .crier ||
    (store && pageUse (winDie ea) (winOff ea) = .ro)

end Sys2Proof.Machine
end

