-- ==== Sys2Proof/Machine/Branch.lean ====
section
/-!
DEFINITION. Prepare-to-branch, branches and hardware loops (05 R101-R109; 06 R128, R142).
-/
namespace Sys2Proof.Machine

/-- R101: PBR. The target keeps bits [63:56] and [1:0] at zero (R8). -/
def execPbr (t : BitVec 3) (i : BitVec 20) (g : BitVec 3) (s : State) : Host.Outcome State Fault Refusal :=
  .next (scalar (.pbr t i g) g true false (fun s c =>
    .done (modCtx s s.cur fun c => writeB c t (c.pc + i.signExtend 64 * 4) false) (c.pc + 4)) s)

/-- R128: LOD.BR is counted at the load context. -/
def countLodBr (s : State) (c : Ctx) (dep : Bool) : State :=
  if dep && s.cur.kind = .load then count s s.cur.core 0x31 1 (isSuper c) else s

/-- R102: PBRR; poison, then [63:56], then [1:0]. -/
def execPbrr (t : BitVec 3) (a : BitVec 5) (g : BitVec 3) (s : State) : Host.Outcome State Fault Refusal :=
  .next (scalar (.pbrr t a g) g true false (fun s c =>
    let r := readX c a
    consume c [a] <|
      if r.val.extractLsb' 56 8 ≠ 0 then .trap s cPROT r.val
      else if r.val.extractLsb' 0 2 ≠ 0 then .trap s cALIGN r.val
      else .done (modCtx (countLodBr s c r.dep) s.cur fun c => writeB c t r.val r.dep) (c.pc + 4)) s)

/-- R103: the condition P[P] XOR NEG. -/
def brCond (c : Ctx) (p : BitVec 3) (n : BitVec 1) : Bool := readP c p != (n = 1)

/-- R103: BR. -/
def execBr (t p : BitVec 3) (n : BitVec 1) (g : BitVec 3) (s : State) : Host.Outcome State Fault Refusal :=
  .next (scalar (.br t p n g) g true false (fun s c =>
    let s1 := countLodBr s c (readPDep c p)
    if brCond c p n then .done s1 (readB c t) else .done s1 (c.pc + 4)) s)

/-- R103: BRL writes the link only when taken. -/
def execBrl (t p : BitVec 3) (n : BitVec 1) (g : BitVec 3) (s : State) : Host.Outcome State Fault Refusal :=
  .next (scalar (.brl t p n g) g true false (fun s c =>
    let s1 := countLodBr s c (readPDep c p)
    if brCond c p n then .done (setX s1 1 (mkX (c.pc + 4) [])) (readB c t)
    else .done s1 (c.pc + 4)) s)

/-- R106: arm a loop; `illop` is the instruction word for its ILLOP cases. -/
def armLoop (illop : Word) (swp : Bool) (t : BitVec 3) (n : BitVec 2) (a : BitVec 5) (st : BitVec 2)
    (s : State) (c : Ctx) : Res :=
  consume c [a] <|
    let cnt : BitVec 32 := (readX c a).val.setWidth 32
    let stop := readB c t
    if stop.toNat ≤ c.pc.toNat + 4 then .trap s cILLOP illop
    else if swp && (List.range 4).any (fun k => (readLc c k).active && (readLc c k).swp) then .trap s cILLOP illop
    else if cnt = 0 then .done s stop
    else
      let cap : Nat := 2 ^ 32 - 1 - st.toNat
      let m : BitVec 32 := if swp && cap < cnt.toNat then BitVec.ofNat 32 cap else cnt
      let l : LoopCtr :=
        { lc := m + (if swp then st.setWidth 32 else 0), start := c.pc + 4, stop := stop, n := m, iter := 0,
          active := true, swp := swp, stg := st, rem := 0, pree := false, armed := c.armedCount,
          dep := (readX c a).dep }
      .done (modCtx s s.cur fun c =>
        let c1 := { writeLc c n.toNat l with armedCount := c.armedCount + 1 }
        if swp then stagePreds l c1 else c1) (c.pc + 4)

/-- R106: LOOP. -/
def execLoop (t : BitVec 3) (n : BitVec 2) (a : BitVec 5) (g : BitVec 3) (s : State) : Host.Outcome State Fault Refusal :=
  .next (scalar (.loop t n a g) g true false (armLoop (wordOf (.loop t n a g)) false t n a 0) s)

/-- R106: LOOP.swp with ST + 1 stages. -/
def execLoopSwp (t : BitVec 3) (n : BitVec 2) (a : BitVec 5) (st : BitVec 2) (g : BitVec 3) (s : State) :
    Host.Outcome State Fault Refusal :=
  .next (scalar (.loopSwp t n a st g) g true false (armLoop (wordOf (.loopSwp t n a st g)) true t n a st) s)

/-- R109: LBRK; no effect on an inactive counter. -/
def execLbrk (n : BitVec 2) (g : BitVec 3) (s : State) : Host.Outcome State Fault Refusal :=
  .next (scalar (.lbrk n g) g true false (fun s c =>
    .done (modCtx s s.cur fun c =>
      let l := readLc c n.toNat
      if l.active then writeLc c n.toNat { l with active := false, lc := 0 } else c) (c.pc + 4)) s)

end Sys2Proof.Machine
end

