-- ==== Sys2Proof/Machine/Control.lean ====
section
/-!
DEFINITION. The control registers (01 R12-R18, R24, R26, R28; 05 R120; 06 R138, R145, R147;
11 R202; 21 R376; 24 R418, R422).
-/
namespace Sys2Proof.Machine

/-- R18, R62: the assigned identifiers. -/
def crAssigned (r : BitVec 11) : Bool :=
  let n := r.toNat
  n ≤ 1 || (0x10 ≤ n && n ≤ 0x17) || n = 0x20 || (0x30 ≤ n && n ≤ 0x37) || (0x40 ≤ n && n ≤ 0x50) ||
    n = 0x60 || n = 0x61 || n = 0x70 || n = 0x71

/-- R18: a user-mode access raises PRIV. -/
def crPriv (r : BitVec 11) : Bool := 0x10 ≤ r.toNat && r.toNat ≤ 0x17

/-- R18: the register is RO in the mode. -/
def crReadOnly (r : BitVec 11) (super : Bool) : Bool :=
  let n := r.toNat
  !(n ≤ 1 || (super && (crPriv r || n = 0x20 || (0x41 ≤ n && n ≤ 0x50) || n = 0x70 || n = 0x71)))

/-- A field of the unit on the current core. -/
def unitWord (s : State) (f : UnitInfo → Word) : Word :=
  match (curCore s).unit with | some u => f u | none => 0
def teamWord (s : State) (f : Team → Word) : Word :=
  match teamOf s s.cur.core with | some t => f t | none => 0

/-- Read a control register; reserved bits read as zero (R5). -/
def readCr (s : State) (c : Ctx) (r : BitVec 11) : Word :=
  match r.toNat with
  | 0x000 => c.fctl
  | 0x001 => c.srseed.setWidth 64
  | 0x010 => c.tstat
  | 0x011 => c.tsave &&& 0xFF007F
  | 0x012 => c.tepc
  | 0x013 => c.tval
  | 0x014 => c.tvec
  | 0x015 => c.tscratch
  | 0x016 => c.tentry
  | 0x017 => c.intp
  | 0x020 => c.wthresh
  | 0x030 => unitWord s fun u => BitVec.ofNat 64 u.lcid
  | 0x031 => unitWord s fun u => BitVec.ofNat 64 u.teamId
  | 0x032 => unitWord s fun u => BitVec.ofNat 64 u.rank
  | 0x033 => BitVec.ofNat 64 s.cur.core.clus
  | 0x034 => BitVec.ofNat 64 s.cur.core.die
  | 0x035 => BitVec.ofNat 64 (partOf s s.cur.core)
  | 0x036 => unitWord s fun u => u.lid.setWidth 64
  | 0x037 => unitWord s fun u => u.lcnt
  | 0x040 => s.cyc
  | 0x060 => (curCore s).plevel.setWidth 64
  | 0x061 => (curCore s).pdecl.setWidth 64
  | 0x070 => teamWord s fun t => t.rem.setWidth 64
  | 0x071 => teamWord s fun t => t.deadline
  | n => if n < 0x49 then mget 0 (curCore s).ecnt (n - 0x41) else mget 0 (curCore s).esel (n - 0x49)

/-- R16: TSTAT takes PIE, IE and PPM. -/
def writeTstat (old v : Word) : Word := (old &&& ~~~0x78#64) ||| (v &&& 0x78)

/-- R24, R124: bits that become pending set the event latch. -/
def writeIntp (cyc : Nat) (v : Word) (c : Ctx) : Ctx :=
  { putIntp cyc v c with latch := c.latch || (v &&& ~~~c.intp &&& 3) != 0 }

/-- Write the current context. -/
def putCtx (s : State) (f : Ctx → Ctx) : Option State := some (modCtx s s.cur f)

/-- Write a control register that is RW in the mode; none is ILLOP. -/
def writeCr (s : State) (r : BitVec 11) (v : Word) : Option State :=
  match r.toNat with
  | 0x000 => if fctlValid v then putCtx s fun c => { c with fctl := v } else none
  | 0x001 => putCtx s fun c => { c with srseed := v.setWidth 32 }
  | 0x010 =>
    if (v &&& 0xFFFFFFFFFF00FF80#64) != 0 || 1 < (tsPpm v).toNat then none
    else putCtx s fun c => { c with tstat := writeTstat c.tstat v }
  | 0x011 => putCtx s fun c => { c with tsave := v }
  | 0x012 => if (v &&& 0xFF00000000000003#64) != 0 then none else putCtx s fun c => { c with tepc := v }
  | 0x013 => putCtx s fun c => { c with tval := v }
  | 0x014 => if (v &&& 0xFFF#64) != 0 then none else putCtx s fun c => { c with tvec := v }
  | 0x015 => putCtx s fun c => { c with tscratch := v }
  | 0x016 => if (v &&& 0xFFFFFFFFFFE00000#64) != 0 then none else putCtx s fun c => { c with tentry := v }
  | 0x017 => if (v &&& 0xFFFFFFFFFFFF00FC#64) != 0 then none else putCtx s (writeIntp s.cyc.toNat v)
  | 0x020 => if (v &&& 0xFFFFFFFF00000000#64) != 0 then none else putCtx s fun c => { c with wthresh := v }
  | 0x070 =>
    if (v &&& 0xFFFFFFFF00000000#64) != 0 then none
    else some (modTeam s (CoreId.cl s.cur.core) fun t => { t with rem := v.setWidth 32 })
  | 0x071 =>
    let s1 := modTeam s (CoreId.cl s.cur.core) fun t => { t with deadline := v }
    some (match teamOf s s.cur.core with
      | some t => if t.slot < 2 then modSlot s1 (CoreId.cl s.cur.core) t.slot fun sl => setSlotWord sl 7 v else s1
      | none => s1)
  | n =>
    if n < 0x49 then some (modCore s s.cur.core fun c => { c with ecnt := mset 0 c.ecnt (n - 0x41) (v &&& 0xFFFFFFFFFFFF#64) })
    else if selOk coreSrcOk v then
      some (modCore s s.cur.core fun c => { c with esel := mset 0 c.esel (n - 0x49) (selWrite (mget 0 c.esel (n - 0x49)) v) })
    else none

/-- R128: what a control register holds, with its q.xl tag. -/
def crX (s : State) (c : Ctx) (r : BitVec 11) : XReg := { val := readCr s c r, dep := mget false c.crdep r.toNat }

/-- R128: the q.xl tag of a written control register (DEDUCED, log 168). -/
def tagCr (s : State) (r : BitVec 11) (dep : Bool) : State :=
  modCtx s s.cur fun c => { c with crdep := mset false c.crdep r.toNat dep }

/-- R120: a control-register instruction that writes f(old, X[A]); `both` tells that the old value counts in it. It starts from the
machine s0 before the issue was counted: a counter, selector or INTP that this count updates takes the update after the write. -/
def crBody (i : Instr) (d a : BitVec 5) (r : BitVec 11) (both : Bool) (f : Word → Word → Word) (s0 s : State) (c : Ctx) : Res :=
  if crPriv r && !isSuper c then .trap s cPRIV (wordOf i)
  else consume c [a] <|
    let old := crX s0 (curCtx s0) r
    if crReadOnly r (isSuper c) then .done (setX s d old) (c.pc + 4)
    else match writeCr s0 r (f old.val (readX c a).val) with
      | some w => .done (setX (tagCr (countIssueBy s0 w) r ((readX c a).dep || (both && old.dep))) d old) (c.pc + 4)
      | none => .trap s cILLOP (wordOf i)

/-- R120: CRR; it reads what stood before its own issue was counted. -/
def execCrr (d : BitVec 5) (r : BitVec 11) (g : BitVec 3) (s0 : State) : Host.Outcome State Fault Refusal :=
  .next (scalar (.crr d r g) g (crAssigned r) false (fun s c =>
    if crPriv r && !isSuper c then .trap s cPRIV (wordOf (.crr d r g))
    else .done (setX s d (crX s0 (curCtx s0) r)) (c.pc + 4)) s0)

/-- R120: CRW. -/
def execCrw (d a : BitVec 5) (r : BitVec 11) (g : BitVec 3) (s : State) : Host.Outcome State Fault Refusal :=
  .next (scalar (.crw d a r g) g (crAssigned r) false (crBody (.crw d a r g) d a r false (fun _ v => v) s) s)

/-- R120: CRS. -/
def execCrs (d a : BitVec 5) (r : BitVec 11) (g : BitVec 3) (s : State) : Host.Outcome State Fault Refusal :=
  .next (scalar (.crs d a r g) g (crAssigned r) false (crBody (.crs d a r g) d a r true (fun old v => old ||| v) s) s)

/-- R120: CRC. -/
def execCrc (d a : BitVec 5) (r : BitVec 11) (g : BitVec 3) (s : State) : Host.Outcome State Fault Refusal :=
  .next (scalar (.crc d a r g) g (crAssigned r) false (crBody (.crc d a r g) d a r true (fun old v => old &&& ~~~v) s) s)

end Sys2Proof.Machine
end

