-- ==== Sys2Proof/Machine/Copy.lean ====
section
/-!
DEFINITION. The words of the copy engine (15 R298-R314; 08 R188, R189).
-/
namespace Sys2Proof.Machine

/-- R301: the space and the address of an operand AD. -/
def adSpc (v : Word) : Nat := bitsAt v 62 2
def adAddr (v : Word) : Nat := bitsAt v 0 56

/-- R301, R302: an AD without a reserved bit; `tile` where SPC 2 is accepted. -/
def adOk (tile : Bool) (v : Word) : Bool :=
  bitsAt v 56 6 = 0 &&
    (adSpc v = 0 || (adSpc v = 1 && adAddr v < 2 ^ 23) || (tile && adSpc v = 2 && (v &&& 0x00FFFFFFFFFFFCC0#64) == 0))

/-- R301, R302: [off, off + n) of a rank's stash is raw, of the team, and not past 2 MiB. -/
def rawRange (s : State) (id : CoreId) (rank off n : Nat) : Bool :=
  let c := coreOf s (coreAt (CoreId.cl id) rank)
  rankOk s id rank && c.unit.isSome && off + n ≤ 2 ^ 21 && !c.maps.any fun m => rangesMeet m.off m.len off n

/-- A range of bytes that an AD begins, rows of `n` bytes at a pitch: a stash range is raw; a virtual one is
judged by the accesses (R303). -/
def sideOk (s : State) (id : CoreId) (v : Word) (rows pitch n : Nat) : Bool :=
  adSpc v ≠ 1 ||
    (stashOff (adAddr v) + (rows - 1) * pitch + n ≤ 2 ^ 21 &&
      (List.range rows).all fun k => rawRange s id (stashRank (adAddr v)) (stashOff (adAddr v) + k * pitch) n)

/-- R303: a step reads, or writes, a range of the memory or of the stash. -/
def cpTake (id : CoreId) (super : Bool) (spc a n : Nat) (p : Part) : Except Halt (List Pz × Part) :=
  if spc = 1 then stashTake (coreAt (CoreId.cl id) (stashRank a)) super (stashOff a) n p else memTake id super 15 a n p
def cpGive (id : CoreId) (super : Bool) (spc a : Nat) (bs : List Pz) (p : Part) : Except Halt Part :=
  if spc = 1 then stashGive (coreAt (CoreId.cl id) (stashRank a)) super (stashOff a) bs p else memGive id super 15 a bs p

/-- A piece of a copy. -/
structure CpPiece where
  src : Nat
  dst : Nat
  len : Nat
  deriving DecidableEq, Repr

/-- Bytes to the end of the page of a virtual address; a stash range has no pages. -/
def toPageEnd (spc a n : Nat) : Nat := if spc = 0 then Nat.min n (65536 - a % 65536) else n

/-- R303: cut n bytes at the pages of both sides, but at no inner place of a destination word: it is written in full. -/
def cutCopy (ss ds : Nat) : Nat → Nat → Nat → Nat → List CpPiece
  | 0, _, _, _ => []
  | fuel + 1, a, b, n =>
    if n = 0 then []
    else
      let k0 := Nat.min (toPageEnd ss a n) (toPageEnd ds b n)
      let k1 := k0 - (b + k0) % 4
      let k := if k0 = n then n else if k1 = 0 then Nat.min n (4 - b % 4) else k1
      ⟨a, b, k⟩ :: cutCopy ss ds fuel (a + k) (b + k) (n - k)

/-- The pieces of one row. -/
def rowPieces (ss ds a b n : Nat) : List CpPiece := cutCopy ss ds (4 * (n / 65536 + 2)) a b n

/-- A step copies a piece: read, then written. -/
def copyPiece (id : CoreId) (super : Bool) (ss ds : Nat) (p : Part) (c : CpPiece) : Except Halt Part :=
  match cpTake id super ss c.src c.len p with
  | .error h => .error h
  | .ok (bs, p1) => cpGive id super ds c.dst bs p1

/-- Rows to copy: where each begins on both sides, and their length. -/
abbrev CpRows := List (Nat × Nat)

/-- R305: the source and the destination overlap, by the ranges from the first row to the end of the last. -/
def copyMeets (ss ds n : Nat) (rows : CpRows) : Bool :=
  match rows, rows.getLast? with
  | r :: _, some l => ss = ds && rangesMeet r.1 (l.1 + n - r.1) r.2 (l.2 + n - r.2)
  | _, _ => false

/-- R303, R305: A COPY: piece by piece, or the whole source before a byte is written where the ranges overlap. -/
def copyRun (id : CoreId) (ss ds n : Nat) (rows : CpRows) (s : State) (en : Entry) : Run :=
  let super := en.modes.super
  if copyMeets ss ds n rows then
    stepsOf 1 (fun p _ => match takeAll (fun p r => cpTake id super ss r.1 n p) rows p with
      | .error h => .error h
      | .ok (l, p1) => endStep 0 (giveAll (fun p q => cpGive id super ds q.1.2 q.2 p) (rows.zip l) p1)) s en
  else
    let ps := rows.flatMap fun r => rowPieces ss ds r.1 r.2 n
    stepsOf ps.length (fun p k => endStep 0 (match ps[k]? with | some c => copyPiece id super ss ds p c | none => .ok p)) s en

/-- R304: LEN of CPY, CFILL and CCHK. -/
def lenOk (v : Word) : Bool := onlyBits v 0x3FFFFF && 1 ≤ v.toNat && v.toNat ≤ 2 ^ 21

/-- R314: the occupancies. -/
def cpDur (b : Nat) : Nat := 48 + ceilDiv b 160

/-- R304, R305: CPY. -/
def cpySpec : WordSpec :=
  { eng := .cp, opc := 0, pops := 3, src := 0x5A
    check := fun s id en =>
      let n := (op en.ops 2).toNat
      need 12 (adOk false (op en.ops 0) && adOk false (op en.ops 1) && lenOk (op en.ops 2) &&
        sideOk s id (op en.ops 0) 1 0 n && sideOk s id (op en.ops 1) 1 0 n)
    dur := fun _ _ ops => cpDur (op ops 2).toNat
    weight := fun _ _ _ => 4
    run := fun s id en =>
      let a := op en.ops 0
      let b := op en.ops 1
      copyRun id (adSpc a) (adSpc b) (op en.ops 2).toNat [(adAddr a, adAddr b)] s en }

/-- R305: CPY. -/
def execCpy (f : BitVec 6) (s : State) : Host.Outcome State Fault Refusal := .next (launchWord (.cpy f) cpySpec f s)

/-- R304: the geometry of CPY2. -/
def c2Row (ops : List Word) : Nat := bitsAt (op ops 3) 0 16 + 1
def c2Rows (ops : List Word) : Nat := bitsAt (op ops 3) 16 12 + 1

/-- R304, R305: CPY2. -/
def cpy2Spec : WordSpec :=
  { eng := .cp, opc := 1, pops := 4, src := 0x5A
    check := fun s id en =>
      let n := c2Row en.ops
      let r := c2Rows en.ops
      need 12 (adOk false (op en.ops 0) && adOk false (op en.ops 1) && onlyBits (op en.ops 3) 0xFFFFFFF && r * n ≤ 2 ^ 21 &&
        sideOk s id (op en.ops 0) r (bitsAt (op en.ops 2) 0 32) n && sideOk s id (op en.ops 1) r (bitsAt (op en.ops 2) 32 32) n)
    dur := fun _ _ ops => cpDur (c2Rows ops * c2Row ops)
    weight := fun _ _ _ => 4
    run := fun s id en =>
      let a := op en.ops 0
      let b := op en.ops 1
      copyRun id (adSpc a) (adSpc b) (c2Row en.ops) ((List.range (c2Rows en.ops)).map fun k =>
        (adAddr a + k * bitsAt (op en.ops 2) 0 32, adAddr b + k * bitsAt (op en.ops 2) 32 32)) s en }

/-- R305: CPY2. -/
def execCpy2 (f : BitVec 6) (s : State) : Host.Outcome State Fault Refusal := .next (launchWord (.cpy2 f) cpy2Spec f s)

/-- R304: CTL of GATH and SCAT. -/
def gsN (v : Word) : Nat := bitsAt v 0 12 + 1
def gsRb (v : Word) : Nat := bitsAt v 16 16 + 1
def gsPitch (v : Word) : Nat := bitsAt v 32 32

/-- R304: an index operand. -/
def gsIdxOk (s : State) (id : CoreId) (v : Word) (n : Nat) : Bool :=
  adOk false v && adSpc v = 1 && adAddr v % 4 = 0 && rawRange s id (stashRank (adAddr v)) (stashOff (adAddr v)) (4 * n)

/-- R307: row k of a GATH or SCAT. -/
def gsStep (gather : Bool) (id : CoreId) (en : Entry) (p : Part) (k : Nat) : Except Halt (State × Word) :=
  let ctl := op en.ops 3
  match indexTake id en .cp (adAddr (op en.ops 1)) k p with
  | .error h => .error h
  | .ok (i, p1) =>
    let base := op en.ops (if gather then 0 else 2)
    let side := op en.ops (if gather then 2 else 0)
    let far := (adAddr base + i * gsPitch ctl) % 2 ^ 64
    let near := adAddr side + k * gsRb ctl
    let ps := if gather then rowPieces 0 (adSpc side) far near (gsRb ctl) else rowPieces (adSpc side) 0 near far (gsRb ctl)
    endStep 0 (giveAll (copyPiece id en.modes.super (if gather then 0 else adSpc side) (if gather then adSpc side else 0)) ps p1)

/-- R304, R307: GATH and SCAT. -/
def gsSpec (gather : Bool) (opc : Nat) : WordSpec :=
  { eng := .cp, opc := opc, pops := 4, src := 0x5A
    check := fun s id en =>
      let ctl := op en.ops 3
      let base := op en.ops (if gather then 0 else 2)
      let side := op en.ops (if gather then 2 else 0)
      need 12 (adOk false base && adSpc base = 0 && adOk false side && onlyBits ctl 0xFFFFFFFFFFFF0FFF &&
        gsN ctl * gsRb ctl ≤ 2 ^ 21 && gsIdxOk s id (op en.ops 1) (gsN ctl) && sideOk s id side 1 0 (gsN ctl * gsRb ctl))
    dur := fun _ _ ops => cpDur (gsN (op ops 3) * gsRb (op ops 3))
    weight := fun _ _ _ => 4
    run := fun s id en => stepsOf (gsN (op en.ops 3)) (gsStep gather id en) s en }

/-- R307: GATH. -/
def execGath (f : BitVec 6) (s : State) : Host.Outcome State Fault Refusal := .next (launchWord (.gath f) (gsSpec true 3) f s)

/-- R307: SCAT. -/
def execScat (f : BitVec 6) (s : State) : Host.Outcome State Fault Refusal := .next (launchWord (.scat f) (gsSpec false 4) f s)

/-- R305: CFILL from byte k of the destination on. -/
def fillBytes (pat : Word) (k n : Nat) : List Pz :=
  (List.range n).map fun i => (bitsAt pat (8 * ((k + i) % 8)) 8, false)

/-- R304, R305: CFILL. -/
def cfillSpec : WordSpec :=
  { eng := .cp, opc := 9, pops := 3, src := 0x5A
    check := fun s id en =>
      need 12 (adOk false (op en.ops 0) && lenOk (op en.ops 2) && sideOk s id (op en.ops 0) 1 0 (op en.ops 2).toNat)
    dur := fun _ _ ops => cpDur (op ops 2).toNat
    weight := fun _ _ _ => 4
    run := fun s id en =>
      let d := op en.ops 0
      stepsOf 1 (fun p _ => endStep 0 (cpGive id en.modes.super (adSpc d) (adAddr d) (fillBytes (op en.ops 1) 0 (op en.ops 2).toNat) p)) s en }

/-- R305: CFILL. -/
def execCfill (f : BitVec 6) (s : State) : Host.Outcome State Fault Refusal := .next (launchWord (.cfill f) cfillSpec f s)

/-- R306: fields of CTL. -/
def cvRows (v : Word) : Nat := bitsAt v 0 7 + 1
def cvCols (v : Word) : Nat := bitsAt v 7 7 + 1
def cvSf (v : Word) : BitVec 4 := v.extractLsb' 14 4
def cvDf (v : Word) : BitVec 4 := v.extractLsb' 18 4
def cvPitch (v : Word) : Nat := bitsAt v 32 16
def cvStamp (v : Word) : BitVec 16 := v.extractLsb' 48 16

/-- R306: the memory or stash region of a side. -/
def cvRegion (v ad : Word) (fmt : BitVec 4) (rows cols : Nat) : Region :=
  { va := adAddr ad, pitch := cvPitch v * eltBits fmt / 8, fmt := fmt, rows := rows, cols := cols }

/-- R306: an address in a page that holds no blocks. One that does not translate is judged by the access. -/
def rawSide (s : State) (id : CoreId) (va : Nat) : Bool :=
  match walkBy (engL1 s) s id va with
  | some l => !isBlocked l.fmt
  | none => false

/-- R306: one side of CPYT and CCONV. -/
def cvSideOk (s : State) (id : CoreId) (ctl ad : Word) (fmt : BitVec 4) (rows cols : Nat) : Bool :=
  adOk true ad &&
    (if adSpc ad = 2 then
      let t := winBind s id ad
      rankOk s id (bitsAt ad 8 2) && t.bound && t.fmt = fmt && tileRows t = rows && tileCols t = cols
    else
      cvCols ctl ≤ cvPitch ctl &&
        (if isBlocked fmt then
          adSpc ad = 0 && cvPitch ctl * eltBits fmt % 8 = 0 && !regionBad s id (cvRegion ctl ad fmt rows cols) && !rawSide s id (adAddr ad)
         else sideOk s id ad rows (cvPitch ctl * eltBits fmt / 8) (packedRow fmt cols)))

/-- R306: the block limits of a format. -/
def cvBlocksOk (fmt : BitVec 4) (rows cols : Nat) : Bool :=
  if isSq fmt then rows % 4 = 0 && cols % 4 = 0 else if fmt = 5 then rows % 32 = 0 && cols % 32 = 0 else true

/-- The rows and columns of the destination. -/
def cvDims (trans : Bool) (ctl : Word) : Nat × Nat := if trans then (cvCols ctl, cvRows ctl) else (cvRows ctl, cvCols ctl)

/-- R306: a step reads the whole source as a grid. -/
def cvTake (id : CoreId) (super : Bool) (ctl ad : Word) (p : Part) : Except Halt (Grid × Part) :=
  let fmt := cvSf ctl
  if adSpc ad = 2 then
    tileRowsTake (winCore id ad) super (winBind p.s id ad) (cvRows ctl) (cvCols ctl) p
  else if adSpc ad = 1 then
    match takeAll (fun p i => cpTake id super 1 (adAddr ad + i * (cvPitch ctl * eltBits fmt / 8)) (packedRow fmt (cvCols ctl)) p)
        (List.range (cvRows ctl)) p with
    | .error h => .error h
    | .ok (l, p1) => .ok ({ fmt := fmt, scs := [], rows := l.map fun b => codesOf fmt b (cvCols ctl) }, p1)
  else regionTake id super (cvRegion ctl ad fmt (cvRows ctl) (cvCols ctl)) 0 (cvRows ctl) p

/-- R306, R86: the address of an element of the destination. -/
def cvAddr (s : State) (id : CoreId) (ctl ad : Word) (i j : Nat) : Nat :=
  if adSpc ad = 2 then tileAddr (winCore id ad) (winBind s id ad) i j
  else eltAddr (cvDf ctl) (adAddr ad + i * (cvPitch ctl * eltBits (cvDf ctl) / 8)) j

/-- R306: a step writes the destination. -/
def cvGive (id : CoreId) (super : Bool) (ctl ad : Word) (rows cols : Nat) (g : Grid) (p : Part) : Except Halt Part :=
  let fmt := cvDf ctl
  if adSpc ad = 2 then tileGive (winCore id ad) super (winBind p.s id ad) 0 0 g p
  else if adSpc ad = 1 then
    giveAll (fun p r => cpGive id super 1 (adAddr ad + r.2 * (cvPitch ctl * eltBits fmt / 8)) (packRow fmt r.1) p) g.rows.zipIdx p
  else regionGive id super (cvRegion ctl ad fmt rows cols) 0 g p

/-- R306: CPYT and CCONV: the source is read, moved and written. -/
def cvStep (trans : Bool) (id : CoreId) (en : Entry) (p : Part) : Except Halt (State × Word) :=
  let c := op en.ops 2
  let d := cvDims trans c
  match cvTake id en.modes.super c (op en.ops 0) p with
  | .error h => .error h
  | .ok (g, p1) =>
    let t : Target := { fmt := cvDf c, rm := en.modes.rm, ftz := en.modes.ftz, seed := en.modes.seed, stamp := cvStamp c,
                        addr := cvAddr p1.s id c (op en.ops 1) }
    let q := cvMove trans t (cvRows c) (cvCols c) g
    endStep q.2 (cvGive id en.modes.super c (op en.ops 1) d.1 d.2 q.1 p1)

/-- The tiles of CPYT and CCONV. -/
def cvTiles (id : CoreId) (ops : List Word) : List (CoreId × BitVec 6 × TileAct) :=
  (if adSpc (op ops 0) = 2 then [(winCore id (op ops 0), winTile (op ops 0), .readDone)] else []) ++
  (if adSpc (op ops 1) = 2 then [(winCore id (op ops 1), winTile (op ops 1), .filled)] else [])

/-- R304, R306, R314: CPYT and CCONV. -/
def cvSpec (trans : Bool) (opc : Nat) : WordSpec :=
  { eng := .cp, opc := opc, pops := 3, src := 0x5A
    conds := fun s id ops =>
      (adSpc (op ops 0) ≠ 2 || winReads s id (op ops 0)) && (adSpc (op ops 1) ≠ 2 || winFills s id (op ops 1))
    check := fun s id en =>
      let c := op en.ops 2
      let d := cvDims trans c
      need 12 (onlyBits c 0xFFFFFFFF003FFFFF && cvSf c ≠ 0 && cvDf c ≠ 0 && (cvSf c).toNat ≤ 9 && (cvDf c).toNat ≤ 9 &&
        (!trans || cvSf c = cvDf c) && cvBlocksOk (cvDf c) (cvRows c) (cvCols c) &&
        cvSideOk s id c (op en.ops 0) (cvSf c) (cvRows c) (cvCols c) && cvSideOk s id c (op en.ops 1) (cvDf c) d.1 d.2)
    acts := fun _ id ops => cvTiles id ops
    dur := fun _ _ ops =>
      let c := op ops 2
      let d := cvDims trans c
      64 + ceilDiv (d.1 * packedRow (cvDf c) d.2 + scaleBytes (cvDf c) d.1 d.2) 80
    weight := fun _ _ _ => 4
    run := fun s id en => stepsOf 1 (fun p _ => cvStep trans id en p) s en }

/-- R306: CPYT. -/
def execCpyt (f : BitVec 6) (s : State) : Host.Outcome State Fault Refusal := .next (launchWord (.cpyt f) (cvSpec true 2) f s)

/-- R306: CCONV. -/
def execCconv (f : BitVec 6) (s : State) : Host.Outcome State Fault Refusal := .next (launchWord (.cconv f) (cvSpec false 5) f s)

/-- R188: a window register: base and end of the window, and its ranks. -/
def winOpen (w : Word) : Bool := w.getLsbD 63
def winBase (w : Word) : Nat := bitsAt w 12 9 * 4096
def winSize (w : Word) : Nat := bitsAt w 0 9 * 4096
def winMask (w : Word) : Nat := bitsAt w 24 4

/-- R304: CTL of MCAST. -/
def mcLen (v : Word) : Nat := bitsAt v 0 22
def mcMask (v : Word) : Nat := bitsAt v 24 4

/-- R189: the open windows that hold a destination. -/
def windowsNow (s : State) (id : CoreId) (off n : Nat) : List Word :=
  ((List.range 4).map fun k => mget 0 (clusOf s (CoreId.cl id)).mcwin k).filter fun w =>
    winOpen w && winBase w ≤ off && off + n ≤ winBase w + winSize w

/-- R188, R189: those of an MCAST: as they were at its start. -/
def windowsOf (s : State) (id : CoreId) (off n : Nat) : List Word :=
  ((queueOf s id .cp).entry.bind (·.wins)).getD (windowsNow s id off n)

/-- The ranks of an MCAST: of the team for a window store (R189). -/
def mcRanks (s : State) (id : CoreId) (window : Bool) (mask : Nat) : List Nat :=
  (List.range 4).filter fun r => natBit mask r && (!window || r < teamSize s id)

/-- Write bytes at an offset of the stash of every rank. -/
def ranksGive (id : CoreId) (super : Bool) (ranks : List Nat) (off : Nat) (bs : List Pz) (p : Part) : Except Halt Part :=
  giveAll (fun p r => stashGive (coreAt (CoreId.cl id) r) super off bs p) ranks p

/-- R308, R305: an MCAST outside every window. -/
def mcastPlain (id : CoreId) (en : Entry) (ranks : List Nat) (s : State) : Run :=
  let src := op en.ops 0
  let off := (op en.ops 1).toNat
  let n := mcLen (op en.ops 2)
  let meets := adSpc src = 1 && ranks.contains (stashRank (adAddr src)) && rangesMeet (stashOff (adAddr src)) n off n
  let ps := if meets then [⟨adAddr src, off, n⟩] else rowPieces (adSpc src) 1 (adAddr src) off n
  stepsOf ps.length (fun p k => match ps[k]? with
    | none => .ok (p.s, 0)
    | some c => match cpTake id en.modes.super (adSpc src) c.src c.len p with
      | .error h => .error h
      | .ok (bs, p1) => endStep 0 (ranksGive id en.modes.super ranks c.dst bs p1)) s en

/-- R189: a window store: piece k lands at start + 48 + 2 k. -/
def mcastWindow (id : CoreId) (en : Entry) (ranks : List Nat) (s : State) : Run :=
  let src := op en.ops 0
  let off := (op en.ops 1).toNat
  let len := mcLen (op en.ops 2)
  stepsOf (ceilDiv len 128) (fun p k =>
    match cpTake id en.modes.super (adSpc src) (adAddr src + 128 * k) (Nat.min 128 (len - 128 * k)) p with
    | .error h => .error h
    | .ok (bs, p1) =>
      let ps := ranks.map fun r => ({ cycle := en.startAt + 48 + 2 * k, rank := r, off := off + 128 * k, bytes := bs } : McPiece)
      .ok (modClus p1.s (CoreId.cl id) fun cl => { cl with mcPieces := cl.mcPieces ++ ps }, 0)) s en

/-- R304, R308, R189: MCAST. -/
def mcastSpec : WordSpec :=
  { eng := .cp, opc := 6, pops := 3, src := 0x5A
    check := fun s id en =>
      let c := op en.ops 2
      let off := (op en.ops 1).toNat
      let ws := windowsOf s id off (mcLen c)
      need 12 (adOk false (op en.ops 0) && onlyBits (op en.ops 1) 0x1FFFFF && onlyBits c 0xF3FFFFF && 1 ≤ mcLen c &&
        mcLen c ≤ 2 ^ 21 && mcMask c ≠ 0 && sideOk s id (op en.ops 0) 1 0 (mcLen c) &&
        (ws.isEmpty || ws.any fun w => winMask w = mcMask c) &&
        (mcRanks s id (!ws.isEmpty) (mcMask c)).all fun r => rawRange s id r off (mcLen c))
    dur := fun s id ops =>
      let n := mcLen (op ops 2)
      if (windowsOf s id (op ops 1).toNat n).isEmpty then cpDur n else Nat.max (cpDur n) (49 + 2 * (ceilDiv n 128 - 1))
    weight := fun _ _ _ => 4
    run := fun s id en =>
      let c := op en.ops 2
      let ws := windowsOf s id (op en.ops 1).toNat (mcLen c)
      let ranks := mcRanks s id (!ws.isEmpty) (mcMask c)
      let en1 := { en with wins := some ws }
      if ws.isEmpty then mcastPlain id en1 ranks s else mcastWindow id en1 ranks s }

/-- R308: MCAST. -/
def execMcast (f : BitVec 6) (s : State) : Host.Outcome State Fault Refusal := .next (launchWord (.mcast f) mcastSpec f s)

/-- Where the unit of a logical core stands (R309). -/
inductive UnitAt where
  | here (id : CoreId)
  | saved (key rank : Nat)
  | later
  | gone
  deriving DecidableEq, Repr

/-- A team is team `index` of the same launch. -/
def sameLaunch (t u : Team) (index : Nat) : Bool := u.job = t.job && u.lid = t.lid && u.jcb = t.jcb && u.index = index

/-- The team of an index of a launch has started. -/
def teamStarted (s : State) (t : Team) (index : Nat) : Bool :=
  match t.graph with
  | some (gid, v) => match graphOf s t.jcb gid with
    | some g => index < (g.nodes.getD v ⟨0, 0, [], 0, 0, 1, 0, true⟩).started || g.cancelled
    | none => true
  | none => match launchOf s t.job t.lid with
    | some l => l.started.contains index || l.cancelled
    | none => true

/-- R309, R313: the cluster, or the save area, of a team of a launch. -/
def clusOfTeam (s : State) (t : Team) (index : Nat) : Option ClusId :=
  (s.clusters.find? fun e => match e.2.team with | some u => sameLaunch t u index | none => false).map fun e => clusOfKey e.1
def savedOfTeam (s : State) (t : Team) (index : Nat) : Option Nat :=
  (s.pkg.saved.find? fun e => sameLaunch t e.2.team index).map (·.1)

/-- R309: the unit of a logical core of a launch. -/
def unitAt (s : State) (t : Team) (lcid : Nat) : UnitAt :=
  let index := lcid / t.size
  let rank := lcid % t.size
  if t.grid ≤ lcid then .gone
  else match clusOfTeam s t index, savedOfTeam s t index with
    | some c, _ => if (coreOf s (coreAt c rank)).unit.isSome then .here (coreAt c rank) else .gone
    | none, some k =>
      let sv := mget { team := {}, cores := [], barriers := [], mcwin := [] } s.pkg.saved k
      if (sv.cores.getD rank {}).unit.isSome then .saved k rank else .gone
    | none, none => if teamStarted s t index then .gone else .later

/-- Change a core in a save area. -/
def modSaved (s : State) (key rank : Nat) (f : Core → Core) : State :=
  modPkg s fun p => { p with saved := p.saved.map fun e =>
    if e.1 = key then (e.1, { e.2 with cores := e.2.cores.zipIdx.map fun c => if c.2 = rank then f c.1 else c.1 }) else e }

/-- R309: the target range is raw. -/
def rawIn (c : Core) (off n : Nat) : Bool := !c.maps.any fun m => rangesMeet m.off m.len off n

/-- R304: CTL of RSTS. -/
def rsLen (v : Word) : Nat := bitsAt v 0 13
def rsLcid (v : Word) : Nat := bitsAt v 32 12

/-- R195: a tagged operation of the CPQ. -/
def tagCp (s : State) (id : CoreId) (v : Word) : State :=
  modQueue (keepTag s (cpSource id) (queueOf s id .cp).opSeq v) id .cp fun q => { q with opSeq := q.opSeq + 1 }

/-- R309, R195: the add to the counter at its home slice, from its bytes there: tagged, its source the CPQ. -/
def rstsCount (id : CoreId) (x : Xl) (old : Nat) (s : State) : State :=
  tagCp (putXl s id x ((leBytes 8 ((old + 1) % 2 ^ 64)).map fun b => (b.toNat, false))) id (BitVec.ofNat 64 old)

/-- R309: a target of RSTS can take bytes. -/
def rstsRaw (s : State) (u : UnitAt) (off n : Nat) : Bool :=
  match u with
  | .here c => rawIn (coreOf s c) off n
  | .saved k r => rawIn ((mget { team := {}, cores := [], barriers := [], mcwin := [] } s.pkg.saved k).cores.getD r {}) off n
  | .later => true
  | .gone => false

/-- The bytes of an RSTS are put in place. -/
def rstsPut (s : State) (u : UnitAt) (off : Nat) (bs : List Pz) : State :=
  match u with
  | .here c => stashPutPz (countPeer s c false) c off bs
  | .saved k r => modSaved s k r fun c => stashSetPz c off bs
  | _ => s

/-- R309: RSTS. A unit of the launch that has not started yet keeps the word waiting (DEDUCED, log 46). -/
def rstsRun (s : State) (id : CoreId) (en : Entry) : Run :=
  let ctl := op en.ops 3
  let off := (op en.ops 1).toNat
  let n := rsLen ctl
  let cnt := op en.ops 2
  let src := op en.ops 0
  match teamOf s id with
  | none => .stop s en cENGERR (engTval (word16 (.rsts en.lf)) en.pos 13) .goOn
  | some t =>
    let u := unitAt s t (rsLcid ctl)
    if u = .later then .wait s en
    else if !rstsRaw s u off n then .stop s en cENGERR (engTval (word16 (.rsts en.lf)) en.pos 13) .goOn
    else match cpTake id en.modes.super (adSpc src) (adAddr src) n { s := s, kept := en.kept } with
    | .error h => .stop h.s { en with kept := h.kept } h.cause h.tval .goOn
    | .ok (bs, p) =>
      let en1 := { en with kept := p.got }
      match cohXlBy (engL1 p.s) p.s en.modes.super true cnt 8 with
      | .error e => .stop (engFault p.s id (e, cnt)).1 en1 e cnt .goOn
      | .ok x =>
        let old := homeRead (engFill p.s id x.leaf) id 2 (homeKey x.leaf x.pa) x.pa 8
        if old.1.any (·.2) then
          let va := poisonOrigin old.2.memPoison cnt.toNat x.pa 8
          .stop (logEntryPoison old.2 id .cp en.index (x.pa + (va.toNat - cnt.toNat)) va) en1 cPOISON (poisonAddr cnt) .goOn
        else .done (rstsCount id x (leNat (old.1.map fun b => BitVec.ofNat 8 b.1)) (rstsPut old.2 u off bs)) en.flags

/-- R304, R309: RSTS. -/
def rstsSpec : WordSpec :=
  { eng := .cp, opc := 7, pops := 4, src := 0x5A
    check := fun s id en =>
      let ctl := op en.ops 3
      let n := rsLen ctl
      need 12 (adOk false (op en.ops 0) && onlyBits (op en.ops 1) 0x1FFFFF && (op en.ops 2).toNat % 8 = 0 &&
        onlyBits ctl 0xFFF00001FFF && 4 ≤ n && n ≤ 4096 && n % 4 = 0 && adAddr (op en.ops 0) % 4 = 0 &&
        (op en.ops 1).toNat % 4 = 0 && (op en.ops 1).toNat + n ≤ 2 ^ 21 && sideOk s id (op en.ops 0) 1 0 n)
    dur := fun _ _ ops => cpDur (rsLen (op ops 3))
    weight := fun _ _ _ => 4
    run := rstsRun }

/-- R309: RSTS. -/
def execRsts (f : BitVec 6) (s : State) : Host.Outcome State Fault Refusal := .next (launchWord (.rsts f) rstsSpec f s)

/-- R310: fields of CRED's CTL, and the bytes of an element. -/
def crCount (v : Word) : Nat := bitsAt v 0 20 + 1
def crOp (v : Word) : Nat := bitsAt v 24 3
def crSize (v : Word) : Nat := if crOp v = 1 then 2 else if crOp v = 5 then 8 else 4

/-- R310: one element with its flags. -/
def credElt (oper : Nat) (ftz : Bool) (x y : Nat) : Nat × Word :=
  let a := dec32 ftz (BitVec.ofNat 32 x)
  let b := dec32 ftz (BitVec.ofNat 32 y)
  let out (v : Num × Word) : Nat × Word := let r := rnd32 0 ftz v.1; (r.1.toNat, v.2 ||| r.2)
  match oper with
  | 0 => out (numAdd 0 a b)
  | 1 =>
    let v := numAdd 0 (ffDecode bf16 ftz x) (ffDecode bf16 ftz y)
    let r := ffRound bf16 0 0 ftz v.1
    (r.1, v.2 ||| r.2)
  | 2 => ((x + y) % 2 ^ 32, 0)
  | 3 => out (numMax a b, 0)
  | 4 => out (numMin a b, 0)
  | _ => ((x + y) % 2 ^ 64, 0)

/-- R310: element i: its bytes and its flags. -/
def credOne (id : CoreId) (en : Entry) (i : Nat) (p : Part) : Except Halt (List Pz × Word × Part) :=
  let ctl := op en.ops 3
  let n := crSize ctl
  let super := en.modes.super
  let a := op en.ops 0
  let b := op en.ops 1
  match cpTake id super (adSpc a) (adAddr a + i * n) n p with
  | .error h => .error h
  | .ok (x, p1) =>
    match cpTake id super (adSpc b) (adAddr b + i * n) n p1 with
    | .error h => .error h
    | .ok (y, p2) =>
      let num (l : List Pz) : Nat := leNat (l.map fun b => BitVec.ofNat 8 b.1)
      let z := x.any (·.2) || y.any (·.2)
      let r := credElt (crOp ctl) en.modes.ftz (num x) (num y)
      .ok ((leBytes n r.1).map fun b => (b.toNat, z), if z then 0 else r.2, p2)

/-- The elements of the destination word of step k: BF16 elements share one. -/
def credElts (ctl d : Word) (k : Nat) : List Nat :=
  if crSize ctl ≠ 2 then [k]
  else
    let odd := adAddr d % 4 / 2
    ([2 * k, 2 * k + 1].filter fun i => odd ≤ i && i - odd < crCount ctl).map (· - odd)
def credSteps (ctl d : Word) : Nat := if crSize ctl ≠ 2 then crCount ctl else ceilDiv (crCount ctl + adAddr d % 4 / 2) 2

/-- R310, R303: the elements of a destination word, in order; the last is written with those before it, the word in full. -/
def credStep (id : CoreId) (en : Entry) (p : Part) (k : Nat) : Except Halt (State × Word) :=
  let ctl := op en.ops 3
  let d := op en.ops 2
  let es := credElts ctl d k
  let r := es.foldl (fun (r : Except Halt (List Pz × Word × Part)) i =>
    match r with
    | .error h => .error h
    | .ok (bs, fl, p) =>
      match credOne id en i p with
      | .error h => .error h
      | .ok (b, f, p1) =>
        match cpGive id en.modes.super (adSpc d) (adAddr d + es.headD 0 * crSize ctl) (bs ++ b) p1 with
        | .error h => .error h
        | .ok p2 => .ok (bs ++ b, fl ||| f, p2)) (.ok ([], 0, p))
  match r with
  | .error h => .error h
  | .ok (_, fl, p1) => .ok (p1.s, fl)

/-- R304, R310: CRED. -/
def credSpec : WordSpec :=
  { eng := .cp, opc := 8, pops := 4, src := 0x5A
    check := fun s id en =>
      let ctl := op en.ops 3
      let n := crSize ctl
      let len := crCount ctl * n
      need 12 (onlyBits ctl 0x70FFFFF && crOp ctl ≤ 5 && len ≤ 2 ^ 20 &&
        [0, 1, 2].all fun k => adOk false (op en.ops k) && adAddr (op en.ops k) % n = 0 && sideOk s id (op en.ops k) 1 0 len)
    dur := fun _ _ ops => cpDur (2 * crCount (op ops 3) * crSize (op ops 3))
    weight := fun _ _ _ => 4
    run := fun s id en => stepsOf (credSteps (op en.ops 3) (op en.ops 2)) (credStep id en) s en }

/-- R310: CRED. -/
def execCred (f : BitVec 6) (s : State) : Host.Outcome State Fault Refusal := .next (launchWord (.cred f) credSpec f s)

/-- R311: one bit of CRC-32C, reflected. -/
def crcBit (c : BitVec 32) : BitVec 32 := if c.getLsbD 0 then (c >>> 1) ^^^ 0x82F63B78 else c >>> 1
def crcByte (c : BitVec 32) (b : Nat) : BitVec 32 :=
  (List.range 8).foldl (fun c _ => crcBit c) (c ^^^ BitVec.ofNat 32 b)
/-- R311: the CRC of a byte list. -/
def crc32c (bs : List Nat) : BitVec 32 := bs.foldl crcByte 0xFFFFFFFF ^^^ 0xFFFFFFFF

/-- R304, R311: CCHK. -/
def cchkSpec : WordSpec :=
  { eng := .cp, opc := 10, pops := 3, src := 0x5A
    check := fun s id en =>
      let d := op en.ops 1
      need 12 (adOk false (op en.ops 0) && adOk false d && adSpc d = 1 && adAddr d % 8 = 0 && lenOk (op en.ops 2) &&
        sideOk s id (op en.ops 0) 1 0 (op en.ops 2).toNat && sideOk s id d 1 0 8)
    dur := fun _ _ ops => cpDur (op ops 2).toNat
    weight := fun _ _ _ => 4
    run := fun s id en => stepsOf 1 (fun p _ =>
      let d := op en.ops 1
      match cpTake id en.modes.super (adSpc (op en.ops 0)) (adAddr (op en.ops 0)) (op en.ops 2).toNat p with
      | .error h => .error h
      | .ok (bs, p1) =>
        let v := (crc32c (bs.map (·.1))).toNat + (if bs.any (·.2) then 2 ^ 32 else 0)
        endStep 0 (cpGive id en.modes.super 1 (adAddr d) ((leBytes 8 v).map fun b => (b.toNat, false)) p1)) s en }

/-- R311: CCHK. -/
def execCchk (f : BitVec 6) (s : State) : Host.Outcome State Fault Refusal := .next (launchWord (.cchk f) cchkSpec f s)

/-- R312: the queue, the source bytes and the key of a CCHINS. -/
def chqOf (ops : List Word) : Nat := bitsAt (op ops 1) 0 6
def chBytes (s : State) (id : CoreId) (ops : List Word) : List Pz :=
  let a := adAddr (op ops 0)
  stashPz (coreOf s (coreAt (CoreId.cl id) (stashRank a))) (stashOff a) (8 * ((churnOf s (chqOf ops)).psz + 2))
def chKey (bs : List Pz) : Word := BitVec.ofNat 64 (leNat ((bs.take 8).map fun b => BitVec.ofNat 8 b.1))

/-- R312: a poisoned word, or a check of R320. -/
def cchinsBad (s : State) (id : CoreId) (ops : List Word) : Option (BitVec 8 × Word) :=
  let bs := chBytes s id ops
  match bs.findIdx? (·.2) with
  | some k => some (cPOISON, poisonAddr (BitVec.ofNat 64 (adAddr (op ops 0) + k / 4 * 4)))
  | none => insertCheck s id (chqOf ops) false (chKey bs)

/-- R312, R320: the insert, its tag, and the latch. -/
def cchinsRun (s : State) (id : CoreId) (en : Entry) : Run :=
  let q := chqOf en.ops
  let bs := chBytes s id en.ops
  let key := chKey bs
  let ch := churnOf s q
  let mine := if en.ticket = 0 then s.ticket + 1 else en.ticket
  let tag (v : Word) (s : State) : State :=
    let a := adAddr (op en.ops 0)
    let s1 := (cutAt 128 (bs.length / 128 + 2) (stashOff a) bs.length).foldl (fun s _ =>
      countPeer s (coreAt (CoreId.cl id) (stashRank a)) en.modes.super) s
    modQueue (tagCp s1 id v) id .cp fun x => { x with set := { x.set with latch := v = 1 } }
  match cchinsBad s id en.ops with
  | some e => .stop (logBad s id .cp en.index e.1 e.2) en e.1 e.2 .goOn
  | none =>
    let wait := (op en.ops 1).getLsbD 8
    if churnCan ch key && !(wait && earlierInsert s q mine ch) then
      let s1 := if (churnMatch ch key).isSome then count s id 0x5B 1 en.modes.super else s
      .done (tag 1 (modChurn s1 q fun ch => churnInsert ch key ((bs.drop 8).map fun b => BitVec.ofNat 8 b.1))) en.flags
    else if wait then
      if en.ticket = 0 then
        .wait { s with ticket := s.ticket + 2 } { en with ticket := mine, ops := [op en.ops 0, op en.ops 1, key] }
      else .wait s en
    else .done (tag 0 (modChurn s q fun ch => { ch with rej := satInc ch.rej })) en.flags

/-- R304, R312: CCHINS. -/
def cchinsSpec : WordSpec :=
  { eng := .cp, opc := 11, pops := 2, src := 0x5A
    check := fun s id en =>
      let a := op en.ops 0
      if adOk false a && adSpc a = 1 && adAddr a % 8 = 0 && onlyBits (op en.ops 1) 0x13F &&
        sideOk s id a 1 0 (8 * ((churnOf s (chqOf en.ops)).psz + 2))
      then (cchinsBad s id en.ops).map fun e => .trap e.1 e.2
      else some (.engerr 12)
    dur := fun _ _ _ => 32
    weight := fun _ _ _ => 4
    run := cchinsRun }

/-- R312: CCHINS. -/
def execCchins (f : BitVec 6) (s : State) : Host.Outcome State Fault Refusal := .next (launchWord (.cchins f) cchinsSpec f s)

/-- R313: fields of TGT. -/
def cwMask (v : Word) : Nat := bitsAt v 32 4
def cwTeam (v : Word) : Nat := bitsAt v 0 12

/-- R313: KIND 0: the latches of a team of the launch, or of its save image. -/
def wakeTeam (s : State) (id : CoreId) (v : Word) : State :=
  match teamOf s id with
  | none => s
  | some t =>
    match clusOfTeam s t (cwTeam v), savedOfTeam s t (cwTeam v) with
    | some c, _ => wakeCores s c (cwMask v)
    | none, some k => (List.range 4).foldl (fun s r =>
        if natBit (cwMask v) r then
          modSaved s k r fun c => if c.unit.isNone then c else
            allKinds.foldl (fun c k => setCtxIn k c { ctxIn k c with latch := true }) c
        else s) s
    | none, none => s

/-- R304, R313: CWAKE. -/
def cwakeSpec : WordSpec :=
  { eng := .cp, opc := 12, pops := 1, src := 0x5A
    check := fun _ _ en =>
      let v := op en.ops 0
      if !onlyBits v 0x8000000F1F300FFF || (v.getLsbD 63 && 24 < bitsAt v 24 5) then some (.engerr 12)
      else if v.getLsbD 63 && !en.modes.super then some (.trap cPRIV ((word16 (.cwake en.lf)).setWidth 64))
      else none
    dur := fun _ _ _ => 32
    weight := fun _ _ _ => 4
    run := fun s id en =>
      let v := op en.ops 0
      if v.getLsbD 63 then .done (clwakeWrite s ⟨bitsAt v 20 2, bitsAt v 24 5⟩ (BitVec.ofNat 64 (cwMask v)) 1) en.flags
      else .done (wakeTeam s id v) en.flags }

/-- R313: CWAKE. -/
def execCwake (f : BitVec 6) (s : State) : Host.Outcome State Fault Refusal := .next (launchWord (.cwake f) cwakeSpec f s)

end Sys2Proof.Machine
end

