-- ==== Sys2Proof/Machine/Factor.lean ====
section
/-!
DEFINITION. Factorising and solving on the accumulator banks (13 R257-R277; 20 R364, R365).
-/
namespace Sys2Proof.Machine

/-- R257: PVEC[j]. -/
def pvGet (a : ArrayImg) (j : Nat) : Nat := (mget 0 a.pvec j ^^^ BitVec.ofNat 8 j).toNat
def pvPut (a : ArrayImg) (j p : Nat) : ArrayImg := { a with pvec := mset 0 a.pvec j (BitVec.ofNat 8 p ^^^ BitVec.ofNat 8 j) }

/-- Fields of the control word of R260. -/
def fcN (v : Word) : Nat := bitsAt v 0 7 + 1
def fcJ0 (v : Word) : Nat := bitsAt v 7 7
def fcM (v : Word) : Nat := bitsAt v 7 7 + 1
def fcBank (v : Word) : Nat := bitsAt v 14 1
def fcR (v : Word) : Nat := bitsAt v 15 7 + 1
def fcUplo (v : Word) : Bool := v.getLsbD 22
def fcSide (v : Word) : Bool := v.getLsbD 23
def fcUnit (v : Word) : Bool := v.getLsbD 24
def fcInv (v : Word) : Bool := v.getLsbD 25

/-- R257: causes of a breakdown. -/
def bkZPIV : Nat := 1
def bkNANPIV : Nat := 2
def bkNPD : Nat := 3
def bkSINGTRI : Nat := 4

/-- A breakdown: its cause, the diagonal index and the value. -/
structure Broke where
  cause : Nat
  col : Nat
  value : BitVec 32
  deriving DecidableEq, Repr

/-- R257: BRK. -/
def brkWord (b : Broke) : Word := BitVec.ofNat 64 (2 ^ 63 + b.cause * 2 ^ 40 + b.col % 128 * 2 ^ 32 + b.value.toNat)

/-- The banks, registers and flags as a factorisation changes them. -/
structure Fac where
  ftz : Bool
  t : Bank
  b : Bank := {}
  pv : ArrayImg
  fl : Word := 0

/-- R259: operations of one rounding by RNE on FP32 words. -/
def rDiv (ftz : Bool) (a b : BitVec 32) : BitVec 32 × Word := rOp ftz (numDiv (dec32 ftz a) (dec32 ftz b))
def rSqrt (ftz : Bool) (a : BitVec 32) : BitVec 32 × Word := rOp ftz (numSqrt (dec32 ftz a))
/-- RNE32(a - b * c). -/
def rFms (ftz : Bool) (a b c : BitVec 32) : BitVec 32 × Word := rOp ftz (numFma 0 (numNeg (dec32 ftz b)) (dec32 ftz c) (dec32 ftz a))
/-- RNE32(c * x + s * y) or, with `sub`, RNE32(c * x - s * y). -/
def rRot (ftz sub : Bool) (c x s y : BitVec 32) : BitVec 32 × Word :=
  let p := numMul (dec32 ftz c) (dec32 ftz x)
  let q := numMul (dec32 ftz s) (dec32 ftz y)
  let r := numAdd 0 p.1 (if sub then numNeg q.1 else q.1)
  rOp ftz (r.1, p.2 ||| q.2 ||| r.2)
/-- An exact negation; a NaN stays the canonical NaN. -/
def rNeg (a : BitVec 32) : BitVec 32 := if numIsNan (dec32 false a) then 0x7FC00000 else a ^^^ 0x80000000

/-- Put a result into the bank of the factorisation, or into the other bank. -/
def facPut (i j : Nat) (r : BitVec 32 × Word) (x : Fac) : Fac := { x with t := bankPut x.t 0 i j r.1, fl := x.fl ||| r.2 }
def facPutB (i j : Nat) (r : BitVec 32 × Word) (x : Fac) : Fac := { x with b := bankPut x.b 0 i j r.1, fl := x.fl ||| r.2 }

/-- Numbers [a, b). -/
def span (a b : Nat) : List Nat := (List.range (b - a)).map fun k => a + k

/-- R266: GBASE and GRATIO. -/
def gBase (w : Word) : BitVec 32 := w.extractLsb' 32 32
def gRatio (w : Word) : BitVec 32 := w.extractLsb' 0 32
/-- The maximum of FP32 values, NaNs ignored; of none, the canonical NaN. -/
def maxFp (xs : List (BitVec 32)) : BitVec 32 :=
  match xs.filter fun x => !numIsNan (dec32 false x) with
  | [] => 0x7FC00000
  | a :: t => t.foldl (fun m x => if numLt (dec32 false m) (dec32 false x) then x else m) a
def absFp (x : BitVec 32) : BitVec 32 := x &&& 0x7FFFFFFF

/-- R266: a base is finite and positive. -/
def baseOk (ftz : Bool) (base : BitVec 32) : Bool := match dec32 ftz base with | .fin s m _ => !s && m ≠ 0 | _ => false
/-- R266: GROW at a start with J0 = 0. -/
def growStart (ftz : Bool) (base ratio : BitVec 32) : Word := base ++ (if baseOk ftz base then ratio else 0x7FC00000)
/-- R266: GROW after a step. -/
def growStep (ftz : Bool) (m : BitVec 32) (w : Word) : Word :=
  let g := gRatio w
  if numIsNan (dec32 false g) then w
  else if !baseOk ftz (gBase w) then gBase w ++ 0x7FC00000#32
  else
    let q := (rDiv ftz m (gBase w)).1
    gBase w ++ (if numIsNan (dec32 false q) then 0x7FC00000 else if numLt (dec32 false g) (dec32 false q) then q else g)
def facGrow (m : BitVec 32) (x : Fac) : Fac := { x with pv := { x.pv with grow := growStep x.ftz m x.pv.grow } }

/-- R263: step j of MCHOL. -/
def cholStep (n j : Nat) (x : Fac) : Except Broke Fac :=
  let d := bankGet x.t 0 j j
  let v := dec32 x.ftz d
  if numIsNan v || numSign v || numIsZero v then .error ⟨bkNPD, j, d⟩
  else
    let x1 := facPut j j (rSqrt x.ftz d) x
    let rr := bankGet x1.t 0 j j
    let x2 := (span (j + 1) n).foldl (fun x i => facPut i j (rDiv x.ftz (bankGet x.t 0 i j) rr) x) x1
    let x3 := (span (j + 1) n).foldl (fun x k => (span k n).foldl (fun x i =>
      facPut i k (rFms x.ftz (bankGet x.t 0 i k) (bankGet x.t 0 i j) (bankGet x.t 0 k j)) x) x) x2
    .ok (facGrow d x3)

/-- Exchange two rows of a bank over the first w columns. -/
def swapRows (w a b : Nat) (k : Bank) : Bank :=
  (List.range w).foldl (fun r c => bankPut (bankPut r 0 a c (bankGet k 0 b c)) 0 b c (bankGet k 0 a c)) k

/-- R264: the pivot row of step j: the greatest magnitude, FTZ having flushed it (DEDUCED, log 164), the lowest row among equals. -/
def pivotRow (ftz : Bool) (n j : Nat) (k : Bank) : Nat :=
  let mag (i : Nat) : Num := dec32 ftz (absFp (bankGet k 0 i j))
  (span (j + 1) n).foldl (fun p i => if numLt (mag p) (mag i) then i else p) j

/-- R265, R266: step j of MLU; M is 0 where the Schur complement holds nothing but NaNs (DESIGN CHOICE, log 165). -/
def luStep (n j : Nat) (x : Fac) : Except Broke Fac :=
  if (span j n).any fun i => numIsNan (dec32 false (bankGet x.t 0 i j)) then .error ⟨bkNANPIV, j, 0x7FC00000⟩
  else
    let p := pivotRow x.ftz n j x.t
    if numIsZero (dec32 x.ftz (bankGet x.t 0 p j)) then .error ⟨bkZPIV, j, bankGet x.t 0 j j⟩
    else
      let x1 := { x with pv := pvPut x.pv j p, t := if p = j then x.t else swapRows n j p x.t }
      let d := bankGet x1.t 0 j j
      let x2 := (span (j + 1) n).foldl (fun x i => facPut i j (rDiv x.ftz (bankGet x.t 0 i j) d) x) x1
      let x3 := (span (j + 1) n).foldl (fun x i => (span (j + 1) n).foldl (fun x k =>
        facPut i k (rFms x.ftz (bankGet x.t 0 i k) (bankGet x.t 0 i j) (bankGet x.t 0 j k)) x) x) x2
      if j + 1 = n then .ok x3
      else
        let ms := (span (j + 1) n).flatMap fun i => (span (j + 1) n).map fun k => absFp (bankGet x3.t 0 i k)
        let m := if ms.all fun v => numIsNan (dec32 false v) then 0 else maxFp ms
        .ok (facGrow m x3)

/-- R267: step j of MTRSM on its view. -/
def trsmStep (n r : Nat) (side rev unit : Bool) (j : Nat) (x : Fac) : Except Broke Fac :=
  let phi (i : Nat) : Nat := if rev then n - 1 - i else i
  let T (i k : Nat) : BitVec 32 := if side then bankGet x.t 0 (phi k) (phi i) else bankGet x.t 0 (phi i) (phi k)
  let bAt (b : Bank) (i q : Nat) : BitVec 32 := if side then bankGet b 0 q (phi i) else bankGet b 0 (phi i) q
  let put (i q : Nat) (v : BitVec 32 × Word) (x : Fac) : Fac := if side then facPutB q (phi i) v x else facPutB (phi i) q v x
  let t := T j j
  if !unit && numIsZero (dec32 x.ftz t) then .error ⟨bkSINGTRI, phi j, t⟩
  else
    .ok ((List.range r).foldl (fun x q =>
      let x1 := put j q (if unit then (bAt x.b j q, 0) else rDiv x.ftz (bAt x.b j q) t) x
      let v := bAt x1.b j q
      (span (j + 1) n).foldl (fun x i => put i q (rFms x.ftz (bAt x.b i q) (T i j) v) x) x1) x)

/-- R268: step i of MTRINV on its view. -/
def trinvStep (n : Nat) (rev unit : Bool) (i : Nat) (x : Fac) : Except Broke Fac :=
  let phi (i : Nat) : Nat := if rev then n - 1 - i else i
  let T (b : Bank) (i k : Nat) : BitVec 32 := bankGet b 0 (phi i) (phi k)
  let put (i k : Nat) (v : BitVec 32 × Word) (x : Fac) : Fac := facPut (phi i) (phi k) v x
  let t := T x.t i i
  if !unit && numIsZero (dec32 x.ftz t) then .error ⟨bkSINGTRI, phi i, t⟩
  else
    let x1 := (List.range i).foldl (fun x k =>
      let s := (span k i).foldl (fun (a : BitVec 32 × Word) l =>
        let xl : BitVec 32 := if unit && l = k then 0x3F800000 else T x.t l k
        let r := rFma x.ftz (T x.t i l) xl a.1
        (r.1, a.2 ||| r.2)) (0, 0)
      let v := if unit then (rNeg s.1, s.2) else let d := rDiv x.ftz (rNeg s.1) t; (d.1, s.2 ||| d.2)
      put i k v x) x
    .ok (if unit then x1 else put i i (rDiv x.ftz 0x3F800000 t) x1)

/-- Steps from j on; the step that broke down, if one did, with the state before it. -/
def facGo (step : Nat → Fac → Except Broke Fac) : Nat → Nat → Fac → Fac × Option (Nat × Broke)
  | 0, _, x => (x, none)
  | k + 1, j, x =>
    match step j x with
    | .error b => (x, some (j, b))
    | .ok y => facGo step k (j + 1) y

/-- R258: FREC. -/
def frOk (s : State) (id : CoreId) (v : Word) : Bool :=
  onlyBits v 0x807FFFFF && (!v.getLsbD 31 || stashRecOk s id (bitsAt v 0 23) 32 160)

/-- R258: the factorisation record. -/
def facRecord (a : ArrayImg) (index : BitVec 16) : List Byte :=
  (List.range 128).map (fun j => BitVec.ofNat 8 (pvGet a j)) ++ leBytes 8 a.grow.toNat ++ leBytes 8 a.brk.toNat ++
    leBytes 4 a.fprog.toNat ++ leBytes 4 index.toNat ++ leBytes 8 0

/-- The four words that step and break down. -/
inductive FacKind where
  | chol
  | lu
  | trsm
  | trinv
  deriving DecidableEq, Repr

/-- R276: cycles of step k. -/
def facCost (f : FacKind) (n k : Nat) : Nat :=
  match f with
  | .chol => n - k + 24
  | .lu => n - k + 28
  | .trsm => n - k + 12
  | .trinv => k + 21
/-- R276: occupancy of the steps from j0 to before j. -/
def facOcc (f : FacKind) (n j0 j : Nat) : Nat := 16 + ((span j0 j).map (facCost f n)).sum

/-- The step of a word. -/
def facStep (f : FacKind) (ctl : Word) : Nat → Fac → Except Broke Fac :=
  match f with
  | .chol => cholStep (fcN ctl)
  | .lu => luStep (fcN ctl)
  | .trsm => trsmStep (fcN ctl) (fcR ctl) (fcSide ctl) (fcUplo ctl != fcSide ctl) (fcUnit ctl)
  | .trinv => trinvStep (fcN ctl) (fcUplo ctl) (fcUnit ctl)

/-- The banks a word uses, and the one it writes. -/
def facBanks (f : FacKind) (ctl : Word) : List Nat := if f = .trsm then [fcBank ctl, 1 - fcBank ctl] else [fcBank ctl]
def facOut (f : FacKind) (ctl : Word) : Nat := if f = .trsm then 1 - fcBank ctl else fcBank ctl

/-- R364, R266: the registers at the start of a word. -/
def facStart (f : FacKind) (ftz : Bool) (ctl : Word) (b : Bank) (a : ArrayImg) : ArrayImg :=
  if fcJ0 ctl ≠ 0 then a
  else
    let n := fcN ctl
    let a1 := { a with brk := 0 }
    match f with
    | .lu => { a1 with grow := growStart ftz (maxFp ((List.range n).flatMap fun i => (List.range n).map fun k => absFp (bankGet b 0 i k))) 0x3F800000 }
    | .chol => { a1 with grow := growStart ftz (maxFp ((List.range n).map fun i => bankGet b 0 i i)) 0 }
    | _ => a1

/-- R275: the breakdown of an entry is noted in its window. -/
def noteBreak (s : State) (id : CoreId) (index : BitVec 16) (w : Word) : State :=
  modQueue s id .mx fun q => { q with window := q.window.map fun e => if e.entry.index = index then { e with brk := some w } else e }

/-- R263-R268, R273, R364: the steps of a word: the state after, and the step it broke down at or n, one more in the entry's
progress. A start begins the verdict of the bank it writes (R352), which is dirty then, be there a step or none (DESIGN CHOICE, log 166). -/
def facSteps (f : FacKind) (s : State) (id : CoreId) (en : Entry) : State × Entry :=
  let ctl := op en.ops 1
  let n := fcN ctl
  let t := bankOf s id (fcBank ctl)
  let x0 : Fac := { ftz := en.modes.ftz, t := t, b := bankOf s id (1 - fcBank ctl), pv := facStart f en.modes.ftz ctl t (arrayOf s id) }
  let r := facGo (facStep f ctl) (n - fcJ0 ctl) (fcJ0 ctl) x0
  let stopAt := match r.2 with | some (j, _) => j | none => n
  let s1 := modArray s id fun a =>
    { r.1.pv with
      bank0 := a.bank0
      bank1 := a.bank1
      fprog := BitVec.ofNat 8 stopAt
      brk := match r.2 with | some (_, k) => brkWord k | none => r.1.pv.brk }
  let s2 := modBank s1 id (facOut f ctl) fun _ => { (if f = .trsm then r.1.b else r.1.t) with dirty := true, fold := 0 }
  let s3 := if fcJ0 ctl = 0 then freshVerdict s2 id (facOut f ctl) else s2
  (count s3 id 0x54 (stopAt - fcJ0 ctl) en.modes.super, { en with prog := stopAt + 1, flags := en.flags ||| r.1.fl })

/-- R258, R273, R275, R276: the end of a word that came to step j: its record, in the cycle of its breakdown or of its completion,
and what a breakdown raises. `first` is the breakdown of the first run in a replay: the same one takes no further action. -/
def facEnd (f : FacKind) (first : Option (Option Word)) (s : State) (id : CoreId) (en : Entry) : Run :=
  let frec := op en.ops 0
  let ctl := op en.ops 1
  let j := en.prog - 1
  let occ := facOcc f (fcN ctl) (fcJ0 ctl) j
  let brk := (arrayOf s id).brk
  let broke : Bool := j ≠ fcN ctl && first ≠ some (some brk)
  let finish (s : State) : Run :=
    if !broke then .done s en.flags
    else
      let s1 := noteBreak (count s id 0x55 1 en.modes.super) id en.index brk
      if en.modes.brkt then .stop s1 (if first = none then { en with prog := occ } else en) cBREAKDOWN brk .completeOnly
      else .done s1 (en.flags ||| flBRKF)
  let timed : Bool := (first = none && frec.getLsbD 31) || (broke && en.modes.brkt)
  if timed && s.cyc.toNat < en.startAt + occ then .wait s en
  else if !frec.getLsbD 31 then finish s
  else match putRecord id en.modes.super (bitsAt frec 0 23) (facRecord (arrayOf s id) en.index) { s := s } with
  | .error h => .stop h.s en h.cause h.tval .goOn
  | .ok s1 => finish s1

/-- R263-R268, R273: the effect of a stepping word. -/
def facRun (f : FacKind) (first : Option (Option Word)) (s : State) (id : CoreId) (en : Entry) : Run :=
  let bs := facBanks f (op en.ops 1)
  if en.prog ≠ 0 then facEnd f first s id en
  else if bs.any (verdictBad s id) then .wait s en
  else onCombined (fun s id en =>
    let r := facSteps f s id en
    facEnd f first r.1 id r.2) bs s id en

/-- R260-R262: a stepping word with its checks; `mask` holds the fields of CTL it uses. -/
def facSpec (f : FacKind) (opc : Nat) (mask : Word) : WordSpec :=
  { eng := .mx, opc := opc, pops := 2, src := 0x50
    check := fun s id en =>
      let ctl := op en.ops 1
      need 10 (onlyBits ctl mask && frOk s id (op en.ops 0) && fcJ0 ctl ≤ fcN ctl && (facBanks f ctl).all fun b => !(bankOf s id b).int)
    dur := fun _ _ ops => let ctl := op ops 1; facOcc f (fcN ctl) (fcJ0 ctl) (fcN ctl)
    weight := fun _ _ _ => 24
    banks := fun ops => facBanks f (op ops 1)
    run := facRun f none }

def mcholSpec : WordSpec := facSpec .chol 0x10 0x7FFF
def mluSpec : WordSpec := facSpec .lu 0x11 0x7FFF
def mtrsmSpec : WordSpec := facSpec .trsm 0x12 0x1FFFFFF
def mtrinvSpec : WordSpec := facSpec .trinv 0x13 0x1407FFF

/-- R263: MCHOL. -/
def execMchol (f : BitVec 6) (s : State) : Host.Outcome State Fault Refusal := .next (launchWord (.mchol f) mcholSpec f s)
/-- R265: MLU. -/
def execMlu (f : BitVec 6) (s : State) : Host.Outcome State Fault Refusal := .next (launchWord (.mlu f) mluSpec f s)
/-- R267: MTRSM. -/
def execMtrsm (f : BitVec 6) (s : State) : Host.Outcome State Fault Refusal := .next (launchWord (.mtrsm f) mtrsmSpec f s)
/-- R268: MTRINV. -/
def execMtrinv (f : BitVec 6) (s : State) : Host.Outcome State Fault Refusal := .next (launchWord (.mtrinv f) mtrinvSpec f s)

/-- R270: the rotations (i, j) in generation order. -/
def rotations (m n : Nat) : List (Nat × Nat) :=
  (List.range (Nat.min n (m - 1))).flatMap fun j => (List.range (m - 1 - j)).map fun k => (m - 1 - k, j)

/-- R269: c, s and rr of a rotation. -/
def rotPair (ftz : Bool) (a b : BitVec 32) : BitVec 32 × BitVec 32 × BitVec 32 × Word :=
  match dec32 ftz a, dec32 ftz b with
  | .fin sa ma ea, .fin sb mb eb =>
    if ma = 0 && mb = 0 then (0x3F800000, 0, 0, 0)
    else
      let q := if ea ≤ eb then ea else eb
      let x := ma * 2 ^ (ea - q).toNat
      let y := mb * 2 ^ (eb - q).toNat
      let d := x * x + y * y
      let ratio (s : Bool) (v : Nat) : BitVec 32 × Word :=
        if v = 0 then rOp ftz (.fin s 0 0, 0) else let r := sqrtRatio (v * v) d 0; rOp ftz (.fin s r.1 r.2, 0)
      let c := ratio sa x
      let s := ratio sb y
      let h := sqrtSticky d (2 * q)
      let rr := rOp ftz (.fin false h.1 h.2, 0)
      (c.1, s.1, rr.1, c.2 ||| s.2 ||| rr.2)
  | _, _ => (0x7FC00000, 0x7FC00000, 0x7FC00000, flNV)

/-- A bank, the elements of ROT written, and the flags. -/
structure Qr where
  b : Bank
  rot : List (Nat × Nat × BitVec 32) := []
  fl : Word := 0

/-- R269: rotate rows i - 1 and i over columns [a, b). -/
def rotRows (ftz : Bool) (c s : BitVec 32) (i a b : Nat) (back : Bool) (q : Qr) : Qr :=
  (span a b).foldl (fun q k =>
    let x := bankGet q.b 0 (i - 1) k
    let y := bankGet q.b 0 i k
    let u := if back then rRot ftz true c x s y else rRot ftz false c x s y
    let v := if back then rRot ftz false s x c y else rRot ftz true c y s x
    { q with b := bankPut (bankPut q.b 0 (i - 1) k u.1) 0 i k v.1, fl := q.fl ||| u.2 ||| v.2 }) q

/-- R269: one rotation of MGQR. -/
def gqrStep (ftz : Bool) (n : Nat) (q : Qr) (r : Nat × Nat) : Qr :=
  let i := r.1
  let j := r.2
  let p := rotPair ftz (bankGet q.b 0 (i - 1) j) (bankGet q.b 0 i j)
  rotRows ftz p.1 p.2.1 i (j + 1) n false
    { b := bankPut (bankPut q.b 0 (i - 1) j p.2.2.1) 0 i j 0
      rot := q.rot ++ [(i, j, p.1), (j, i, p.2.1)]
      fl := q.fl ||| p.2.2.2 }

/-- R262: ROT names a bound FP32 tile of m x m elements. -/
def rotOk (s : State) (id : CoreId) (v : Word) (m : Nat) : Bool :=
  descOk s id v 0x33F && (winBind s id v).fmt = 1 && supplies (winBind s id v) false m m

/-- R269: the effect of MGQR: the elements of ROT, all in this move (DESIGN CHOICE, log 167), then the bank. -/
def mgqrRun (s : State) (id : CoreId) (en : Entry) : Run :=
  let rot := op en.ops 0
  let ctl := op en.ops 1
  let w := winCore id rot
  if verdictBad s id (fcBank ctl) then .wait s en
  else onCombined (fun s id en => stepsOf 1 (fun p _ =>
    let q := (rotations (fcM ctl) (fcN ctl)).foldl (gqrStep en.modes.ftz (fcN ctl)) { b := bankOf p.s id (fcBank ctl) }
    let t := winBind p.s id rot
    match giveAll (fun p e => stashGive w en.modes.super (tileRow t e.1 + 4 * e.2.1) ((leBytes 4 e.2.2.toNat).map fun b => (b.toNat, false)) p) q.rot p with
    | .error h => .error h
    | .ok p1 => .ok (modBank p1.s id (fcBank ctl) fun _ => { q.b with dirty := true }, q.fl)) s en) [fcBank ctl] s id en

/-- R269: MGQR. -/
def mgqrSpec : WordSpec :=
  { eng := .mx, opc := 0x14, pops := 2, src := 0x50
    conds := fun s id ops => winReads s id (op ops 0)
    check := fun s id en =>
      let ctl := op en.ops 1
      need 10 (onlyBits ctl 0x7FFF && fcN ctl ≤ fcM ctl && !(bankOf s id (fcBank ctl)).int && rotOk s id (op en.ops 0) (fcM ctl))
    acts := fun _ id ops => [(winCore id (op ops 0), winTile (op ops 0), .writeDone)]
    dur := fun _ id ops =>
      let ctl := op ops 1
      16 + peerCost id (op ops 0) + ((List.range (Nat.min (fcN ctl) (fcM ctl - 1))).map fun j => fcM ctl - j + 23).sum
    weight := fun _ _ _ => 24
    banks := fun ops => [fcBank (op ops 1)]
    run := mgqrRun }

/-- R269: MGQR. -/
def execMgqr (f : BitVec 6) (s : State) : Host.Outcome State Fault Refusal := .next (launchWord (.mgqr f) mgqrSpec f s)

/-- R270: the elements of ROT that hold rotations, row by row: a row of all but the last columns is read whole. -/
def rotTake (w : CoreId) (super : Bool) (t : Tile) (m n : Nat) (p : Part) : Except Halt (Grid × Part) :=
  let k := Nat.min n (m - 1)
  match takeAll (fun p i => stashTake w super (tileRow t i) (4 * (if i < k then m else k)) p) (List.range m) p with
  | .error h => .error h
  | .ok (rows, p1) => .ok ({ fmt := 1, rows := rows.map fun b => codesOf 1 b m, scs := [] }, p1)

/-- R85: a rotation of two rows under MQAPPLY, with the rows that hold bad values: one by a bad element, or of such a row, sets no
flag and leaves both rows bad. -/
def applyRot (ftz inv : Bool) (r : Nat) (c s : BitVec 32) (bad : Bool) (i : Nat) (x : Qr × List Nat) : Qr × List Nat :=
  let q := rotRows ftz c s i 0 r inv x.1
  if bad || x.2.contains i || x.2.contains (i - 1) then ({ q with fl := x.1.fl }, i :: (i - 1) :: x.2) else (q, x.2)

/-- R270, R242, R85: the effect of MQAPPLY. -/
def mqapplyRun (s : State) (id : CoreId) (en : Entry) : Run :=
  let rot := op en.ops 0
  let ctl := op en.ops 1
  let w := winCore id rot
  if verdictBad s id (fcBank ctl) then .wait s en
  else onCombined (fun s id en => stepsOf 1 (fun p _ =>
    let t := winBind p.s id rot
    match rotTake w en.modes.super t (fcM ctl) (fcN ctl) p with
    | .error h => .error h
    | .ok (g, p1) =>
      let at' (i j : Nat) : BitVec 32 := let e := gridElt g i j; if e.poison then 0 else BitVec.ofNat 32 e.code
      let rs := rotations (fcM ctl) (fcN ctl)
      let bad (p : Nat × Nat) : Bool := (gridElt g p.1 p.2).poison
      let q := ((if fcInv ctl then rs.reverse else rs).foldl (fun x r =>
        applyRot en.modes.ftz (fcInv ctl) (fcR ctl) (at' r.1 r.2) (at' r.2 r.1) (bad r || bad (r.2, r.1)) r.1 x)
        ({ b := bankOf p1.s id (fcBank ctl) }, [])).1
      let s1 := modBank p1.s id (fcBank ctl) fun _ => { q.b with dirty := true }
      .ok (substitute s1 id en [(true, w, t, (rs.flatMap fun r => [r, (r.2, r.1)]).filter bad)], q.fl)) s en) [fcBank ctl] s id en

/-- R270: MQAPPLY. -/
def mqapplySpec : WordSpec :=
  { eng := .mx, opc := 0x15, pops := 2, src := 0x50
    conds := fun s id ops => winReads s id (op ops 0)
    check := fun s id en =>
      let ctl := op en.ops 1
      need 10 (onlyBits ctl 0x23FFFFF && fcN ctl ≤ fcM ctl && !(bankOf s id (fcBank ctl)).int && rotOk s id (op en.ops 0) (fcM ctl))
    acts := fun _ id ops => [(winCore id (op ops 0), winTile (op ops 0), .readDone)]
    dur := fun _ id ops => let ctl := op ops 1; 16 + peerCost id (op ops 0) + (rotations (fcM ctl) (fcN ctl)).length
    weight := fun _ _ _ => 24
    banks := fun ops => [fcBank (op ops 1)]
    run := mqapplyRun }

/-- R270: MQAPPLY. -/
def execMqapply (f : BitVec 6) (s : State) : Host.Outcome State Fault Refusal := .next (launchWord (.mqapply f) mqapplySpec f s)

/-- R271: the effect of MPERM. -/
def mpermRun (s : State) (id : CoreId) (en : Entry) : Run :=
  let ctl := op en.ops 0
  if verdictBad s id (fcBank ctl) then .wait s en
  else onCombined (fun s id en =>
    let js := List.range (fcN ctl)
    let a := arrayOf s id
    let b := (if fcInv ctl then js.reverse else js).foldl (fun b j =>
      if pvGet a j = j then b else swapRows 128 j (pvGet a j) b) (bankOf s id (fcBank ctl))
    .done (modBank s id (fcBank ctl) fun _ => { b with dirty := true }) en.flags) [fcBank ctl] s id en

/-- R262, R271: MPERM. -/
def mpermSpec : WordSpec :=
  { eng := .mx, opc := 0x16, pops := 1, src := 0x50
    check := fun s id en =>
      let ctl := op en.ops 0
      need 10 (onlyBits ctl 0x200407F && !(bankOf s id (fcBank ctl)).int &&
        (List.range (fcN ctl)).all fun j => pvGet (arrayOf s id) j ≤ 127)
    dur := fun _ _ ops => 8 + fcN (op ops 0)
    weight := fun _ _ _ => 24
    banks := fun ops => [fcBank (op ops 0)]
    run := mpermRun }

/-- R271: MPERM. -/
def execMperm (f : BitVec 6) (s : State) : Host.Outcome State Fault Refusal := .next (launchWord (.mperm f) mpermSpec f s)

/-- R272: the effect of MDIAG. -/
def mdiagRun (s : State) (id : CoreId) (en : Entry) : Run :=
  let ctl := op en.ops 1
  let sig := (op en.ops 0).setWidth 32
  if verdictBad s id (fcBank ctl) then .wait s en
  else onCombined (fun s id en =>
    let r := (span (fcJ0 ctl) (fcN ctl)).foldl (fun (r : Bank × Word) j =>
      let v := rAdd en.modes.ftz (bankGet r.1 0 j j) sig
      (bankPut r.1 0 j j v.1, r.2 ||| v.2)) (bankOf s id (fcBank ctl), 0)
    .done (modBank s id (fcBank ctl) fun _ => { r.1 with dirty := true }) (en.flags ||| r.2)) [fcBank ctl] s id en

/-- R262, R272: MDIAG. -/
def mdiagSpec : WordSpec :=
  { eng := .mx, opc := 0x17, pops := 2, src := 0x50
    check := fun s id en =>
      let ctl := op en.ops 1
      need 10 (onlyBits ctl 0x7FFF && (op en.ops 0).toNat < 2 ^ 32 && fcJ0 ctl ≤ fcN ctl && !(bankOf s id (fcBank ctl)).int)
    dur := fun _ _ ops => let ctl := op ops 1; 8 + (fcN ctl - fcJ0 ctl)
    weight := fun _ _ _ => 24
    banks := fun ops => [fcBank (op ops 1)]
    run := mdiagRun }

/-- R272: MDIAG. -/
def execMdiag (f : BitVec 6) (s : State) : Host.Outcome State Fault Refusal := .next (launchWord (.mdiag f) mdiagSpec f s)

/-- R353, R355: how an entry of a replayed window runs again, by its launch code. -/
def replayRun (w : WinEntry) (s : State) (id : CoreId) (en : Entry) : Run :=
  let rows := w.committed
  match w.entry.opc.toNat with
  | 0x00 => mmaRun true s id en
  | 0x01 => mzeroSpec.run s id en
  | 0x02 => mloadcRun s id en
  | 0x03 => drainBody rows s id en
  | 0x04 => mparkSpec.run s id en
  | 0x05 => munparkSpec.run s id en
  | 0x06 => msyrkRun s id en
  | 0x07 => mflagsSpec.run s id en
  | 0x10 => facRun .chol (some w.brk) s id en
  | 0x11 => facRun .lu (some w.brk) s id en
  | 0x12 => facRun .trsm (some w.brk) s id en
  | 0x13 => facRun .trinv (some w.brk) s id en
  | 0x14 => mgqrRun s id en
  | 0x15 => mqapplyRun s id en
  | 0x16 => mpermRun s id en
  | 0x17 => mdiagRun s id en
  | _ => .done s en.flags

end Sys2Proof.Machine
end

