-- ==== Sys2Proof/Machine/LoadStore.lean ====
section
/-!
DEFINITION. The loads, stores and prefetch of a context (05 R116-R119; 25 R423; 19 R363).
-/
namespace Sys2Proof.Machine

/-- R423: a load of the system window. -/
def loadWindow (d : BitVec 5) (isD : Bool) (ea : Word) (s : State) (c : Ctx) : Res :=
  if winForbidden (isSuper c) false ea then .trap s cPROT ea
  else if !isD || ea.toNat % 8 ≠ 0 then .trap s cALIGN ea
  else .done (setX s d (mkX (sysRead s (winDie ea) (winOff ea)) [])) (c.pc + 4)

/-- R423: a store to the system window. A register of the page holds no mark: the bits of a poisoned X[D] are written, clean
(DESIGN CHOICE, log 134). -/
def storeWindow (d : BitVec 5) (isD : Bool) (ea : Word) (s : State) (c : Ctx) : Res :=
  if winForbidden (isSuper c) true ea then .trap s cPROT ea
  else if !isD || ea.toNat % 8 ≠ 0 then .trap s cALIGN ea
  else if pageUse (winDie ea) (winOff ea) = .rw then
    .done (sharedWrite s (winDie ea) (winOff ea) (readX c d).val) (c.pc + 4)
  else .done s (c.pc + 4)

/-- R116: a load of n bytes, extended by `ext`. -/
def loadBody (d a : BitVec 5) (o : BitVec 10) (n : Nat) (ext : Nat → Word) (s : State) (c : Ctx) : Res :=
  consume c [a] <|
    let ea := effAddr (readX c a).val o n
    if isSysWin ea.toNat && ea.toNat < 2 ^ 56 then loadWindow d (n = 8) ea s c
    else match plainXl s (isSuper c) .load ea n with
    | .error e => .trap (faultAt s e ea) e ea
    | .ok x =>
      let r := ctxLoad s x n
      let w := wordsOf x.pa n
      let p := anyMark r.2.1 w.1 w.2
      .done (setX r.2.2 d
        { val := ext (leNat r.1), poison := p, origin := if p then poisonOrigin r.2.1 ea.toNat x.pa n else 0 }) (c.pc + 4)

/-- R117: a store of the low n bytes of X[D]. -/
def storeBody (d a : BitVec 5) (o : BitVec 10) (n : Nat) (s : State) (c : Ctx) : Res :=
  consume c [a] <|
    let ea := effAddr (readX c a).val o n
    if isSysWin ea.toNat && ea.toNat < 2 ^ 56 then storeWindow d (n = 8) ea s c
    else match plainXl s (isSuper c) .store ea n with
    | .error e => .trap (faultAt s e ea) e ea
    | .ok x =>
      .done (ctxStore s x (leBytes n (readX c d).val.toNat) (readX c d).poison) (c.pc + 4)

/-- R116: LD. -/
def execLd (d a : BitVec 5) (w : BitVec 2) (o : BitVec 10) (g : BitVec 3) (s : State) : Host.Outcome State Fault Refusal :=
  .next (scalar (.ld d a w o g) g true false (loadBody d a o (wSize w) (sextBytes (wSize w))) s)

/-- R116: LDU.b. -/
def execLduB (d a : BitVec 5) (o : BitVec 10) (g : BitVec 3) (s : State) : Host.Outcome State Fault Refusal :=
  .next (scalar (.lduB d a o g) g true false (loadBody d a o 1 (BitVec.ofNat 64)) s)

/-- R116: LDU.h. -/
def execLduH (d a : BitVec 5) (o : BitVec 10) (g : BitVec 3) (s : State) : Host.Outcome State Fault Refusal :=
  .next (scalar (.lduH d a o g) g true false (loadBody d a o 2 (BitVec.ofNat 64)) s)

/-- R116: LDU.w. -/
def execLduW (d a : BitVec 5) (o : BitVec 10) (g : BitVec 3) (s : State) : Host.Outcome State Fault Refusal :=
  .next (scalar (.lduW d a o g) g true false (loadBody d a o 4 (BitVec.ofNat 64)) s)

/-- R118: the line that holds an address is requested into the L1, or into its home slice. -/
def prefetch (s : State) (x : Xl) (l1 : Bool) : State :=
  let id := s.cur.core
  if l1 then l1Fetch (fillTlb s id x.leaf) id x (curCtx s).pts
  else touchHome (fillTlb s id x.leaf) (homeKey x.leaf x.pa) (x.pa / 128) (acctOf s id) false

/-- R118: PREF; a level above 1 is reserved. -/
def execPref (l a : BitVec 5) (o : BitVec 10) (g : BitVec 3) (s : State) : Host.Outcome State Fault Refusal :=
  .next (scalar (.pref l a o g) g (l.toNat ≤ 1) false (fun s c =>
    consume c [a] <|
      .done (match translate s s.cur.core (isSuper c) .load (effAddr (readX c a).val o 8).toNat with
        | .ok x => prefetch s x (l = 0)
        | .error e => faultAt s e (effAddr (readX c a).val o 8)) (c.pc + 4)) s)

/-- R117: ST. -/
def execSt (d a : BitVec 5) (w : BitVec 2) (o : BitVec 10) (g : BitVec 3) (s : State) : Host.Outcome State Fault Refusal :=
  .next (scalar (.st d a w o g) g true false (storeBody d a o (wSize w)) s)

end Sys2Proof.Machine
end

