-- ==== Sys2Proof/Machine/Waits.lean ====
section
/-!
DEFINITION. The events that end a wait, deliver an engine trap or an interrupt, and start an entry that waited
on charge (06 R130-R137; 07 R175; 08 R182, R196, R198; 11 R204-R208, R221, R222; 15 R320; 17 R23, R326, R327;
24 R414, R416).
-/
namespace Sys2Proof.Machine

/-- The state a meaning gives. -/
def nextOf (s : State) : Host.Outcome State Fault Refusal → State
  | .next t => t
  | _ => s

/-- A wait goes on: its instruction is considered again, with its guard true. -/
def runWait (w : Wait) (s : State) : State :=
  match w with
  | .rsend r a => nextOf s (execRsend a r 0 s)
  | .rrecv r d => nextOf s (execRrecv d r 0 s)
  | .kwait k a => nextOf s (execKwait a k 0 s)
  | .cwait n => nextOf s (execCwait n 0 s)
  | .twait r t => nextOf s (execTwait (if r then 1 else 0) t 0 s)
  | .waitv d a => nextOf s (execWaitv d a 0 s)
  | .fget d a => nextOf s (execFgetv d a 0 s)
  | .ftake d a => nextOf s (execFtake d a 0 s)
  | .fence k sc =>
    if k = 0 then nextOf s (execFenceAcq sc 0 s)
    else if k = 1 then nextOf s (execFenceRel sc 0 s)
    else if k = 2 then nextOf s (execFenceFull sc 0 s)
    else if k = 3 then nextOf s (execFencePub sc 0 s)
    else nextOf s (execFencePers 0 s)
  | .enq e a b n => nextOf s (execEnq e a b n 0 s)
  | .enqs e a b _ => nextOf s (execEnqs e a b 0 s)
  | .efence e => nextOf s (execEfence e 0 s)
  | .lease => nextOf s (execLease 0 s)
  | .lrel => nextOf s (execLrel 0 s)
  | .pacq l => nextOf s (execPacq l 0 s)
  | .chinsw p q a b => nextOf s (execChinsw p a b q 0 s)
  | .wfe => nextOf s (execWfe 0 s)

/-- A context can act: its unit is not under removal and its team is not being restored (R340, R338). -/
def ctxLive (s : State) (id : CtxId) : Bool :=
  (coreOf s id.core).removal.isNone && !(ctxOf s id).held &&
    (match teamOf s id.core with | some t => !t.restoring | none => true)

/-- R228-R230: the words of the load engine. -/
def ldWords : List ((BitVec 6 → Instr) × WordSpec) :=
  [(.ldT, ldtSpec), (.ldG, ldgSpec), (.ldM, ldmSpec), (.ldS, ldsSpec),
   (.ldR, ldrSpec), (.pf, pfSpec)]

/-- R231: the words of the store engine. -/
def stWords : List ((BitVec 6 → Instr) × WordSpec) :=
  [(.stT, sttSpec), (.stS, stsSpec), (.stCv, stcvSpec), (.stZ, stzSpec)]

/-- R245-R272: the words of the array. -/
def mxWords : List ((BitVec 6 → Instr) × WordSpec) :=
  [(.mma, mmaSpec), (.mzero, mzeroSpec), (.mloadc, mloadcSpec), (.mdrain, mdrainSpec),
   (.mpark, mparkSpec), (.munpark, munparkSpec), (.msyrk, msyrkSpec), (.mflags, mflagsSpec),
   (.mchol, mcholSpec), (.mlu, mluSpec), (.mtrsm, mtrsmSpec), (.mtrinv, mtrinvSpec),
   (.mgqr, mgqrSpec), (.mqapply, mqapplySpec), (.mperm, mpermSpec), (.mdiag, mdiagSpec)]

/-- R284-R292: the words of the vector engine. -/
def vxWords : List ((BitVec 6 → Instr) × WordSpec) :=
  [(.vadd, vaddSpec), (.vsub, vsubSpec), (.vmul, vmulSpec), (.vfma, vfmaSpec),
   (.vdiv, vdivSpec), (.vmin, vminSpec), (.vmax, vmaxSpec), (.vabs, vabsSpec),
   (.vneg, vnegSpec), (.vcmp, vcmpSpec), (.vsel, vselSpec), (.vand, vandSpec),
   (.vor, vorSpec), (.vxor, vxorSpec), (.vshl, vshlSpec), (.vshr, vshrSpec),
   (.vexp, vexpSpec), (.vrcp, vrcpSpec), (.vrsq, vrsqSpec), (.vclip, vclipSpec),
   (.viota, viotaSpec), (.vred, vredSpec), (.vbcast, vbcastSpec), (.vtrans, vtransSpec),
   (.vpoisq, vpoisqSpec), (.vmovs, vmovsSpec), (.vcvt, vcvtSpec), (.vscale, vscaleSpec),
   (.vld, vldSpec), (.vst, vstSpec), (.vldrb, vldrbSpec), (.vshp, vshpSpec)]

/-- R295, R297: the words of the row engine. -/
def rwWords : List ((BitVec 6 → Instr) × WordSpec) :=
  [(.rmax, rmaxSpec), (.rexpsum, rexpsumSpec), (.rscale, rscaleSpec), (.rmean, rmeanSpec),
   (.rvar, rvarSpec), (.rnorm, rnormSpec), (.rmask, rmaskSpec), (.rttab, rttabSpec)]

/-- R304: the words of the copy engine. -/
def cpWords : List ((BitVec 6 → Instr) × WordSpec) :=
  [(.cpy, cpySpec), (.cpy2, cpy2Spec), (.cpyt, cvSpec true 2), (.gath, gsSpec true 3),
   (.scat, gsSpec false 4), (.cconv, cvSpec false 5), (.mcast, mcastSpec), (.rsts, rstsSpec),
   (.cred, credSpec), (.cfill, cfillSpec), (.cchk, cchkSpec), (.cchins, cchinsSpec),
   (.cwake, cwakeSpec)]

/-- The meaning of a launch word found by its queue and its code. -/
def specOf (e : Eng) (opc : Nat) : Option ((BitVec 6 → Instr) × WordSpec) :=
  (match e with
    | .ld => ldWords
    | .st => stWords
    | .mx => mxWords
    | .vx => vxWords
    | .rw => rwWords
    | .cp => cpWords).find? fun w => w.2.opc = opc

/-- The launch at the head of a queue would start now. -/
def wouldStart (s : State) (id : CoreId) (e : Eng) : Bool :=
  let q := queueOf s id e
  match q.words[q.pos]? with
  | none => false
  | some w =>
    let f := w.w.extractLsb' 1 6
    match specOf e (w.w.extractLsb' 7 7).toNat with
    | none => false
    | some L =>
      isLaunch w.w && q.stop.isNone && q.entry.isNone &&
        (match startOf s id L.2 q (neighbours q.set (lfPu f) (lfPd f)) (q.set.stack.take L.2.pops).reverse (isNullified f q) with
        | .go _ _ => true
        | _ => false)

/-- R135: a wait on a semaphore that holds gives way to one that began before it, of a context or of an engine, and holds too. -/
def semFirst (s : State) (id : CtxId) : Bool :=
  match (ctxOf s id).wait with
  | some ⟨.kwait n _, _, t⟩ =>
    let ctxAhead : Bool := allKinds.any fun k =>
      let c := ctxOf s ⟨id.core, k⟩
      match c.wait with
      | some ⟨.kwait m a, _, u⟩ =>
        m = n && u < t && c.run = .running && !c.held && (readX c a).val.toNat ≤ (semOf s id.core n).count.toNat
      | _ => false
    let engAhead : Bool := allEngs.any fun e =>
      let q := queueOf s id.core e
      q.waitTicket ≠ 0 && q.waitTicket ≤ t && q.waitks.any (fun w => w.1 = n) && wouldStart s id.core e
    !ctxAhead && !engAhead
  | _ => true

/-- R135: another engine of the core began to wait before this one does on a semaphore of its head entry, and its launch would start
now: it is released first. -/
def engSemAhead (s : State) (id : CoreId) (e : Eng) : Bool :=
  let q := queueOf s id e
  allEngs.any fun f =>
    let p := queueOf s id f
    f ≠ e && p.waitTicket ≠ 0 && (q.waitTicket = 0 || p.waitTicket < q.waitTicket) &&
      q.waitks.any (fun w => p.waitks.any fun v => v.1 = w.1) && wouldStart s id f

/-- What the launch at the head of a queue would do to tiles. -/
def headTiles (s : State) (id : CoreId) (e : Eng) : List (CoreId × BitVec 6 × TileAct) :=
  let q := queueOf s id e
  match q.words[q.pos]? with
  | none => []
  | some w => match specOf e (w.w.extractLsb' 7 7).toNat with
    | none => []
    | some L => L.2.acts s id (q.set.stack.take L.2.pops).reverse

/-- R174: a word of a lower engine code of the core would start now on a tile that this one names: it starts first. -/
def engTileAhead (s : State) (id : CoreId) (e : Eng) : Bool :=
  allEngs.any fun f => engCode f < engCode e && wouldStart s id f &&
    (headTiles s id f).any fun a => (headTiles s id e).any fun b => coreKey a.1 = coreKey b.1 && a.2.1 = b.2.1

/-- Consider the wait of a context again, if it is one of those named. -/
def retry (which : Wait → Bool) (id : CtxId) (s : State) : State :=
  match (ctxOf s id).wait with
  | some v =>
    if which v.what && (ctxOf s id).run = .running && ctxLive s id && semFirst s id then asCtx s id (runWait v.what) else s
  | none => s

/-- R130: a waiting RSEND. -/
def execRingSendComplete (id : CtxId) (s : State) : Host.Outcome State Fault Refusal :=
  .next (retry (fun w => match w with | .rsend .. => true | _ => false) id s)

/-- R130: a waiting RRECV. -/
def execRingReceiveComplete (id : CtxId) (s : State) : Host.Outcome State Fault Refusal :=
  .next (retry (fun w => match w with | .rrecv .. => true | _ => false) id s)

/-- R135: a semaphore wait. -/
def execKwaitRelease (id : CtxId) (s : State) : Host.Outcome State Fault Refusal :=
  .next (retry (fun w => match w with | .kwait .. => true | _ => false) id s)

/-- R137: a barrier wait. -/
def execCwaitRelease (id : CtxId) (s : State) : Host.Outcome State Fault Refusal :=
  .next (retry (fun w => match w with | .cwait .. => true | _ => false) id s)

/-- R175: a tile wait. -/
def execTwaitRelease (id : CtxId) (s : State) : Host.Outcome State Fault Refusal :=
  .next (retry (fun w => match w with | .twait .. => true | _ => false) id s)

/-- R196: a WAITV tests its word again. -/
def execWaitvRetest (id : CtxId) (s : State) : Host.Outcome State Fault Refusal :=
  .next (retry (fun w => match w with | .waitv .. => true | _ => false) id s)

/-- R198: a waiting FGETV or FTAKE. -/
def execFutureWaitRelease (id : CtxId) (s : State) : Host.Outcome State Fault Refusal :=
  .next (retry (fun w => match w with | .fget .. => true | .ftake .. => true | _ => false) id s)

/-- R182: a fence. -/
def execFenceComplete (id : CtxId) (s : State) : Host.Outcome State Fault Refusal :=
  .next (retry (fun w => match w with | .fence .. => true | _ => false) id s)

/-- R204, R206: a waiting ENQ or ENQS. -/
def execEnqSpaceAvailable (id : CtxId) (s : State) : Host.Outcome State Fault Refusal :=
  .next (retry (fun w => match w with | .enq .. => true | .enqs .. => true | _ => false) id s)

/-- R208: a waiting EFENCE. -/
def execEfenceComplete (id : CtxId) (s : State) : Host.Outcome State Fault Refusal :=
  .next (retry (fun w => match w with | .efence .. => true | _ => false) id s)

/-- R222: a waiting LREL. -/
def execLrelComplete (id : CtxId) (s : State) : Host.Outcome State Fault Refusal :=
  .next (retry (fun w => match w with | .lrel => true | _ => false) id s)

/-- R124: a waiting WFE. -/
def execWfeWake (id : CtxId) (s : State) : Host.Outcome State Fault Refusal :=
  .next (retry (fun w => match w with | .wfe => true | _ => false) id s)

/-- R320: a waiting CHINSW. -/
def execChinswRetry (id : CtxId) (s : State) : Host.Outcome State Fault Refusal :=
  .next (retry (fun w => match w with | .chinsw .. => true | _ => false) id s)

/-- R416: the request at the head of the cluster's queue is granted: that of a restored team at once, that of a
waiting PACQ by its instruction. -/
def execPacqGrant (c : ClusId) (s : State) : Host.Outcome State Fault Refusal :=
  .next (
    match (clusOf s c).pacq with
    | [] => s
    | r :: t =>
      let id := coreAt c r.rank
      if !grantable s id r.level then s
      else if r.restore then grantPower (modClus s c fun cl => { cl with pacq := t }) id r.level
      else retry (fun w => match w with | .pacq _ => true | _ => false) ⟨id, r.kind⟩ s)

/-- The waits during which an engine trap is taken (R211, R206, R208). -/
def trapsIn : Wait → Bool
  | .enq .. => true
  | .enqs .. => true
  | .efence _ => true
  | .lease => true
  | .lrel => true
  | _ => false

/-- An instruction boundary of a context that can act (R326). -/
def atBoundary (s : State) (id : CtxId) (waits : Wait → Bool) : Bool :=
  ctxLive s id && !tsInh (ctxOf s id).tstat && (match (ctxOf s id).wait with | some v => waits v.what | none => true)

/-- R326: the engine of lowest code that is stopped at a trap due to a context. -/
def pendingEng (s : State) (id : CtxId) : Option (Eng × Stop) :=
  allEngs.findSome? fun e =>
    if feederOf e = id.kind then
      match (queueOf s id.core e).stop with
      | some t => if !t.taken && t.since ≤ s.cyc.toNat then some (e, t) else none
      | none => none
    else none

/-- R326, R327, R211: an engine trap is taken by the feeding context; one that has ended enters its handler
with TEPC 0. -/
def deliverEngine (s : State) (id : CtxId) : State :=
  if !atBoundary s id trapsIn || (ctxOf s id).run = .off then s
  else match pendingEng s id with
    | none => s
    | some (e, t) =>
      let s2 := modCtx (modQueue (endReqs s id) id.core e fun q => { q with stop := some { t with taken := true } }) id abandon
      let epc := if (ctxOf s id).run = .ended then 0 else (ctxOf s id).pc
      takeTrap s2 id t.cause t.tval epc (some ⟨e, t.index⟩)

/-- R326: delivery as an event. -/
def execEngineTrapDelivery (id : CtxId) (s : State) : Host.Outcome State Fault Refusal := .next (deliverEngine s id)

/-- R376: a BUDGET that waited for an instruction boundary is due (R21, R329). -/
def budgetNow (s : State) (id : CtxId) : Bool :=
  let c := ctxOf s id
  c.budgetDue && c.run = .running && ctxLive s id && (match c.wait with | some v => abandonable v.what | none => true)

/-- R376, R330: that BUDGET is taken; with INH = 1 it escalates. -/
def deliverBudget (s : State) (id : CtxId) : State :=
  let c := ctxOf s id
  if budgetNow s id then
    let bud := match teamOf s id.core with | some t => t.bud | none => 0
    takeTrap (modCtx (endReqs s id) id fun c => { abandon c with budgetDue := false }) id cBUDGET (bud.setWidth 64) c.pc none
  else s

/-- R23: an interrupt is due at a context: pending, with IE = 1, at a boundary. One that becomes pending in this cycle is taken after
the instruction of this cycle, so that a trap of that instruction comes first (DEDUCED, log 157). -/
def intrDue (s : State) (id : CtxId) : Bool :=
  let c := ctxOf s id
  c.run = .running && tsIe c.tstat && (c.intp &&& 3) != 0 && c.intpAt ≠ s.cyc.toNat + 1 && atBoundary s id fun _ => false

/-- R23, R326: a pending interrupt is taken between instructions. -/
def deliverInterrupt (s : State) (id : CtxId) : State :=
  if intrDue s id && (pendingEng s id).isNone then takeTrap s id cINTERRUPT (ctxOf s id).intp (ctxOf s id).pc none else s

/-- R23: the interrupt as an event. -/
def execInterrupt (id : CtxId) (s : State) : Host.Outcome State Fault Refusal := .next (deliverInterrupt s id)

/-- Consider the launch word with code `opc` and flags `lf` at the head of a queue. -/
def runLaunch (s : State) (id : CoreId) (e : Eng) (opc : Nat) (lf : BitVec 6) : State :=
  match specOf e opc with
  | some (i, L) => asEng s id e fun s => launchWord (i lf) L lf s
  | none => s

/-- Consider the launch at the head of a queue, its earlier words having run. -/
def runHead (s : State) (id : CoreId) (e : Eng) : State :=
  match (queueOf s id e).words[(queueOf s id e).pos]? with
  | some w => runLaunch s id e (w.w.extractLsb' 7 7).toNat (w.w.extractLsb' 1 6)
  | none => s

/-- R414: an entry that waits on charge is considered again; under a pre-emption request its queue stands at an entry boundary
(R335). -/
def execChargeWaitStart (id : CoreId) (e : Eng) (s : State) : Host.Outcome State Fault Refusal :=
  .next (
    let q := queueOf s id e
    match q.charge, q.words[q.pos]? with
    | some _, some w =>
      if (coreOf s id).removal.isNone && isLaunch w.w && !preempting s id then runLaunch s id e (w.w.extractLsb' 7 7).toNat (w.w.extractLsb' 1 6) else s
    | _, _ => s)

end Sys2Proof.Machine
end

