-- ==== Sys2Proof/Machine/Reliability.lean ====
section
/-!
DEFINITION. Errors found by the checkers and the codes, array replay, self-tests and their repairs, and
recovery points (18 R344-R361; 23 R402-R405).
-/
namespace Sys2Proof.Machine

/-- A record of a core's store or unit, with its identity. -/
def coreRec (s : State) (c : CoreId) (kind : Nat) (va : Word) : ErrRec :=
  unitRec s c { cls := 0, sev := 0, kind := kind, unit := partUnit c kind, die := c.die, va := va }

/-- A record of a context's store or unit. -/
def ctxRec (s : State) (c : CtxId) : ErrRec := { coreRec s c.core 0 0 with ctx := ctxCode c.kind, pc := (ctxOf s c).pc }

/-- A record of an engine, with the oldest entry of its queue. -/
def engRec (s : State) (c : CoreId) (e : Eng) : ErrRec :=
  { coreRec s c (engCode e + 3) 0 with
    ctx := 0x10 + engCode e, entry := some (engCode e * 2 ^ 16 + (oldestIdx (queueOf s c e)).toNat) }

/-- A record of the home slice of an address. -/
def sliceRec (s : State) (pa : Nat) (r : ErrRec) : ErrRec :=
  let k := sliceOf (keyOf s pa)
  { r with cls := 0, sev := 0, kind := 9, unit := k % 32, die := k / 32, pa := pa, va := 0 }

/-- The virtual address of a physical one by what the core has cached of its team's translations. -/
def cachedVa (s : State) (c : CoreId) (pa : Nat) : Word :=
  match (coreOf s c).tlb.find? fun e => e.asid = asidOf s c && e.leaf.pa ≤ pa && pa < e.leaf.pa + e.leaf.size with
  | some e => BitVec.ofNat 64 (e.leaf.va + (pa - e.leaf.pa))
  | none => 0

/-- R351: the identity of a site: kind, unit, die, address (of the sector, for HBM: DEDUCED, log 66) and the unit that
owns it. -/
def siteRec (s : State) : Site → ErrRec
  | .hbm a => { cls := 0, sev := 0, kind := 10, unit := channelOf a % 128, die := channelOf a / 128, pa := a / 32 * 32 }
  | .stash c a => coreRec s c 2 (BitVec.ofNat 64 (c.rank * 2 ^ 21 + a % 2 ^ 21))
  | .xreg c _ => ctxRec s c
  | .vreg c _ _ _ => coreRec s c 6 0
  | .rbuf c _ _ => coreRec s c 5 0
  | .ring c _ _ => coreRec s c 0 0
  | .bank c _ _ _ => { cls := 0, sev := 0, kind := 5, unit := c.clus * 4 + (clusOf s c).leaseHolder.getD 0, die := c.die }
  | .cached c a => { coreRec s c 1 (cachedVa s c a) with pa := a }
  | .unit c => coreRec s c 0 0
  | .churn q _ => { cls := 0, sev := 0, kind := 14, unit := 0, die := q / 16 }
  | .peRow c _ => { cls := 0, sev := 0, kind := 5, unit := c.clus * 4 + (clusOf s c).leaseHolder.getD 0, die := c.die }
  | .link d n => { cls := 5, sev := 0, kind := 11, unit := Nat.max d n, die := Nat.min d n }
  | .hostLink => { cls := 5, sev := 0, kind := 13, unit := 0, die := 0 }
  | .peerPort p => { cls := 5, sev := 0, kind := 12, unit := p, die := 0 }
  | .context c => ctxRec s c
  | .engine c e => engRec s c e
  | .sliceOp c a => sliceRec s a (ctxRec s c)
  | .sliceDrain c a => sliceRec s a (engRec s c .mx)
  | .homeLine a => sliceRec s a { cls := 0, sev := 0, kind := 9, unit := 0, die := 0 }
  | .words c e => coreRec s c (engCode e + 3) 0
  | .beyond x => siteRec s x

/-- R345: the code over a store. -/
def siteEcc : Site → Nat
  | .hbm _ => 2
  | .link _ _ => 5
  | .hostLink => 5
  | .peerPort _ => 5
  | .peRow _ _ => 3
  | .context _ => 3
  | .engine _ _ => 3
  | .sliceOp _ _ => 3
  | .sliceDrain _ _ => 3
  | .beyond x => siteEcc x
  | _ => 1

/-- R351: the failing word within its sector. -/
def siteWord : Site → Nat
  | .hbm a => a / 4 % 8
  | .stash _ a => a / 4 % 8
  | .cached _ a => a / 4 % 8
  | .homeLine a => a / 4 % 8
  | .beyond x => siteWord x
  | _ => 0

/-- R430: the promises on SYND: one bit in error has [6] = 1, two have [6] = 0 and [5:0] nonzero; the HBM code's
is nonzero; a processing element's names its row, its column being open. -/
def siteSynd (site : Site) (free : Nat) (double : Bool) : Nat :=
  match site with
  | .peRow _ r => r * 256 + free % 128
  | x =>
    if siteEcc x = 2 then 1 + free % (2 ^ 32 - 1)
    else if siteEcc x = 1 then (if double then 1 + free % 63 else 64 + free % 64)
    else free % 2 ^ 32

/-- R344: residue or parity prediction: which of the two found a mismatch. -/
def checkEcc (site : Site) (free : Bool) : Nat :=
  match site with
  | .peRow _ _ => 3
  | x => if siteEcc x = 3 then (if free then 4 else 3) else siteEcc x

/-- R351: the context or the entry whose read found an error in a store of a core, or neither: no event names it, so it is open
(log 66). -/
def readBy (s : State) (c : CoreId) (n : Nat) (r : ErrRec) : ErrRec :=
  if r.ctx ≠ 0xFF then r
  else match allKinds[n % 10]? with
    | some k => if (ctxOf s ⟨c, k⟩).run = .running then { r with ctx := ctxCode k, pc := (ctxOf s ⟨c, k⟩).pc } else r
    | none =>
      match engOfCode (n % 10 - 3) with
      | some e =>
        let q := queueOf s c e
        if q.entry.isNone && q.running.isEmpty then r
        else { r with ctx := 0x10 + engCode e, entry := some (engCode e * 2 ^ 16 + (oldestIdx q).toNat) }
      | none => r

/-- Write a site's record: its SEQ, its code and the state after. Whether an uncorrectable error of a sector lies in several of
its words is a free value. -/
def logCode (s : State) (site : Site) (cls sev : Nat) (double : Bool) : Nat × Nat × State :=
  let n := (Config.freeWord s.tick).toNat
  let b := Config.freeBool s.tick
  let r := siteRec { s with tick := s.tick + 2 } site
  let own : ErrRec := match siteCore site with | some c => readBy s c (n / 2 ^ 32) r | none => r
  let p := logErr { s with tick := s.tick + 2 }
    { own with
      cls := cls
      sev := sev
      ecc := checkEcc site b
      word := if double && (siteEcc site = 2) && Config.freeBool (s.tick + 1) then 15 else siteWord site
      synd := siteSynd site n double }
  (p.1, checkEcc site b, p.2)

def logSite (s : State) (site : Site) (cls sev : Nat) (double : Bool) : Nat × State :=
  let r := logCode s site cls sev double
  (r.1, r.2.2)

/-- R357: a self-test of the implicated part is due; that of an array row waits for the end of its replay. -/
def testDue (s : State) (site : Site) (seq ecc : Nat) : State :=
  modDie s (siteRec s site).die fun d => { d with due := d.due ++ [(site, BitVec.ofNat 32 seq, ecc)] }

/-- A record of an error that makes a test due. -/
def logDue (s : State) (site : Site) (cls sev : Nat) : Nat × State :=
  let r := logCode s site cls sev true
  (r.1, testDue r.2.2 site r.1 r.2.1)

/-- An address or unit whose corrected errors are counted together (R357). -/
def siteKey (s : State) (site : Site) : Nat :=
  let r := siteRec s site
  let sub : Nat := match site with
    | .xreg _ n => n
    | .vreg _ g i j => g * 1024 + i * 32 + j
    | .rbuf _ i j => i * 128 + j
    | .ring _ g i => g * 64 + i
    | .bank _ b i j => b * 16384 + i * 128 + j
    | .churn q k => q * 65536 + k
    | _ => 0
  ((r.kind * 256 + r.unit) * 2 ^ 64 + r.pa + r.va.toNat) * 2 ^ 32 + sub

def countSite (s : State) (site : Site) (src : Nat) : State :=
  match siteCore site with
  | some c => count s c src 1 false
  | none => s

/-- R347: one word of physical memory takes the bits it is delivered with (R362), and a mark. -/
def markMem (s : State) (a : Nat) (bits : BitVec 32) (poison : Bool) : State :=
  physWrite s (a / 4 * 4) (leBytes 4 bits.toNat) poison

/-- R347: all eight words of an HBM sector are marked; the failing word holds what was delivered. -/
def markSector (s : State) (a : Nat) (bits : BitVec 32) : State :=
  let s1 := markMem s a bits true
  { s1 with memPoison := (List.range 8).foldl (fun m k => mset false m (a / 32 * 8 + k) true) s1.memPoison }

/-- A 64-bit word with one of its halves replaced. -/
def halfPut (v : Word) (bits : BitVec 32) (high : Bool) : Word :=
  if high then (v &&& 0x00000000FFFFFFFF#64) ||| bits.setWidth 64 <<< 32 else (v &&& 0xFFFFFFFF00000000#64) ||| bits.setWidth 64

/-- R345, R362: 32 bits of a queue, two of its words, take other bits, with a mark or none. -/
def pairPut (k : Nat) (bits : BitVec 32) (poison : Bool) (ws : List QWord) : List QWord :=
  ws.zipIdx.map fun e =>
    if e.2 / 2 ≠ k / 2 then e.1
    else { e.1 with w := bits.extractLsb' (16 * (e.2 % 2)) 16, poisonAt := if poison then some 0 else e.1.poisonAt }

/-- R345: entry k from the bottom of a parameter stack takes other bits in one half, with a mark or none, where it holds the value v. -/
def stackPut (k : Nat) (v : Word) (bits : BitVec 32) (high poison : Bool) (e : EngSet) : EngSet :=
  let n := e.stack.length - 1 - k
  if k < e.stack.length && e.stack.getD n 0 = v then
    { e with stack := e.stack.set n (halfPut v bits high), marks := if poison then setBit e.marks n true else e.marks }
  else e

/-- R345: an operand of an entry in a window takes other bits in one half. -/
def operandPut (n : Nat) (bits : BitVec 32) (e : Entry) : Entry :=
  let k := n / 2 ^ 33 % Nat.max 1 e.ops.length
  { e with ops := e.ops.set k (halfPut (e.ops.getD k 0) bits (n / 2 ^ 32 % 2 = 1)) }

/-- R345: a word of a queue, of its parameter stack (and of what is kept of it since the entry at the head began) or of its window, by
a free number: with a mark, or with other bits. -/
def wordPut (n : Nat) (bits : BitVec 32) (poison : Bool) (q : Queue) : Queue :=
  let a := q.words.length
  let b := q.set.stack.length
  let k := n % Nat.max 1 (a + b + q.window.length)
  if k < a then { q with words := pairPut k bits poison q.words }
  else if k < a + b then
    let put := stackPut (b - 1 - (k - a)) (q.set.stack.getD (k - a) 0) bits (n / 2 ^ 32 % 2 = 1) poison
    { q with set := put q.set, set0 := put q.set0 }
  else
    { q with window := q.window.zipIdx.map fun e =>
        if e.2 ≠ k - a - b then e.1 else { e.1 with entry := operandPut n bits e.1.entry, bad := e.1.bad || poison } }

/-- R345, R348: a word of a core's small stores, by a free number (log 169), takes other bits: a predicate file, a saved address, the
value of a trap, a stream count, a semaphore. -/
def smallPut (n : Nat) (bits : BitVec 32) (high : Bool) (c : Core) : Core :=
  let k := allKinds.getD (n / 8 % 3) .exec
  let x := ctxIn k c
  let ctx (y : Ctx) : Core := setCtxIn k c y
  if n % 8 = 0 then ctx { x with p := bits.setWidth 8 }
  else if n % 8 = 1 then ctx { x with tepc := halfPut x.tepc bits high }
  else if n % 8 = 2 then ctx { x with tval := halfPut x.tval bits high }
  else if n % 8 = 3 then ctx { x with pc := halfPut x.pc bits high }
  else if n % 8 = 4 then ctx (writeLc x (n / 64 % 4) { readLc x (n / 64 % 4) with lc := bits })
  else { c with sems := mmod {} c.sems (n / 64 % 32) fun m => { m with count := bits.setWidth 16 } }

/-- R347, R362: THE WORD OF A SITE takes the bits that are delivered, and a mark or none. Which half of a 64-bit word failed
and which word of a queue are free values. -/
def sitePut (s : State) (site : Site) (bits : BitVec 32) (poison : Bool) : State :=
  let n := (Config.freeWord s.tick).toNat
  let high : Bool := Config.freeBool s.tick
  let s1 := { s with tick := s.tick + 1 }
  match site with
  | .hbm a => if poison then markSector s1 a bits else markMem s1 a bits false
  | .stash c a => modCore s1 c fun co =>
      { co with
        stash := putBytes co.stash (a % 2 ^ 21 / 4 * 4) (leBytes 4 bits.toNat)
        stashPoison := if poison then mset false co.stashPoison (a % 2 ^ 21 / 4) true else co.stashPoison }
  | .xreg c n => modCtx s1 c fun x =>
      let r := readX x (BitVec.ofNat 5 n)
      let v := halfPut r.val bits high
      writeX x (BitVec.ofNat 5 n) (if poison then { r with val := v, poison := true, origin := 0, ostash := false } else { r with val := v })
  | .vreg c r i j => modCore s1 c fun co =>
      { co with vec := { co.vec with elts := mmod {} co.vec.elts (1024 * r + 32 * i + j) fun e =>
          { e with bits := bits, poison := e.poison || poison } } }
  | .rbuf c i j => modCore s1 c fun co =>
      { co with
        rbuf := mset 0 co.rbuf (128 * i + j) bits
        rbufPoison := if poison then mset false co.rbufPoison (128 * i + j) true else co.rbufPoison }
  | .ring c r k => modCore s1 c fun co =>
      { co with rings := mmod [] co.rings r fun es => es.zipIdx.map fun e =>
          if e.2 = k then { val := halfPut e.1.val bits high, poison := e.1.poison || poison } else e.1 }
  | .bank c b i j => modClus s1 c fun cl =>
      let put (k : Bank) : Bank := { k with w := mset 0 k.w (128 * i + j) bits }
      { cl with array := if b = 0 then { cl.array with bank0 := put cl.array.bank0 } else { cl.array with bank1 := put cl.array.bank1 } }
  | .cached c a => modCore s1 c fun co =>
      { co with l1 := mmod {} co.l1 (a / 128) fun l =>
          { l with
            bytes := putBytes l.bytes (a / 4 * 4) (leBytes 4 bits.toNat)
            poison := if poison then mset false l.poison (a / 4) true else l.poison } }
  | .homeLine a => markMem s1 a bits poison
  | .words c e => modQueue s1 c e (wordPut n bits poison)
  | .unit c => if poison then s else modCore s1 c (smallPut n bits high)
  | .churn q k => if poison then s else modChurn s1 q fun ch =>
      { ch with recs := mmod {} ch.recs k fun r => if r.st = .free then r else { r with key := halfPut r.key bits high } }
  | _ => s

/-- R346, R351: a correctable error: corrected in place, counted, recorded, on a link in its own class; the sixteenth of one address or unit makes a test due
(R357). Beyond the code it may be a miscorrection (R345): the word takes other bits. -/
def execEccCorrectable (site : Site) (s : State) : Host.Outcome State Fault Refusal :=
  .next (
    let die := (siteRec s site).die
    let k := siteKey s site
    let r := logCode s site (siteRec s site).cls 0 false
    let n := mget 0 (dieOf s die).corrected k + 1
    let s1 := modDie (countSite r.2.2 site 0x60) die fun d => { d with corrected := mset 0 d.corrected k n }
    let s2 := if n % 16 = 0 then testDue s1 site r.1 r.2.1 else s1
    match site with
    | .beyond x => sitePut { s2 with tick := s2.tick + 1 } x ((Config.freeWord s2.tick).setWidth 32) false
    | _ => s2)

/-- R347: a clean filled line of a mapped region is dropped and fills again. -/
def stashLineClean (c : Core) (a : Nat) : Option MapEntry :=
  match mapAt c a with
  | some m => if (mget {} m.filled (a / 128)).held && (mslice m.dirty (a / 128 * 128) 128).isEmpty then some m else none
  | none => none

def dropLine (c : Core) (m : MapEntry) (a : Nat) : Core :=
  modMap c m.off fun e => { e with filled := mset {} e.filled (a / 128) {} }

/-- R348: an error in a store that carries no marks ends the unit; the chain begins with PIPE. -/
def pipeRemoval (s : State) (id : CoreId) (seq : Nat) : State :=
  let c := coreOf s id
  removeUnit s id ({ cause := 7, src := BitVec.ofNat 8 (ctxCode .exec), entry := 0, pc := c.ctxX.pc, val := BitVec.ofNat 64 seq,
                     time := s.cyc.toNat } :: (unitLinks c ++ pendLinksPc c))

/-- R348: a Churn record with an uncorrectable error is retired and counted in DROPS; its GEN stands, as at any retirement. -/
def dropRecord (s : State) (q k : Nat) : State :=
  let ch := churnOf s q
  if (mget {} ch.recs k).st = .free then s
  else
    let ch1 := churnRetire ch k
    modChurn s q fun _ => { ch1 with drops := satInc ch1.drops }

/-- R347, R348: AN UNCORRECTABLE ERROR at a site; `bits` is what the word is left with (R362). Beyond what its code detects an
error passes with those bits, clean, or is miscorrected; or it is found as any other (R345): its own site names that. -/
def uncorrectable (s : State) (site : Site) (bits : BitVec 32) : State :=
  let marked (s : State) : State := countSite (sitePut (logDue s site 1 1).2 site bits true) site 0x61
  match site with
  | .hbm a => if 0x6000000000 ≤ a || (homeOf s (a / 128)).pinned then s else marked s
  | .stash c a =>
    match stashLineClean (coreOf s c) (a % 2 ^ 21) with
    | some m => modCore (logDue s site 1 2).2 c fun co => dropLine co m (a % 2 ^ 21)
    | none => marked s
  | .xreg _ n => if n = 0 then s else marked s
  | .vreg .. => marked s
  | .rbuf .. => marked s
  | .ring c r k => if (mget [] (coreOf s c).rings r).length ≤ k then s else marked s
  | .bank c b _ _ =>
    modClus (sitePut (logDue s site 1 1).2 site bits false) c fun cl =>
      { cl with array := { cl.array with verdictFail := setBit cl.array.verdictFail b true } }
  | .cached c a =>
    let l := l1Of s c (a / 128)
    if !l.held then s
    else if l.dirty.isEmpty then modL1 (logDue s site 1 2).2 c (a / 128) fun _ => {}
    else marked s
  | .homeLine a =>
    let h := homeOf s (a / 128)
    if 0x6000000000 ≤ a || !h.present then s
    else if h.dirty || h.pinned then marked s
    else (logDue s site 1 2).2
  | .words c e =>
    let q := queueOf s c e
    if q.words.isEmpty && q.set.stack.isEmpty && q.window.isEmpty then s else marked s
  | .unit c => let r := logDue s site 1 4; pipeRemoval r.2 c r.1
  | .churn q k => dropRecord (logDue s site 1 1).2 q k
  | .beyond x => sitePut s x bits false
  | _ => s

/-- R347, R348: the event. -/
def execEccUncorrectable (site : Site) (bits : BitVec 32) (s : State) : Host.Outcome State Fault Refusal :=
  .next (uncorrectable s site bits)

/-- R255, R353: no row of the window is still to land. -/
def dropLandings (s : State) (id : CoreId) : State :=
  let q := queueOf s id .mx
  let inWin (i : BitVec 16) : Bool := q.window.any fun w => w.entry.index = i
  modCore s id fun c => { c with landings := c.landings.filter fun l => !(inWin l.index && !l.bits.isEmpty) }

/-- R353: the array back at the start of its window's TS launch; at unit start where none has started. -/
def restoreWindow (s : State) (id : CoreId) : State :=
  let sh := ((coreOf s id).shadow).getD {}
  modArray (dropLandings s id) id fun a =>
    { a with verdictFail := 0, bank0 := sh.bank0, bank1 := sh.bank1, pvec := sh.pvec, grow := sh.grow, brk := sh.brk, fprog := sh.fprog }

/-- R353, R218, R275: what an entry that ran again leaves: its flags where it has not completed yet, a breakdown of its first run
standing; those of a fresh breakdown where it has. -/
def replayFlags (s : State) (id : CoreId) (index : BitVec 16) (flags : Word) : State :=
  if (queueOf s id .mx).running.any fun r => r.index = index then
    modQueue s id .mx fun q => { q with running := q.running.map fun r =>
      if r.index = index then { r with flags := flags ||| (r.flags &&& flBRKF) } else r }
  else if flags &&& flBRKF = 0 then s
  else modCtx s ⟨id, .exec⟩ fun c => { c with fctl := c.fctl ||| flags }

/-- R251, R353: a drain that ran again and has not committed all its rows commits the rest from its new reading of the bank. -/
def relateDrain (s : State) (id : CoreId) (en : Entry) : State :=
  if en.opc ≠ 3 then s
  else
    let l := drainLate s id en
    modQueue s id .mx fun q => { q with running := q.running.map fun r =>
      if r.index = en.index && r.late.isSome then
        { r with late := l.map fun x => { x with en := { x.en with flags := (r.late.map (·.en.flags)).getD 0 } } }
      else r }

/-- R220, R195: the words of an engine other than the array that a replay does not perform again: their operations carry their
first issue tags, or count as sent. -/
def onceOnly (e : Eng) (opc : Nat) : Bool := (e = .ld && (opc = 4 || opc = 5)) || (e = .cp && [7, 8, 11, 12].contains opc)

/-- R220, R353: how an entry of a window runs again. -/
def runAgain (e : Eng) (w : WinEntry) (s : State) (id : CoreId) (en : Entry) : Run :=
  if e = .mx then replayRun w s id en
  else if onceOnly e en.opc.toNat then .done s en.flags
  else match specOf e en.opc.toNat with
    | none => .done s en.flags
    | some L => L.2.run s id en

/-- An entry of a window as it begins again. -/
def anew (s : State) (en : Entry) : Entry :=
  { en with startAt := s.cyc.toNat, prog := 0, flags := 0, kept := [], given := 0, waited := 0, since := none }

/-- R353, R355, R275: ONE ENTRY of the window of a queue again, unless the replay has stopped or waits. A trap of its own stops the
queue there, and the replay goes on from there (R333; DEDUCED, log 170); a fresh breakdown under BRKT 1 completes then, its cycle having come (R276). -/
def replayEntry (id : CoreId) (e : Eng) (s : State) (x : WinEntry × Entry) : State :=
  let en := x.2
  let stop (s : State) (en : Entry) (cause : BitVec 8) (tval : Word) (resume : Resume) : State :=
    modQueue s id e fun q => { stopWith s.cyc.toNat cause tval en.index resume q with redoFrom := some en }
  if (queueOf s id e).stop.isSome || (queueOf s id e).redoFrom.isSome || en.nullified then s
  else if x.1.bad then stop (logEntryPoison s id e en.index 0 0) en cPOISON 0x8000000000000000#64 .goOn
  else match runAgain e x.1 s id en with
    | .done s1 fl => if e = .mx then relateDrain (replayFlags s1 id en.index fl) id en else s1
    | .wait s1 en1 => modQueue s1 id e fun q => { q with redoFrom := some en1 }
    | .stop s1 en1 cause tval resume => stop s1 en1 cause tval (if resume = .completeOnly then .completeOnly else .goOn)

/-- R353: entries of a window again, in order; the entry in progress is not one of them. -/
def replayList (s : State) (id : CoreId) (e : Eng) (l : List (WinEntry × Entry)) : State :=
  let here := (queueOf s id e).entry.map (·.index)
  asEng s id e fun s => (l.filter fun x => some x.2.index ≠ here).foldl (replayEntry id e) s

/-- R353: THE REPLAY of a command window: its entries run again from the TS entry on, the one in progress from its first element;
those after the failing one have waited. No token moves and no SIGK is performed (R220); what awaits its completion does so anew. -/
def replayWindow (s : State) (id : CoreId) : State :=
  let now := s.cyc.toNat
  let s1 := modQueue (restoreWindow (count s id 0x62 1 false) id) id .mx fun q =>
    { q with
      redo := false
      redoFrom := none
      entry := q.entry.map fun e => { e with prog := 0, flags := 0, kept := [], given := 0 }
      running := q.running.map fun r =>
        { r with startAt := now, doneAt := now + (r.doneAt - r.startAt), completeAt := now + (r.completeAt - r.startAt) } }
  replayList s1 id .mx ((queueOf s1 id .mx).window.map fun w => (w, anew s1 w.entry))

/-- R333: a replay goes on with the entry at which it stopped or waits. -/
def replayOn (s : State) (id : CoreId) (e : Eng) (en : Entry) : State :=
  let s1 := modQueue s id e fun q => { q with redoFrom := none }
  let ws := (queueOf s1 id e).window.dropWhile fun w => w.entry.index ≠ en.index
  replayList s1 id e ((ws.take 1).map (fun w => (w, en)) ++ (ws.drop 1).map fun w => (w, anew s1 w.entry))

/-- The record of a replay (R356, R344): the row of the element that failed, its column open (R430). The first
record that implicates a row is kept for its test (R357). -/
def logReplay (id : CoreId) (index : BitVec 16) (sev : Nat) (s : State) : Nat × State :=
  let c := CoreId.cl id
  let n := (Config.freeWord s.tick).toNat
  let r := unitRec s id
    { cls := 2, sev := sev, kind := 5, unit := partUnit id 5, die := id.die, ecc := 3, ctx := 0x12,
      entry := some (2 * 2 ^ 16 + index.toNat) }
  let fail := (arrayOf s id).peFail
  let row := fail.getD (n / 128 % 128)
  let p := logErr { s with tick := s.tick + 1 } { r with synd := row * 256 + n % 128 }
  (p.1, modClus p.2 c fun cl =>
    { cl with
      array := { cl.array with peFail := none }
      peTests := match fail with
        | some k => if mget 0 cl.peTests k = 0 then mset 0 cl.peTests k (p.1 + 1) else cl.peTests
        | none => cl.peTests })

/-- The banks that an entry writes. -/
def banksWritten (e : Entry) : List Nat :=
  match e.opc.toNat with
  | 0x00 => [mcBank (op e.ops 2)]
  | 0x01 => [bitsAt (op e.ops 0) 0 1]
  | 0x02 => [bitsAt (op e.ops 1) 0 1]
  | 0x05 => [0, 1]
  | 0x06 => [mcBank (op e.ops 1)]
  | 0x10 => [facOut .chol (op e.ops 1)]
  | 0x11 => [facOut .lu (op e.ops 1)]
  | 0x12 => [facOut .trsm (op e.ops 1)]
  | 0x13 => [facOut .trinv (op e.ops 1)]
  | 0x14 => [fcBank (op e.ops 1)]
  | 0x15 => [fcBank (op e.ops 1)]
  | 0x16 => [fcBank (op e.ops 0)]
  | 0x17 => [fcBank (op e.ops 1)]
  | _ => []

/-- R352: the banks that the last started entry that writes one wrote. -/
def lastWritten (q : Queue) : List Nat :=
  ((q.window.reverse.map fun w => banksWritten w.entry).find? fun l => !l.isEmpty).getD []

/-- R352: the entry whose verdict this is: the oldest running one on the bank, else the one in progress, else the
last of the window. -/
def failingIndex (q : Queue) (b : Nat) : BitVec 16 :=
  match q.running.find? fun r => r.banks.contains b with
  | some r => r.index
  | none =>
    match q.entry with
    | some e => e.index
    | none => match q.window.getLast? with | some w => w.entry.index | none => q.headIdx

/-- R353, R356: the window fails at an entry: it is replayed, up to 3 times until its next TS launch, then REPLAYX. `log` writes the
record of the mismatch with its severity (R344). -/
def failWindow (s : State) (id : CoreId) (i : BitVec 16) (log : Nat → State → Nat × State) : State :=
  if (queueOf s id .mx).replays < 3 then
    replayWindow (modQueue (log 2 s).2 id .mx fun q => { q with replays := q.replays + 1 }) id
  else
    let p := log 4 s
    modQueue p.2 id .mx (stopWith s.cyc.toNat cREPLAYX (BitVec.ofNat 64 p.1) i .replay)

/-- R352, R353, R356: THE VERDICT of a bank; one that failed is dealt with under the lease of its core. -/
def execArrayVerdict (c : ClusId) (b : Nat) (pass : Bool) (s : State) : Host.Outcome State Fault Refusal :=
  .next (
    let cl := clusOf s c
    match cl.leaseHolder with
    | none => s
    | some r =>
      let id := coreAt c r
      let q := (coreOf s id).qMx
      if q.stop.isSome || replaying q || (pass && !cl.array.verdictFail.getLsbD b) then s
      else if q.window.isEmpty then modArray s id fun a => { a with verdictFail := 0 }
      else failWindow s id (failingIndex q b) (logReplay id (failingIndex q b)))

/-- R333: a resume after REPLAYX replays the window once more, and a replay that stopped goes on; both under the lease (R221). -/
def redoWindow (s0 : State) (id : CoreId) : State :=
  let s := restoreArray s0 id
  let q := queueOf s id .mx
  if !holdsLease s id then s
  else if q.redo then replayWindow (logReplay id (failingIndex q 0) 2 s).2 id
  else match q.redoFrom with
    | some en => replayOn s id .mx en
    | none => s

/-- R333, R344: the window of an engine other than the array once more, with its record, up to the entry in progress, which goes on
from the piece that failed; or a replay that stopped goes on. -/
def redoEngine (s : State) (id : CoreId) (e : Eng) : State :=
  let q := queueOf s id e
  if q.redo then
    let s1 := modQueue (logMismatch s id e 2 q.headIdx).2.2 id e fun q => { q with redo := false, redoFrom := none }
    replayList s1 id e (q.window.map fun w => (w, anew s1 w.entry))
  else match q.redoFrom with
    | some en => replayOn s id e en
    | none => s

/-- A context that executes: it runs, waits for nothing and may act. -/
def executes (s : State) (id : CtxId) : Bool :=
  (ctxOf s id).run = .running && (ctxOf s id).wait.isNone && ctxLive s id

/-- R344: PIPE, precisely at the instruction at PC: it writes nothing. -/
def pipeTrap (s : State) (id : CtxId) (site : Site) : State :=
  if executes s id then
    let r := logDue s site 2 3
    takeTrap r.2 id cPIPE (BitVec.ofNat 64 r.1) (ctxOf s id).pc none
  else s

/-- R344: a check of an engine failed three times: it stops at the entry in progress, or at the next that starts, before the failing
piece is written. -/
def engineMismatch (s : State) (id : CoreId) (e : Eng) : State := modQueue s id e fun q => { q with mismatch := true }

/-- R344, R352: a processing element of a row failed a check: the verdict of the bank written last has failed. -/
def peMismatch (s : State) (id : CoreId) (row : Nat) : State :=
  modArray s id fun a =>
    { a with verdictFail := (lastWritten (queueOf s id .mx)).foldl (fun v b => setBit v b true) a.verdictFail, peFail := some row }

/-- R344: A CHECKER'S MISMATCH; `tries` recomputations have failed. One in the array lies in some row (R430; free, log 172). -/
def execCheckerMismatch (site : Site) (tries : Nat) (s : State) : Host.Outcome State Fault Refusal :=
  .next (
    match site with
    | .context c => pipeTrap s c site
    | .sliceOp c _ => if tries < 3 then (logDue s site 2 2).2 else pipeTrap s c site
    | .sliceDrain c _ =>
      let q := queueOf s c .mx
      if q.stop.isSome || replaying q || !(q.running.any fun r => r.late.isSome) || !holdsLease s c then s
      else if tries < 3 then (logDue s site 2 2).2
      else
        let i := ((q.running.find? fun r => r.late.isSome).map (·.index)).getD 0
        failWindow s c i fun sev s => logDue s site 2 sev
    | .engine c e =>
      let q := queueOf s c e
      if q.stop.isSome || (q.words.isEmpty && q.entry.isNone && (e ≠ .mx || q.running.isEmpty)) then s
      else if e = .mx then peMismatch { s with tick := s.tick + 1 } c ((Config.freeWord s.tick).toNat % 128)
      else if tries < 3 then countSite (logDue s site 2 2).2 site 0x63
      else engineMismatch s c e
    | .peRow c row =>
      match (clusOf s c).leaseHolder with
      | none => s
      | some r => peMismatch s (coreAt c r) row
    | _ => s)

/-- R358: the SRAM bank of a word, within the device: 32 KiB banks of the big structures, a bank for each small one. A home slice has 4
banks in each of its 16 ways; which of them holds a line is the slice's own. Which of a core's small structures, and of a queue, its
stack and its window, failed is a free value (log 169). -/
def sramBank (s : State) (site : Site) : Nat :=
  let sub : Nat := match site with
    | .stash _ a => a % 2 ^ 21 / 32768
    | .vreg _ r _ _ => r / 8
    | .rbuf _ i _ => i / 64
    | .bank _ b i _ => b * 2 + i / 64
    | .homeLine a => (Config.freeWord (2 ^ 80 + a / 128)).toNat % 64
    | .cached _ a => a / 128 % 2
    | .ring _ r _ => r
    | .xreg c _ => ctxCode c.kind
    | .words _ e => engCode e * 3 + (Config.freeWord s.tick).toNat % 3
    | .unit _ => (Config.freeWord s.tick).toNat % 64
    | .churn q _ => q
    | _ => 0
  let r := siteRec s site
  let cls : Nat := match site with
    | .vreg .. => 16
    | .rbuf .. => 17
    | .bank .. => 18
    | .ring .. => 19
    | .unit .. => 20
    | .words .. => 21
    | _ => r.kind
  (cls * 256 + r.unit) * 64 + sub

/-- The clusters of a die that are in service. -/
def inService (s : State) (die : Nat) : List ClusId :=
  ((List.range 25).filter fun k => !mget false (dieOf s die).clusOff k).map fun k => ⟨die, k⟩

/-- The virtual clusters that name a cluster in its die's remap table. -/
def vclusOf (s : State) (c : ClusId) : List Nat := (List.range 96).filter fun v => namedClus s c.die v = some c

/-- R358, R377: the cluster retires: its virtual clusters name the die's spare, or without one a cluster of the die, a free choice, which they
time-share. Its team is swapped out and its records are unbound. -/
def retireCluster (s : State) (c : ClusId) : State :=
  let s0 := modDie s c.die fun d => { d with clusOff := mset false d.clusOff c.clus true }
  let rest := inService s0 c.die
  let heir := match rest.find? fun k => (vclusOf s k).isEmpty with
    | some k => some k
    | none => rest[(Config.freeWord s.tick).toNat % rest.length]?
  let s1 := match heir with
    | none => s0
    | some k => (vclusOf s c).foldl (fun s v =>
        remapWrite s v (0x8000000000000000#64 ||| BitVec.ofNat 64 (k.die * 32 + k.clus))) { s0 with tick := s.tick + 1 }
  let s2 := requestPreempt s1 c .retire true
  unbindSlot (unbindSlot s2 c 0) c 1

/-- R358: the repair of a word row of SRAM: a spare row; a way of a home slice, which keeps one; else the cluster. A structure
with neither continues as it is (8). -/
def repairSram (s : State) (site : Site) : Nat × State :=
  let die := (siteRec s site).die
  let k := sramBank s site
  let used := mget 0 (dieOf s die).spareRows k
  if used < 4 then (3, modDie s die fun d => { d with spareRows := mset 0 d.spareRows k (used + 1) })
  else match site with
    | .homeLine _ =>
      let u := (siteRec s site).unit
      let off := mget 0 (dieOf s die).waysOff u
      if off < 15 then (4, modDie s die fun d => { d with waysOff := mset 0 d.waysOff u (off + 1) }) else (8, s)
    | .bank c _ _ _ => (6, retireCluster s c)
    | .stash c _ => (6, retireCluster s (CoreId.cl c))
    | .vreg c _ _ _ => (6, retireCluster s (CoreId.cl c))
    | .cached c _ => (6, retireCluster s (CoreId.cl c))
    | _ => (8, s)

/-- R428: some block of n bytes at a lies in a pseudo-channel; 64 aligned blocks meet every channel of their stack. -/
def meetsChannel (ch a n : Nat) : Bool :=
  (List.range (Nat.min 64 ((n + 4095) / 4096))).any fun k => channelOf (a / 4096 * 4096 + 4096 * k) = ch

/-- R358: n bytes, with their marks, stand from here on in memory that the Crier supplies, aligned to n (its place is a free value). -/
def moveRange (s : State) (a n : Nat) : Nat × State :=
  let dst := (Config.freeWord s.tick).toNat % (0x6000000000 / n) * n
  (dst, { s with
    tick := s.tick + 1
    mem := msplice s.mem (mshift (mslice s.mem a n) a) dst n
    memPoison := msplice s.memPoison (mshift (mslice s.memPoison (a / 4) (n / 4)) (a / 4)) (dst / 4) (n / 4)
    pkg := { s.pkg with dirty64k := markDirty s.pkg.dirty64k dst n, home := bumpHome s.pkg.home dst n } })

/-- R155: the PA of an entry's word 0 is another. -/
def putPa (s : State) (entry pa : Nat) : State :=
  physPut s entry 8 (physNat s entry 8 / 2 ^ 52 * 2 ^ 52 + pa % 2 ^ 52 / 512 * 512 + physNat s entry 8 % 512)

/-- R157: the bytes of a page's scale area. -/
def scaleSize (l : Leaf) : Nat := if isSq l.fmt then l.size / eltBits l.fmt else l.size / 16

/-- R358: a page, and its scale area, that lie in a retired channel move, and their leaf names the new place. -/
def moveLeaf (ch : Nat) (s : State) (l : Leaf) : State :=
  let s1 :=
    if meetsChannel ch l.pa l.size then (let p := moveRange s l.pa l.size; putPa p.2 l.entry p.1) else s
  if isBlocked l.fmt && meetsChannel ch l.scl (scaleSize l) then
    let p := moveRange s1 l.scl (scaleSize l)
    physPut p.2 (l.entry + 8) 8 (physNat p.2 (l.entry + 8) 8 % 4096 + p.1)
  else s1

/-- R154: the indices of the entries of a table of which a byte is not zero. -/
def tableEntries (s : State) (table size : Nat) : List Nat :=
  ((mslice s.mem table size).map fun e => (e.1 - table) / 16).eraseDups

/-- R358: THE CRIER REWRITES A TABLE of a level, and the tables below it, whose pages or tables lie in a retired channel. -/
def rewriteTable (ch : Nat) : Nat → Nat → Nat → State → State
  | 0, _, _, s => s
  | fuel + 1, lvl, table, s =>
    (tableEntries s table (if lvl = 1 then 2 ^ 21 else nextSize (lvl - 1))).foldl (fun s k =>
      match readEntry s lvl (k * lvlCover lvl) table with
      | .page => s
      | .leaf l => moveLeaf ch s l
      | .next t =>
        let s1 := rewriteTable ch fuel (lvl + 1) t s
        if meetsChannel ch t (nextSize lvl) then (let p := moveRange s1 t (nextSize lvl); putPa p.2 (table + 16 * k) p.1) else s1) s

/-- R358: the tables below a root are rewritten; a root in the channel moves, and the control blocks and the teams that name it
follow. -/
def rewriteRoot (ch : Nat) (s : State) (root : Nat) : State :=
  let s1 := rewriteTable ch 4 1 root s
  if !meetsChannel ch root (2 ^ 21) then s1
  else
    let p := moveRange s1 root (2 ^ 21)
    let s2 := p.2.pkg.jobs.foldl (fun s j => if jcbRoot s j.jcb = root then physPut s (j.jcb + 0x010) 8 p.1 else s) p.2
    s2.clusters.foldl (fun s e => modTeam s (clusOfKey e.1) fun t => if t.root = root then { t with root := p.1 } else t) s2

/-- Every L1 and every write buffer reaches the home slices. -/
def writeBackAll (s : State) : State :=
  (s.cores.map fun e => coreOfKey e.1).foldl (fun s id =>
    flushBuf (((coreOf s id).l1.map (·.1)).foldl (fun s l => l1WriteBack s id l fun _ => true) s) id) s

/-- R358, R428: the pseudo-channel retires. What stands in its blocks, with the marks, is copied to 768 MiB of memory that
the Crier supplies, block by block (its base is a free value). The Crier rewrites the tables of the jobs it knows: a page that lies in the
channel moves whole, to memory that it supplies. It invalidates every translation (R160); later accesses to the channel raise PROT. What
the caches hold reaches memory first (DESIGN CHOICE, log 147). -/
def retireChannel (s0 : State) (a : Nat) : State :=
  let s := writeBackAll s0
  let ch := channelOf a
  let lo := ch / 64 * (48 * 2 ^ 30)
  let base := (Config.freeWord s.tick).toNat % 0x5FC000 * 65536
  let site (b : Nat) : Nat := base + (b - lo) / 4096 / 64 * 4096 + b % 4096
  let bytes := (mslice s.mem lo (48 * 2 ^ 30)).filter fun e => channelOf e.1 = ch
  let marks := (mslice s.memPoison (lo / 4) (12 * 2 ^ 30)).filter fun e => channelOf (4 * e.1) = ch
  let s1 : State := { s with
    tick := s.tick + 1
    mem := bytes.foldl (fun m e => mset 0 m (site e.1) e.2) s.mem
    memPoison := marks.foldl (fun m e => mset false m (site (4 * e.1) / 4) e.2) s.memPoison }
  let roots := ((s1.pkg.jobs.map fun j => jcbRoot s1 j.jcb) ++ s1.clusters.filterMap fun e => e.2.team.map (·.root)).eraseDups
  let s2 := tlbiDrop (2, 0, 0) (roots.foldl (rewriteRoot ch) s1)
  modDie s2 (ch / 128) fun d => { d with channelsOff := mset false d.channelsOff (ch % 128) true }

/-- R358: the repair of an HBM sector: its line pinned in a repair way while its set has fewer than two; the part's own row repair,
while it has a spare row (its own answer); then the pseudo-channel retires. -/
def repairHbm (s : State) (a : Nat) : Nat × State :=
  let line := a / 128
  let key := keyOf s a
  let ways := (s.pkg.home.filter fun e => e.2.pinned && homeSet e.2.key e.1 = homeSet key line).length
  if ways < 2 then (1, modHome (touchHome s key line 0 false) line fun h => { h with pinned := true, dirty := true })
  else
    let f := freeBool s
    if f.1 then (2, f.2) else (5, retireChannel f.2 a)

/-- R358: a lane of a link between two dies, while one of its 4 spares is left; both ends share them (R395). -/
def spareLane (s : State) (d n : Nat) : Nat × State :=
  let lo := Nat.min d n
  let hi := Nat.max d n
  let used := mget 0 (dieOf s lo).lanesUsed hi
  if used < 4 then (7, modDie s lo fun x => { x with lanesUsed := mset 0 x.lanesUsed hi (used + 1) }) else (8, s)

/-- R358: a lane of a peer port: it goes on with 3 lanes. A second lane of the port finds no repair (DESIGN CHOICE, log 147). -/
def portLane (s : State) (port : Nat) : Nat × State :=
  if mget 0 (dieOf s 0).lanesUsed (16 + port) = 0 then
    (7, modDie s 0 fun x => { x with lanesUsed := mset 0 x.lanesUsed (16 + port) 1 })
  else (8, s)

/-- R358: THE FIRST REPAIR that has resources left, and its code. How many lanes UCIe's own repair of the host link has is open. -/
def repair (s : State) (site : Site) : Nat × State :=
  match site with
  | .hbm a => repairHbm s a
  | .peRow c _ => (6, retireCluster s c)
  | .link d n => spareLane s d n
  | .hostLink => let f := freeBool s; (if f.1 then 7 else 8, f.2)
  | .peerPort p => portLane s p
  | .context _ => (8, s)
  | .engine _ _ => (8, s)
  | .sliceOp _ _ => (8, s)
  | .sliceDrain _ _ => (8, s)
  | .beyond _ => (8, s)
  | x => repairSram s x

/-- R357, R430: the class 6 record of a test, with the code that found the error and SYND 0. -/
def logTest (s : State) (site : Site) (ref ecc rep : Nat) (lasting : Bool) : State :=
  let r := siteRec s site
  (logErr s { r with
    cls := 6, sev := 2, ecc := ecc, synd := 0, launch := 0, team := 0, lcid := 0, ctx := 0xFF, entry := none,
    pc := 0, ref := ref, repair := rep, test := if lasting then 2 else 1 }).2

/-- A test of a part: a lasting fault is repaired. -/
def runTest (s : State) (site : Site) (ref ecc : Nat) (lasting : Bool) : State :=
  let r := if lasting then repair s site else (0, s)
  logTest r.2 site ref ecc r.1 lasting

/-- R357, R358: A SELF-TEST that is due: of the part an error implicated, `ref` naming that error's record. That of an array row
runs while no core holds the lease and names the first mismatch of the row. -/
def execSelfTest (site : Site) (ref : BitVec 32) (lasting : Bool) (s : State) : Host.Outcome State Fault Refusal :=
  .next (
    match site with
    | .peRow c row =>
      let n := mget 0 (clusOf s c).peTests row
      if n = 0 || (clusOf s c).leaseHolder.isSome then s
      else runTest (modClus s c fun cl => { cl with peTests := mset 0 cl.peTests row 0 }) site (n - 1) 3 lasting
    | _ =>
      let die := (siteRec s site).die
      match (dieOf s die).due.find? fun t => t.1 = site && t.2.1 = ref with
      | none => s
      | some t => runTest (modDie s die fun d => { d with due := d.due.erase t }) site ref.toNat t.2.2 lasting)

/-- R359: GO with REQ 0. -/
def execRpctlRecoveryPoint (part : Nat) (s : State) : Host.Outcome State Fault Refusal := .next (rpctlGo s part 0)

/-- R360: GO with REQ 1. -/
def execRpctlRollback (part : Nat) (s : State) : Host.Outcome State Fault Refusal := .next (rpctlGo s part 1)

/-- R404: GO with REQ 2. -/
def execRpctlSeal (part : Nat) (s : State) : Host.Outcome State Fault Refusal := .next (rpctlGo s part 2)

/-- A job belongs to a partition. -/
def jobIn (s : State) (part : Nat) (job : BitVec 32) : Bool := s.pkg.jobs.any fun j => j.id = job && j.part = part

/-- The HBM range of a partition: base and bytes. -/
def hbmRange (s : State) (part : Nat) : Nat × Nat :=
  let p := mget {} s.pkg.parts part
  (p.hbase.toNat * 2 ^ 30, (p.hlim.toNat - p.hbase.toNat) * 2 ^ 30)

/-- A Churn queue owned by a job of the partition. -/
def churnIn (s : State) (part : Nat) (c : Churn) : Bool :=
  match c.owner with
  | some j => jobIn s part j
  | none => false

/-- R359: what a recovery point holds. -/
def pointOf (s : State) (part : Nat) : Point :=
  let r := hbmRange s part
  { mem := mshift (mslice s.mem r.1 r.2) r.1
    poison := mshift (mslice s.memPoison (r.1 / 4) (r.2 / 4)) (r.1 / 4)
    saved := s.pkg.saved.filter fun e => e.2.team.part = part
    churn := s.pkg.churn.filter fun e => churnIn s part e.2
    las := s.dies.map fun d => (d.1, d.2.las.filter fun r => jobIn s part r.job)
    acts := s.pkg.acts.filter fun a => jobIn s part a.job }

/-- R405: writes that waited for the log or for a tag go on, in order, as far as there is room. -/
def drainStalled (part : Nat) : Nat → State → State
  | 0, s => s
  | fuel + 1, s =>
    let t := mget {} s.pkg.tiers part
    match t.stalled with
    | [] => s
    | w :: rest =>
      if logFull s part w.1 then s
      else drainStalled part fuel
        (logAndHold (modPkg s fun p => { p with tiers := mset {} p.tiers part { t with stalled := rest } }) part w.1 w.2)

/-- R179, R359: what stands in the write buffers of the clusters reaches memory. -/
def drainBufs (s : State) : State := s.clusters.foldl (fun s e => flushBuf s (coreAt (clusOfKey e.1) 0)) s

/-- R403: the latest committed point of a tier: that of the journal while its copy has not finished, else the image area's. -/
def latest (t : TierStore) : Option Point := match t.journal with | some j => some j | none => t.image

/-- R359, R403: A RECOVERY POINT is taken: it stands in the journal and its number in the directory, the point before it in the image
area; the dirty bits and the log are cleared. Its copy into the image area follows. -/
def takePoint (s0 : State) (part : Nat) : State :=
  let s := drainBufs s0
  let r := hbmRange s part
  let img := pointOf s part
  let s1 := modPkg s fun p => { p with dirty64k := mclear p.dirty64k (r.1 / 65536) (r.2 / 65536) }
  let s2 := modStore s1 part fun t =>
    { t with image := latest t, journal := some img, sealedPt := none, point := t.point + 1, persisted := [], log := [] }
  drainStalled part (mget {} s.pkg.tiers part).stalled.length s2

/-- R404: the point is marked sealed in the directory of the tier, and the partition is sealed until reset. -/
def sealPart (s : State) (part : Nat) : State :=
  modPkg (modStore s part fun t => { t with sealedPt := some t.point }) fun p =>
    { p with tiers := mmod {} p.tiers part fun t => { t with isSealed := true } }

/-- R360: the persisted blocks put back. -/
def putPages (s : State) (lo : Nat) (l : List (Nat × PageImg)) : State :=
  l.foldl (fun s e =>
    { s with
      mem := msplice s.mem e.2.mem (lo + e.1 * 65536) 65536
      memPoison := msplice s.memPoison e.2.poison ((lo + e.1 * 65536) / 4) 16384 }) s

/-- R360, R166: no copy of the lines of a range outlives a rollback of it; the lines take a later time at their home slices. -/
def dropCopies (s : State) (lo n : Nat) : State :=
  let keep (k : Nat) : Bool := !(lo ≤ 128 * k && 128 * k < lo + n)
  let s1 := s.cores.foldl (fun s e => modCore s (coreOfKey e.1) fun c => { c with l1 := c.l1.filter fun x => keep x.1 }) (drainBufs s)
  modPkg s1 fun p => { p with home := bumpHome p.home lo n }

/-- R360, R403: A ROLLBACK to the latest point, whose copy out of the journal has finished then, and to the blocks made durable after
it; the records of compensations stand in their slots again (R382). -/
def rollBack (s0 : State) (part : Nat) (i : Point) (l : List (Nat × PageImg)) : State :=
  let r := hbmRange s0 part
  let s := dropCopies (modStore s0 part fun t => { t with image := latest t, journal := none }) r.1 r.2
  let mine (job : BitVec 32) : Bool := jobIn s part job
  let s1 := putPages ({ s with
    mem := msplice s.mem i.mem r.1 r.2
    memPoison := msplice s.memPoison i.poison (r.1 / 4) (r.2 / 4) } : State) r.1 l
  let s2 := modPkg s1 fun p =>
    { p with
      saved := p.saved.filter (fun e => e.2.team.part ≠ part) ++ i.saved
      churn := i.churn.foldl (fun m e => mset {} m e.1 e.2) (p.churn.filter fun e => !churnIn s part e.2)
      acts := p.acts.filter (fun a => !mine a.job) ++ i.acts }
  (List.range 4).foldl (fun s d =>
    let back := match i.las.find? fun e => e.1 = d with | some e => e.2 | none => []
    back.foldl (fun s r => writeRec s d r) (modDie s d fun x => { x with las := x.las.filter (fun r => !mine r.job) ++ back })) s2

/-- R404: a request ends: STATUS, DONE, and the interrupt of kind 4; the Crier's own point raises none. -/
def endRequest (s : State) (part : Nat) (status : BitVec 4) : State :=
  let t := mget {} s.pkg.tiers part
  if t.done then modPkg s fun p => { p with tiers := mset {} p.tiers part { t with acting := false } }
  else queueIntr (modPkg s fun p => { p with tiers := mset {} p.tiers part { t with status := status, done := true, acting := false } })
    0 4 0 part

/-- R359, R404: the teams that a request stopped, or whose images it restored, go on: the Crier stages the record of each again where
it stands in the slot the team left (DEDUCED, log 148: one whose slot has been taken waits for a bind record). -/
def resumeTeams (s : State) (keys : List Nat) : State :=
  keys.foldl (fun s k =>
    match s.pkg.saved.find? fun e => e.1 = k with
    | some e =>
      let c := clusOfKey e.2.home
      if 2 ≤ e.2.team.slot || recSave (slotAt s c e.2.team.slot) ≠ k then s else restage s c e.2.team.slot
    | none => s) s

/-- R404: A RECOVERY REQUEST ENDS: refused at once, or carried out once every team of the partition is saved. -/
def execRecoveryRequestEnd (part : Nat) (s : State) : Host.Outcome State Fault Refusal :=
  .next (
    let t := mget {} s.pkg.tiers part
    let req : BitVec 2 := if t.done then 0 else t.doing
    if !t.acting then s
    else if !t.v then endRequest s part 1
    else if t.isSealed then endRequest s part 3
    else if req = 1 then
      match latest (storeOf s part) with
      | none => endRequest s part 2
      | some i =>
        if !(partClusters s part).isEmpty then preemptPart s part
        else endRequest (resumeTeams (rollBack s part i (storeOf s part).persisted) (i.saved.map (·.1))) part 0
    else if !(partClusters s part).isEmpty then preemptPart s part
    else
      let s1 := takePoint s part
      endRequest (if req = 2 then sealPart s1 part else resumeTeams s1 t.stopped) part 0)

/-- R405: the log's live part has passed 1,572,864 entries: the Crier takes a point of its own accord. -/
def execEscapedLogThreshold (part : Nat) (s : State) : Host.Outcome State Fault Refusal :=
  .next (
    let t := mget {} s.pkg.tiers part
    if 1572864 < (storeOf s part).log.length && t.v && !t.acting then
      preemptPart (modPkg s fun p => { p with tiers := mset {} p.tiers part { t with acting := true, stopped := [] } }) part
    else s)

end Sys2Proof.Machine
end

