-- ==== Sys2Proof/Machine/HostLink.lean ====
section
/-!
DEFINITION. The host link and the peer ports: what arrives on them, the submission of jobs, the partition and
safe-tier tables (23 R395-R407; 15 R315).
-/
namespace Sys2Proof.Machine

/-- R410: the host link and the peer ports carry transactions once the Crier runs; before, sideband only. -/
def linkUp (s : State) : Bool := s.pkg.bootStage = 2

/-- R398: the record of a host transaction to an address outside HBM; of a peer's (kind 12). -/
def refuseRecord (s : State) (port addr : Nat) : State :=
  (logErr s { cls := 5, sev := 1, kind := if port = 16 then 13 else 12, unit := if port = 16 then 0 else port, die := 0,
              pa := addr }).2

/-- A range lies in HBM. -/
def inHbm (addr n : Nat) : Bool := addr + n ≤ 0x6000000000

/-- R400: TAIL of a completion ring has moved: its waiting records go out in order. -/
def releaseRecords (s : State) (jcb : Nat) : State :=
  let mine := s.pkg.link.pendingRecords.filter fun e => e.1 = jcb
  let s1 := modPkg s fun p => { p with link := { p.link with pendingRecords := p.link.pendingRecords.filter fun e => e.1 ≠ jcb } }
  mine.foldl (fun s e => postRecord s jcb e.2) s1

/-- R398, R407: an arriving write is performed at the home slices in its sender's order, or dropped with a record. One of the host over TAIL of a completion ring moves it
(R400). -/
def arriveWrite (s : State) (port addr : Nat) (psn : Bool) (bs : List Byte) : State :=
  if !inHbm addr bs.length then refuseRecord s port addr
  else
    let s1 := (cutLines (bs.length / 128 + 2) addr bs).foldl (fun s p => agentStore port psn s p.1 p.2) s
    ((s1.pkg.link.pendingRecords.map (·.1)).eraseDups.filter fun j =>
      port = 16 && addr ≤ j + 0x39 && j + 0x39 < addr + bs.length).foldl releaseRecords s1

/-- R398: the next write of the host has been performed. -/
def takeTurn (s : State) : State := modPkg s fun p => { p with link := { p.link with nextIn := p.link.nextIn + 1 } }

/-- R398: a write whose turn it is; a durable one is acknowledged: one that is dropped has failed; whether device memory outlives a
loss of host power is not stated, so else the status is open. -/
def performWrite (s : State) (w : HeldWrite) : State :=
  let s1 := takeTurn (arriveWrite s 16 w.addr.toNat w.psn w.bytes)
  match w.tag with
  | none => s1
  | some g =>
    let r := freeBool s1
    emit r.2 (.durableAck g (if r.1 && inHbm w.addr.toNat w.bytes.length then 0 else 1))

/-- R398: held writes whose turn has come. -/
def runHeld : Nat → State → State
  | 0, s => s
  | fuel + 1, s =>
    let l := s.pkg.link
    match l.heldIn.find? fun w => w.seq = l.nextIn with
    | none => s
    | some w =>
      runHeld fuel (performWrite (modPkg s fun p =>
        { p with link := { p.link with heldIn := p.link.heldIn.filter fun x => x.seq ≠ w.seq } }) w)

/-- R398: the held writes that follow one that has been performed. -/
def afterTurn (s : State) : State := runHeld s.pkg.link.heldIn.length s

/-- R398: A WRITE ARRIVES; writes are performed in SEQ order. -/
def acceptWrite (s : State) (w : HeldWrite) : State :=
  if !linkUp s then s
  else if w.seq = s.pkg.link.nextIn then afterTurn (performWrite s w)
  else modPkg s fun p => { p with link := { p.link with heldIn := p.link.heldIn ++ [w] } }

/-- R398: a posted write. -/
def execPostedWrite (seq : BitVec 16) (addr : BitVec 52) (psn : Bool) (data : List Byte) (s : State) :
    Host.Outcome State Fault Refusal :=
  .next (acceptWrite s { seq := seq, tag := none, addr := addr, psn := psn, bytes := data })

/-- R398: a durable write. -/
def execDurableWrite (seq : BitVec 16) (tag : BitVec 12) (addr : BitVec 52) (psn : Bool) (data : List Byte) (s : State) :
    Host.Outcome State Fault Refusal :=
  .next (acceptWrite s { seq := seq, tag := some tag, addr := addr, psn := psn, bytes := data })

/-- R398: a read request is served: STAT 1 outside HBM, 2 where the bytes hold a mark. -/
def execReadRequest (port : Nat) (tag : BitVec 12) (addr : BitVec 52) (count : BitVec 9) (s : State) :
    Host.Outcome State Fault Refusal :=
  .next (
    let a := addr.toNat
    let n := count.toNat
    if !linkUp s then s
    else if !inHbm a n then emit (refuseRecord s port a) (.readDone port tag 1 false [])
    else
      let p := physMark s a n
      emit s (.readDone port tag (if p then 2 else 0) p (physBytes s a n)))

/-- R152, R406: the device's physical address of an address of the host (port 16) or of a peer. -/
def portPa (port addr : Nat) : Nat := if port = 16 then 0x10000000000 + addr else 0x20000000000 + port * 0x8000000000 + addr

/-- R398: reads that waited for a tag of a port go out as far as there are tags. -/
def sendHeld (port : Nat) (s : State) : State :=
  match s.pkg.link.readsHeld.find? fun r => r.1 = port with
  | none => s
  | some r => sendRead (modPkg s fun p => { p with link := { p.link with readsHeld := p.link.readsHeld.erase r } }) port r.2.1 r.2.2

/-- R398: A READ COMPLETION returns the tag of an outstanding read of the device, and a read that waits for a tag goes out. The reader was
given open bytes and marks when the request was made (log 101); those of the completion are what is known of the place from
here on, all poisoned under STAT 2 or PSN. -/
def execReadCompletion (port : Nat) (tag : BitVec 12) (stat : Byte) (psn : Bool) (data : List Byte) (s : State) :
    Host.Outcome State Fault Refusal :=
  .next (
    match s.pkg.link.reads.find? fun r => r.1 = port && r.2.1 = tag with
    | none => s
    | some r =>
      let s1 := modPkg s fun p => { p with link := { p.link with reads := p.link.reads.erase r } }
      sendHeld port (if stat = 1 then s1 else knowFar s1 (portPa port r.2.2) data (psn || stat = 2)))

/-- R399: the oldest message goes to the host. -/
def execInterruptMessage (s : State) : Host.Outcome State Fault Refusal :=
  .next (
    match s.pkg.link.intrs with
    | [] => s
    | m :: t =>
      if !linkUp s then s
      else emit (modPkg s fun p => { p with link := { p.link with intrs := t } }) (.interrupt m))

/-- R399, R405: what is held at the egress leaves in the order of its log entries, as far as they are
acknowledged. -/
def releaseHead : Nat → State → State
  | 0, s => s
  | fuel + 1, s =>
    match s.pkg.link.heldOut with
    | [] => s
    | e :: rest =>
      if s.pkg.link.acked.contains e.1 then
        releaseHead fuel (sendOut (modPkg s fun p => { p with link := { p.link with
          heldOut := rest, acked := p.link.acked.filter fun t => t ≠ e.1 } }) e.2)
      else s

/-- R405: the entry under a tag is in the log for good; stalled writes follow as there is room. -/
def releaseTag (s : State) (tag : BitVec 12) : State :=
  if s.pkg.link.heldOut.any fun e => e.1 = tag then
    let s1 := releaseHead s.pkg.link.heldOut.length (modPkg s fun p => { p with link := { p.link with acked := tag :: p.link.acked } })
    (List.range 8).foldl (fun s p => drainStalled p (mget {} s.pkg.tiers p).stalled.length s) s1
  else s

/-- R398, R405: a durable acknowledgement; a failed one (STAT 1) releases nothing. -/
def execDurableAcknowledgement (port : Nat) (tag : BitVec 12) (stat : Byte) (s : State) : Host.Outcome State Fault Refusal :=
  .next (if port = 16 && stat = 0 then releaseTag s tag else s)

/-- R396: a transfer that link retry re-sends keeps its tag and changes nothing. -/
def execLinkRetry (_port : Nat) (s : State) : Host.Outcome State Fault Refusal := .next s

/-- R395: the lower-numbered of the two other dies. -/
def viaDie (a b : Nat) : Nat := ((List.range 4).find? fun d => d ≠ a && d ≠ b).getD 0

/-- R395: a link out of spare lanes is rerouted, from both ends. A die's link to die e is its link e. -/
def execDieLinkReroute (a b : Nat) (s : State) : Host.Outcome State Fault Refusal :=
  .next (
    let spent (x y : Nat) : Bool := 4 ≤ mget 0 (dieOf s (Nat.min x y)).lanesUsed (Nat.max x y)
    if a = b || !(spent a b || spent b a) then s
    else
      let v := viaDie a b + 1
      modDie (modDie s a fun d => { d with reroute := mset 0 d.reroute b v }) b fun d => { d with reroute := mset 0 d.reroute a v })

/-- R407: a write of a peer, performed in its sender's order. -/
def execPeerWriteArrival (port : Nat) (addr : BitVec 52) (psn : Bool) (data : List Byte) (s : State) :
    Host.Outcome State Fault Refusal := .next (if port < 16 && linkUp s then arriveWrite s port addr.toNat psn data else s)

/-- R400: a record of the submission ring. -/
structure SubRec where
  job : Nat
  part : Nat
  flags : Nat
  jcb : Nat
  plist : Nat
  dl : Nat
  rest : Nat

def readSub (s : State) (a : Nat) : SubRec :=
  { job := physNat s a 4, part := physNat s (a + 4) 1, flags := physNat s (a + 5) 1, jcb := physNat s (a + 8) 8,
    plist := physNat s (a + 16) 8, dl := physNat s (a + 24) 8, rest := physNat s (a + 6) 2 + physNat s (a + 32) 31 }

/-- R400: a field is bad: a zero job id, a partition that is not defined, a reserved bit, a control block out of
place, a phase list beyond the address space. -/
def subBad (s : State) (r : SubRec) : Bool :=
  r.job = 0 || 8 ≤ r.part || !(mget {} s.pkg.parts r.part).v || 2 ≤ r.flags || r.rest ≠ 0 ||
    r.jcb % 256 ≠ 0 || !inHbm r.jcb 256 || 2 ^ 56 ≤ r.plist

/-- R315: the Crier gives a job its Churn queues, among the disabled ones without records. -/
def giveQueues (s : State) (job : BitVec 32) : State :=
  modPkg s fun p => { p with churn := (List.range 64).foldl (fun m q =>
    let ch := mget {} m q
    if !ch.en && churnUsed ch = 0 && Config.churnOwned job q then mset {} m q { ch with owner := some job } else m) p.churn }

/-- R400, R399: one submission record: its status, and the job it starts. When a partition is full is the Crier's:
open. -/
def submit (s : State) (a : Nat) : State :=
  let r := readSub s a
  let f := freeBool s
  let stat : Nat := if subBad s r then 1 else if (jobOf s (BitVec.ofNat 32 r.job)).isSome then 3 else if f.1 then 2 else 0
  let s1 := physPut f.2 (a + 63) 1 stat
  let s2 := if stat = 0 then
      giveQueues (modPkg s1 fun p => { p with jobs := p.jobs ++
        [{ id := BitVec.ofNat 32 r.job, part := r.part, super := natBit r.flags 0, jcb := r.jcb,
           plist := BitVec.ofNat 64 r.plist, dl := BitVec.ofNat 64 r.dl }] }) (BitVec.ofNat 32 r.job)
    else s1
  queueIntr s2 (BitVec.ofNat 32 r.job) 5 0 (if r.part < 8 then r.part else 0xFF)

/-- R400: the Crier reads the ring from HEAD to TAIL. -/
def submitAll : Nat → State → State
  | 0, s => s
  | fuel + 1, s =>
    let p := s.pkg
    let h := p.subHead.toNat
    if h = p.subTail.toNat then s
    else submitAll fuel (modPkg (submit s (ringBase p.subbase + 64 * h)) fun p =>
      { p with subHead := BitVec.ofNat 16 ((h + 1) % ringSize p.subbase) })

/-- R400, R397: THE DOORBELL: the host advances TAIL with the posted write whose turn it is (DEDUCED, log 150); a TAIL beyond the
ring is no doorbell. -/
def execSubmissionDoorbell (tail : BitVec 16) (s : State) : Host.Outcome State Fault Refusal :=
  .next (
    let n := ringSize s.pkg.subbase
    if !linkUp s then s
    else afterTurn (takeTurn (if n ≤ tail.toNat then s else submitAll n (modPkg s fun p => { p with subTail := tail }))))

/-- R400, R397: the host moves TAIL of a completion ring, with the posted write whose turn it is (log 150): waiting records go out
in order. -/
def execCompletionRingTail (jcb : Nat) (tail : Byte) (s : State) : Host.Outcome State Fault Refusal :=
  .next (
    if !linkUp s || !inHbm jcb 256 then s
    else afterTurn (takeTurn (releaseRecords (physPut s (jcb + 0x039) 1 tail.toNat) jcb)))

/-- R401, R402: a slot of the partition is bound. -/
def partBound (s : State) (part : Nat) : Bool :=
  s.clusters.any fun e => [e.2.slot0, e.2.slot1].any fun sl => sl.st ≠ .free && jcbPart s (recJcb sl) = part

/-- R401: the fields of a partition entry. -/
def partFields (w0 w1 w2 w3 : Word) : Partition :=
  { v := w0.getLsbD 63, vclo := w0.setWidth 32, vchi := w1, peers := w2.extractLsb' 48 16, hlim := w2.extractLsb' 32 9,
    hbase := w2.setWidth 9, floor := w3.setWidth 16 }

/-- Two ranges [a, b) and [c, d) meet. -/
def meets (a b c d : Nat) : Bool := a < d && c < b

/-- R401: two defined entries share a virtual cluster or HBM. -/
def partClash (p q : Partition) : Bool :=
  p.v && q.v && ((p.vclo &&& q.vclo) != 0 || (p.vchi &&& q.vchi) != 0 || meets p.hbase.toNat p.hlim.toNat q.hbase.toNat q.hlim.toNat)

/-- R401: A WRITE OF A PARTITION ENTRY through the sideband. -/
def execPartitionTableWrite (part : Nat) (w0 w1 w2 w3 : Word) (s : State) : Host.Outcome State Fault Refusal :=
  .next (
    let p := partFields w0 w1 w2 w3
    let clash := (List.range 8).any fun q => q ≠ part && partClash p (mget {} s.pkg.parts q)
    if partBound s part || clash || 384 < p.hlim.toNat || p.hlim.toNat ≤ p.hbase.toNat then s
    else
      let s1 := modPkg s fun k => { k with parts := mset {} k.parts part p }
      if floorSum s1 = floorSum s then s1 else judgeCap s1)

/-- R402: the bounds of a tier in 4 KiB units. -/
def tierEnd (t : Tier) : Nat := t.base.toNat + t.size.toNat

/-- R402: A WRITE OF A SAFE-TIER ENTRY through the sideband; word 3 stands. -/
def execSafeTierWrite (part : Nat) (w0 w1 w2 : Word) (s : State) : Host.Outcome State Fault Refusal :=
  .next (
    let p := mget {} s.pkg.parts part
    let t : Tier := { mget {} s.pkg.tiers part with
      v := w0.getLsbD 63, base := w0.extractLsb' 12 28, size := w1.extractLsb' 12 28, rate := w2.setWidth 16 }
    let clash := (List.range 8).any fun q =>
      let u := mget {} s.pkg.tiers q
      q ≠ part && u.v && meets t.base.toNat (tierEnd t) u.base.toNat (tierEnd u)
    let small : Bool := t.size.toNat < (2 * (p.hlim.toNat - p.hbase.toNat) + 1) * 2 ^ 18
    if partBound s part || (t.v && (clash || small || 2 ^ 28 < tierEnd t)) then s
    else modPkg s fun k => { k with tiers := mset {} k.tiers part t })

end Sys2Proof.Machine
end

