-- ==== Sys2Proof/Machine/Boot.lean ====
section
/-!
DEFINITION. Reset, boot, measurement and attestation, and the Crier's standby (07 R427; 21 R366; 23 R410, R411).
-/
namespace Sys2Proof.Machine

/-- R165, R358: repairs last for the device's service, through a reset. -/
def keepRepairs (d : Die) : Die :=
  { spareRows := d.spareRows, waysOff := d.waysOff, channelsOff := d.channelsOff, clusOff := d.clusOff,
    lanesUsed := d.lanesUsed, reroute := d.reroute }

/-- R165: the lines pinned in repair ways stay pinned; their contents go with the rest of memory. -/
def keepPinned (m : SMap HomeLine) : SMap HomeLine :=
  (m.filter fun e => e.2.pinned).map fun e => (e.1, { present := true, key := e.2.key, pinned := true })

/-- R427, R402: POWER-ON RESET: every register and every byte of memory at its reset value; repairs and what the host
keeps in the safe tiers stay. -/
def powerOn (s : State) : State :=
  { State.reset with
    tick := s.tick
    agenda := s.agenda
    cur := s.cur
    curEng := s.curEng
    dies := s.dies.foldl (fun m e => mset {} m e.1 (keepRepairs e.2)) []
    pkg := { State.reset.pkg with stores := s.pkg.stores, home := keepPinned s.pkg.home } }

/-- R427: the reset. -/
def execPowerOnReset (s : State) : Host.Outcome State Fault Refusal := .next (powerOn s)

/-- R410: the verification of an image: the FAIL code, 0 for none. What a header holds is not stated. -/
def verifyImage (image signature key : List Byte) : BitVec 4 :=
  if !Config.headerOk image then 1
  else if !Config.digestOk image (Config.shake256 image) then 2
  else if Config.shake256 key ≠ Config.fusedKeyDigest then 4
  else if !Config.falconVerify key (Config.shake256 image) signature then 3
  else 0

/-- R410: THE BOOT ROM verifies the Crier image, which then starts, or writes the cause of the failure. -/
def execBootImageVerify (image signature key : List Byte) (s : State) : Host.Outcome State Fault Refusal :=
  .next (
    if s.pkg.bootStage ≠ 0 then s
    else
      let f := verifyImage image signature key
      if f = 0 then
        modPkg s fun p => { p with bootFail := 0, bootStage := 1, measurements := [Config.shake256 image] }
      else modPkg s fun p => { p with bootFail := f })

/-- R410: firmware that the Crier loads: verified alike, its digest the next of at most 32 measurements. -/
def execFirmwareMeasurement (image signature key : List Byte) (s : State) : Host.Outcome State Fault Refusal :=
  .next (
    if s.pkg.bootStage = 2 && verifyImage image signature key = 0 && s.pkg.measurements.length < 32 then
      modPkg s fun p => { p with measurements := p.measurements ++ [Config.shake256 image] }
    else s)

/-- R366: the standby core takes over; tables, control blocks and running teams stand. -/
def execCrierTakeover (s : State) : Host.Outcome State Fault Refusal :=
  .next (if s.pkg.bootStage = 2 then modPkg s fun p => { p with crierDie := 2 } else s)

/-- R411: the seeds of the identity pair and of the alias pair, which takes in measurement 0. -/
def identitySeed : List Byte := Config.shake256 Config.fusedSecret
def aliasSeed (s : State) : List Byte := Config.shake256 (Config.fusedSecret ++ (s.pkg.measurements.head?).getD [])

/-- R411: the alias certificate: the alias public key signed by the identity key. -/
def aliasCert (s : State) : List Byte :=
  let k := Config.falconPublic (aliasSeed s)
  k ++ Config.falconSign identitySeed (Config.shake256 k)

/-- R401: the partition table as bytes. -/
def partTable (s : State) : List Byte :=
  (List.range 8).flatMap fun p => (List.range 4).flatMap fun n => leBytes 8 (partWord (mget {} s.pkg.parts p) n).toNat

/-- R411: the report's four parts. -/
def reportBody (s : State) (nonce : List Byte) : List Byte :=
  s.pkg.measurements.flatten ++ nonce ++ partTable s ++ aliasCert s

/-- R411: A SIGNED REPORT over a 32-byte nonce. -/
def execAttestationRequest (nonce : List Byte) (s : State) : Host.Outcome State Fault Refusal :=
  .next (
    if s.pkg.bootStage = 2 && nonce.length = 32 then
      let b := reportBody s nonce
      emit s (.report (b ++ Config.falconSign (aliasSeed s) (Config.shake256 b)))
    else s)

end Sys2Proof.Machine
end

