-- ==== Sys2Proof/Machine/Fpu.lean ====
section
/-!
DEFINITION. Scalar FP32 arithmetic, compares and conversions (05 R110-R115).
-/
namespace Sys2Proof.Machine

/-- R111: FADD. -/
def execFadd (d a b : BitVec 5) (g : BitVec 3) (s : State) : Host.Outcome State Fault Refusal :=
  .next (scalar (.fadd d a b g) g true false (fpBin d a b numAdd) s)

/-- R111: FSUB. -/
def execFsub (d a b : BitVec 5) (g : BitVec 3) (s : State) : Host.Outcome State Fault Refusal :=
  .next (scalar (.fsub d a b g) g true false (fpBin d a b fun rm x y => numAdd rm x (numNeg y)) s)

/-- R111: FMUL. -/
def execFmul (d a b : BitVec 5) (g : BitVec 3) (s : State) : Host.Outcome State Fault Refusal :=
  .next (scalar (.fmul d a b g) g true false (fpBin d a b fun _ x y => numMul x y) s)

/-- R111: FFMA, X[A] * X[B] + X[D] rounded once. -/
def execFfma (d a b : BitVec 5) (g : BitVec 3) (s : State) : Host.Outcome State Fault Refusal :=
  .next (scalar (.ffma d a b g) g true false (fun s c =>
    let ra := readX c a
    let rb := readX c b
    let rd := readX c d
    let v := numFma (rmNoSr (fctlRm c.fctl)) (fpIn c ra) (fpIn c rb) (fpIn c rd)
    let r := fpOut c v.1
    fpDone s c d r.1 (v.2 ||| r.2) [ra, rb, rd]) s)

/-- R111: FDIV. -/
def execFdiv (d a b : BitVec 5) (g : BitVec 3) (s : State) : Host.Outcome State Fault Refusal :=
  .next (scalar (.fdiv d a b g) g true false (fpBin d a b fun _ x y => numDiv x y) s)

/-- R111: FSQRT. -/
def execFsqrt (d a : BitVec 5) (g : BitVec 3) (s : State) : Host.Outcome State Fault Refusal :=
  .next (scalar (.fsqrt d a g) g true false (fpCvt d a fun c x =>
    let v := numSqrt (dec32 (fctlFtz c.fctl) (x.setWidth 32))
    let r := fpOut c v.1
    (r.1, v.2 ||| r.2)) s)

/-- R112: FMIN. -/
def execFmin (d a b : BitVec 5) (g : BitVec 3) (s : State) : Host.Outcome State Fault Refusal :=
  .next (scalar (.fmin d a b g) g true false (fpBin d a b fun _ x y => (numMin x y, 0)) s)

/-- R112: FMAX. -/
def execFmax (d a b : BitVec 5) (g : BitVec 3) (s : State) : Host.Outcome State Fault Refusal :=
  .next (scalar (.fmax d a b g) g true false (fpBin d a b fun _ x y => (numMax x y, 0)) s)

/-- R112: FSGN.j. -/
def execFsgnJ (d a b : BitVec 5) (g : BitVec 3) (s : State) : Host.Outcome State Fault Refusal :=
  .next (scalar (.fsgnJ d a b g) g true false (fpSgn d a b fun _ y => y) s)

/-- R112: FSGN.n. -/
def execFsgnN (d a b : BitVec 5) (g : BitVec 3) (s : State) : Host.Outcome State Fault Refusal :=
  .next (scalar (.fsgnN d a b g) g true false (fpSgn d a b fun _ y => !y) s)

/-- R112: FSGN.x. -/
def execFsgnX (d a b : BitVec 5) (g : BitVec 3) (s : State) : Host.Outcome State Fault Refusal :=
  .next (scalar (.fsgnX d a b g) g true false (fpSgn d a b fun x y => x != y) s)

/-- R113: FCMP.eq. -/
def execFcmpEq (d : BitVec 3) (a b : BitVec 5) (g : BitVec 3) (s : State) : Host.Outcome State Fault Refusal :=
  .next (scalar (.fcmpEq d a b g) g true false (fpCmp d a b 0) s)

/-- R113: FCMP.ne. -/
def execFcmpNe (d : BitVec 3) (a b : BitVec 5) (g : BitVec 3) (s : State) : Host.Outcome State Fault Refusal :=
  .next (scalar (.fcmpNe d a b g) g true false (fpCmp d a b 1) s)

/-- R113: FCMP.lt. -/
def execFcmpLt (d : BitVec 3) (a b : BitVec 5) (g : BitVec 3) (s : State) : Host.Outcome State Fault Refusal :=
  .next (scalar (.fcmpLt d a b g) g true false (fpCmp d a b 2) s)

/-- R113: FCMP.ge. -/
def execFcmpGe (d : BitVec 3) (a b : BitVec 5) (g : BitVec 3) (s : State) : Host.Outcome State Fault Refusal :=
  .next (scalar (.fcmpGe d a b g) g true false (fpCmp d a b 3) s)

/-- R114: FCVT.f.i from INT64. -/
def execFcvtFI (d a : BitVec 5) (g : BitVec 3) (s : State) : Host.Outcome State Fault Refusal :=
  .next (scalar (.fcvtFI d a g) g true false (fpCvt d a fun c x => fpOut c (numOfInt false x.toInt 0)) s)

/-- R114: FCVT.f.iu from unsigned 64-bit. -/
def execFcvtFIu (d a : BitVec 5) (g : BitVec 3) (s : State) : Host.Outcome State Fault Refusal :=
  .next (scalar (.fcvtFIu d a g) g true false (fpCvt d a fun c x => fpOut c (numOfInt false (x.toNat : Int) 0)) s)

/-- R114: FCVT.i.f to INT64. -/
def execFcvtIF (d a : BitVec 5) (g : BitVec 3) (s : State) : Host.Outcome State Fault Refusal :=
  .next (scalar (.fcvtIF d a g) g true false (fpCvt d a fun c x =>
    let r := numToInt (rmNoSr (fctlRm c.fctl)) 0 (-(2 ^ 63 : Int)) (2 ^ 63 - 1) (dec32 (fctlFtz c.fctl) (x.setWidth 32))
    (BitVec.ofInt 64 r.1, r.2)) s)

/-- R114: FCVT.iu.f to unsigned 64-bit. -/
def execFcvtIuF (d a : BitVec 5) (g : BitVec 3) (s : State) : Host.Outcome State Fault Refusal :=
  .next (scalar (.fcvtIuF d a g) g true false (fpCvt d a fun c x =>
    let r := numToInt (rmNoSr (fctlRm c.fctl)) 0 0 (2 ^ 64 - 1) (dec32 (fctlFtz c.fctl) (x.setWidth 32))
    (BitVec.ofInt 64 r.1, r.2)) s)

/-- R114: FCVT.f.b, exact; a NaN becomes the canonical NaN (R71, R72). -/
def execFcvtFB (d a : BitVec 5) (g : BitVec 3) (s : State) : Host.Outcome State Fault Refusal :=
  .next (scalar (.fcvtFB d a g) g true false (fpCvt d a fun c x =>
    fpOut c (ffDecode bf16 (fctlFtz c.fctl) (x.toNat % 65536))) s)

/-- R114: FCVT.b.f. -/
def execFcvtBF (d a : BitVec 5) (g : BitVec 3) (s : State) : Host.Outcome State Fault Refusal :=
  .next (scalar (.fcvtBF d a g) g true false (fpCvt d a fun c x =>
    let r := ffRound bf16 (rmNoSr (fctlRm c.fctl)) 0 (fctlFtz c.fctl) (dec32 (fctlFtz c.fctl) (x.setWidth 32))
    (BitVec.ofNat 64 r.1, r.2)) s)

/-- R115: FCLASS; no flag, no trap. -/
def execFclass (d a : BitVec 5) (g : BitVec 3) (s : State) : Host.Outcome State Fault Refusal :=
  .next (scalar (.fclass d a g) g true false (unX d a fun x => fclass32 (x.setWidth 32)) s)

end Sys2Proof.Machine
end

