-- ==== Sys2Proof/Machine/Dispatch.lean ====
section
/-!
DEFINITION. One arm per constructor of Instr: the meaning of each instruction and event.
-/
namespace Sys2Proof.Machine

def exec (i : Instr) (s : State) : Host.Outcome State Fault Refusal :=
  match i with
  | .add d a b g => Sys2Proof.Machine.execAdd d a b g s
  | .sub d a b g => Sys2Proof.Machine.execSub d a b g s
  | .and d a b g => Sys2Proof.Machine.execAnd d a b g s
  | .or d a b g => Sys2Proof.Machine.execOr d a b g s
  | .xor d a b g => Sys2Proof.Machine.execXor d a b g s
  | .andn d a b g => Sys2Proof.Machine.execAndn d a b g s
  | .shl d a b g => Sys2Proof.Machine.execShl d a b g s
  | .shr d a b g => Sys2Proof.Machine.execShr d a b g s
  | .sar d a b g => Sys2Proof.Machine.execSar d a b g s
  | .rol d a b g => Sys2Proof.Machine.execRol d a b g s
  | .min d a b g => Sys2Proof.Machine.execMin d a b g s
  | .max d a b g => Sys2Proof.Machine.execMax d a b g s
  | .minu d a b g => Sys2Proof.Machine.execMinu d a b g s
  | .maxu d a b g => Sys2Proof.Machine.execMaxu d a b g s
  | .clz d a g => Sys2Proof.Machine.execClz d a g s
  | .ctz d a g => Sys2Proof.Machine.execCtz d a g s
  | .popc d a g => Sys2Proof.Machine.execPopc d a g s
  | .sextB d a g => Sys2Proof.Machine.execSextB d a g s
  | .sextH d a g => Sys2Proof.Machine.execSextH d a g s
  | .sextW d a g => Sys2Proof.Machine.execSextW d a g s
  | .zextB d a g => Sys2Proof.Machine.execZextB d a g s
  | .zextH d a g => Sys2Proof.Machine.execZextH d a g s
  | .zextW d a g => Sys2Proof.Machine.execZextW d a g s
  | .shadd1 d a b g => Sys2Proof.Machine.execShadd1 d a b g s
  | .shadd2 d a b g => Sys2Proof.Machine.execShadd2 d a b g s
  | .shadd3 d a b g => Sys2Proof.Machine.execShadd3 d a b g s
  | .shadd4 d a b g => Sys2Proof.Machine.execShadd4 d a b g s
  | .addi d a i0 g => Sys2Proof.Machine.execAddi d a i0 g s
  | .andi d a i0 g => Sys2Proof.Machine.execAndi d a i0 g s
  | .ori d a i0 g => Sys2Proof.Machine.execOri d a i0 g s
  | .xori d a i0 g => Sys2Proof.Machine.execXori d a i0 g s
  | .shli d a s0 g => Sys2Proof.Machine.execShli d a s0 g s
  | .shri d a s0 g => Sys2Proof.Machine.execShri d a s0 g s
  | .sari d a s0 g => Sys2Proof.Machine.execSari d a s0 g s
  | .li d i0 g => Sys2Proof.Machine.execLi d i0 g s
  | .lih d i0 g => Sys2Proof.Machine.execLih d i0 g s
  | .mul d a b g => Sys2Proof.Machine.execMul d a b g s
  | .mulh d a b g => Sys2Proof.Machine.execMulh d a b g s
  | .mulhu d a b g => Sys2Proof.Machine.execMulhu d a b g s
  | .div d a b g => Sys2Proof.Machine.execDiv d a b g s
  | .divu d a b g => Sys2Proof.Machine.execDivu d a b g s
  | .rem d a b g => Sys2Proof.Machine.execRem d a b g s
  | .remu d a b g => Sys2Proof.Machine.execRemu d a b g s
  | .cmp d a b c g => Sys2Proof.Machine.execCmp d a b c g s
  | .cmpi d a c i0 g => Sys2Proof.Machine.execCmpi d a c i0 g s
  | .plog d a b t g => Sys2Proof.Machine.execPlog d a b t g s
  | .pset d a g => Sys2Proof.Machine.execPset d a g s
  | .sel d a b n g => Sys2Proof.Machine.execSel d a b n g s
  | .fadd d a b g => Sys2Proof.Machine.execFadd d a b g s
  | .fsub d a b g => Sys2Proof.Machine.execFsub d a b g s
  | .fmul d a b g => Sys2Proof.Machine.execFmul d a b g s
  | .ffma d a b g => Sys2Proof.Machine.execFfma d a b g s
  | .fdiv d a b g => Sys2Proof.Machine.execFdiv d a b g s
  | .fsqrt d a g => Sys2Proof.Machine.execFsqrt d a g s
  | .fmin d a b g => Sys2Proof.Machine.execFmin d a b g s
  | .fmax d a b g => Sys2Proof.Machine.execFmax d a b g s
  | .fsgnJ d a b g => Sys2Proof.Machine.execFsgnJ d a b g s
  | .fsgnN d a b g => Sys2Proof.Machine.execFsgnN d a b g s
  | .fsgnX d a b g => Sys2Proof.Machine.execFsgnX d a b g s
  | .fcmpEq d a b g => Sys2Proof.Machine.execFcmpEq d a b g s
  | .fcmpNe d a b g => Sys2Proof.Machine.execFcmpNe d a b g s
  | .fcmpLt d a b g => Sys2Proof.Machine.execFcmpLt d a b g s
  | .fcmpGe d a b g => Sys2Proof.Machine.execFcmpGe d a b g s
  | .fcvtFI d a g => Sys2Proof.Machine.execFcvtFI d a g s
  | .fcvtFIu d a g => Sys2Proof.Machine.execFcvtFIu d a g s
  | .fcvtIF d a g => Sys2Proof.Machine.execFcvtIF d a g s
  | .fcvtIuF d a g => Sys2Proof.Machine.execFcvtIuF d a g s
  | .fcvtFB d a g => Sys2Proof.Machine.execFcvtFB d a g s
  | .fcvtBF d a g => Sys2Proof.Machine.execFcvtBF d a g s
  | .fclass d a g => Sys2Proof.Machine.execFclass d a g s
  | .ld d a w o g => Sys2Proof.Machine.execLd d a w o g s
  | .lduB d a o g => Sys2Proof.Machine.execLduB d a o g s
  | .lduH d a o g => Sys2Proof.Machine.execLduH d a o g s
  | .lduW d a o g => Sys2Proof.Machine.execLduW d a o g s
  | .pref l a o g => Sys2Proof.Machine.execPref l a o g s
  | .st d a w o g => Sys2Proof.Machine.execSt d a w o g s
  | .lds d a w o g => Sys2Proof.Machine.execLds d a w o g s
  | .sts d a w o g => Sys2Proof.Machine.execSts d a w o g s
  | .smap d a b g => Sys2Proof.Machine.execSmap d a b g s
  | .sunmap a g => Sys2Proof.Machine.execSunmap a g s
  | .sflush a b g => Sys2Proof.Machine.execSflush a b g s
  | .sinv a b g => Sys2Proof.Machine.execSinv a b g s
  | .ttset d a b t g => Sys2Proof.Machine.execTtset d a b t g s
  | .ttq d t g => Sys2Proof.Machine.execTtq d t g s
  | .twait w t g => Sys2Proof.Machine.execTwait w t g s
  | .tdesc d s0 t g => Sys2Proof.Machine.execTdesc d s0 t g s
  | .amoAdd d a b z g => Sys2Proof.Machine.execAmoAdd d a b z g s
  | .amoAnd d a b z g => Sys2Proof.Machine.execAmoAnd d a b z g s
  | .amoOr d a b z g => Sys2Proof.Machine.execAmoOr d a b z g s
  | .amoXor d a b z g => Sys2Proof.Machine.execAmoXor d a b z g s
  | .amoMin d a b z g => Sys2Proof.Machine.execAmoMin d a b z g s
  | .amoMax d a b z g => Sys2Proof.Machine.execAmoMax d a b z g s
  | .amoMinu d a b z g => Sys2Proof.Machine.execAmoMinu d a b z g s
  | .amoMaxu d a b z g => Sys2Proof.Machine.execAmoMaxu d a b z g s
  | .amoSwap d a b z g => Sys2Proof.Machine.execAmoSwap d a b z g s
  | .cas d a b z g => Sys2Proof.Machine.execCas d a b z g s
  | .afadd d a b g => Sys2Proof.Machine.execAfadd d a b g s
  | .abfadd d a b g => Sys2Proof.Machine.execAbfadd d a b g s
  | .abfsr d a b g => Sys2Proof.Machine.execAbfsr d a b g s
  | .fsetv a b g => Sys2Proof.Machine.execFsetv a b g s
  | .fsetvR a b g => Sys2Proof.Machine.execFsetvR a b g s
  | .fgetv d a g => Sys2Proof.Machine.execFgetv d a g s
  | .ftake d a g => Sys2Proof.Machine.execFtake d a g s
  | .fenceAcq s0 g => Sys2Proof.Machine.execFenceAcq s0 g s
  | .fenceRel s0 g => Sys2Proof.Machine.execFenceRel s0 g s
  | .fenceFull s0 g => Sys2Proof.Machine.execFenceFull s0 g s
  | .fencePub s0 g => Sys2Proof.Machine.execFencePub s0 g s
  | .fencePers g => Sys2Proof.Machine.execFencePers g s
  | .waitv d a g => Sys2Proof.Machine.execWaitv d a g s
  | .rsend a r g => Sys2Proof.Machine.execRsend a r g s
  | .rrecv d r g => Sys2Proof.Machine.execRrecv d r g s
  | .rpoll d r g => Sys2Proof.Machine.execRpoll d r g s
  | .carrive n g => Sys2Proof.Machine.execCarrive n g s
  | .cwait n g => Sys2Proof.Machine.execCwait n g s
  | .pbr t i0 g => Sys2Proof.Machine.execPbr t i0 g s
  | .pbrr t a g => Sys2Proof.Machine.execPbrr t a g s
  | .br t p n g => Sys2Proof.Machine.execBr t p n g s
  | .brl t p n g => Sys2Proof.Machine.execBrl t p n g s
  | .loop t c a g => Sys2Proof.Machine.execLoop t c a g s
  | .loopSwp t c a s0 g => Sys2Proof.Machine.execLoopSwp t c a s0 g s
  | .lbrk c g => Sys2Proof.Machine.execLbrk c g s
  | .enq e a b n g => Sys2Proof.Machine.execEnq e a b n g s
  | .enqs e a b g => Sys2Proof.Machine.execEnqs e a b g s
  | .ebusy e p g => Sys2Proof.Machine.execEbusy e p g s
  | .efence e g => Sys2Proof.Machine.execEfence e g s
  | .estat e d g => Sys2Proof.Machine.execEstat e d g s
  | .lease g => Sys2Proof.Machine.execLease g s
  | .lrel g => Sys2Proof.Machine.execLrel g s
  | .kwait a k g => Sys2Proof.Machine.execKwait a k g s
  | .ksig a k g => Sys2Proof.Machine.execKsig a k g s
  | .kset a k g => Sys2Proof.Machine.execKset a k g s
  | .kread d k g => Sys2Proof.Machine.execKread d k g s
  | .chins p a b q g => Sys2Proof.Machine.execChins p a b q g s
  | .chinsw p a b q g => Sys2Proof.Machine.execChinsw p a b q g s
  | .chtake d a q g => Sys2Proof.Machine.execChtake d a q g s
  | .chdone a q g => Sys2Proof.Machine.execChdone a q g s
  | .chcfg d a b q g => Sys2Proof.Machine.execChcfg d a b q g s
  | .labegin d a g => Sys2Proof.Machine.execLabegin d a g s
  | .lastep d a b g => Sys2Proof.Machine.execLastep d a b g s
  | .laend d g => Sys2Proof.Machine.execLaend d g s
  | .laabort d g => Sys2Proof.Machine.execLaabort d g s
  | .lactl d a b g => Sys2Proof.Machine.execLactl d a b g s
  | .laq d a g => Sys2Proof.Machine.execLaq d a g s
  | .pacq l g => Sys2Proof.Machine.execPacq l g s
  | .prel g => Sys2Proof.Machine.execPrel g s
  | .crr d r g => Sys2Proof.Machine.execCrr d r g s
  | .crw d a r g => Sys2Proof.Machine.execCrw d a r g s
  | .crs d a r g => Sys2Proof.Machine.execCrs d a r g s
  | .crc d a r g => Sys2Proof.Machine.execCrc d a r g s
  | .trap c g => Sys2Proof.Machine.execTrap c g s
  | .tret g => Sys2Proof.Machine.execTret g s
  | .yield g => Sys2Proof.Machine.execYield g s
  | .wfe g => Sys2Proof.Machine.execWfe g s
  | .cancel a l g => Sys2Proof.Machine.execCancel a l g s
  | .lit i0 => Sys2Proof.Machine.execLit i0 s
  | .ext i0 => Sys2Proof.Machine.execExt i0 s
  | .nop => Sys2Proof.Machine.execNop s
  | .dup => Sys2Proof.Machine.execDup s
  | .drop => Sys2Proof.Machine.execDrop s
  | .swap => Sys2Proof.Machine.execSwap s
  | .overW => Sys2Proof.Machine.execOverW s
  | .rot => Sys2Proof.Machine.execRot s
  | .waitk k => Sys2Proof.Machine.execWaitk k s
  | .sigk k => Sys2Proof.Machine.execSigk k s
  | .pred => Sys2Proof.Machine.execPred s
  | .atSlot => Sys2Proof.Machine.execAtSlot s
  | .nsel u v => Sys2Proof.Machine.execNsel u v s
  | .mark m => Sys2Proof.Machine.execMark m s
  | .ldT f => Sys2Proof.Machine.execLdT f s
  | .ldG f => Sys2Proof.Machine.execLdG f s
  | .ldM f => Sys2Proof.Machine.execLdM f s
  | .ldS f => Sys2Proof.Machine.execLdS f s
  | .ldR f => Sys2Proof.Machine.execLdR f s
  | .pf f => Sys2Proof.Machine.execPf f s
  | .stT f => Sys2Proof.Machine.execStT f s
  | .stS f => Sys2Proof.Machine.execStS f s
  | .stCv f => Sys2Proof.Machine.execStCv f s
  | .stZ f => Sys2Proof.Machine.execStZ f s
  | .mma f => Sys2Proof.Machine.execMma f s
  | .mzero f => Sys2Proof.Machine.execMzero f s
  | .mloadc f => Sys2Proof.Machine.execMloadc f s
  | .mdrain f => Sys2Proof.Machine.execMdrain f s
  | .mpark f => Sys2Proof.Machine.execMpark f s
  | .munpark f => Sys2Proof.Machine.execMunpark f s
  | .msyrk f => Sys2Proof.Machine.execMsyrk f s
  | .mflags f => Sys2Proof.Machine.execMflags f s
  | .mchol f => Sys2Proof.Machine.execMchol f s
  | .mlu f => Sys2Proof.Machine.execMlu f s
  | .mtrsm f => Sys2Proof.Machine.execMtrsm f s
  | .mtrinv f => Sys2Proof.Machine.execMtrinv f s
  | .mgqr f => Sys2Proof.Machine.execMgqr f s
  | .mqapply f => Sys2Proof.Machine.execMqapply f s
  | .mperm f => Sys2Proof.Machine.execMperm f s
  | .mdiag f => Sys2Proof.Machine.execMdiag f s
  | .vld f => Sys2Proof.Machine.execVld f s
  | .vst f => Sys2Proof.Machine.execVst f s
  | .vldrb f => Sys2Proof.Machine.execVldrb f s
  | .vshp f => Sys2Proof.Machine.execVshp f s
  | .vadd f => Sys2Proof.Machine.execVadd f s
  | .vsub f => Sys2Proof.Machine.execVsub f s
  | .vmul f => Sys2Proof.Machine.execVmul f s
  | .vfma f => Sys2Proof.Machine.execVfma f s
  | .vdiv f => Sys2Proof.Machine.execVdiv f s
  | .vmin f => Sys2Proof.Machine.execVmin f s
  | .vmax f => Sys2Proof.Machine.execVmax f s
  | .vabs f => Sys2Proof.Machine.execVabs f s
  | .vneg f => Sys2Proof.Machine.execVneg f s
  | .vcmp f => Sys2Proof.Machine.execVcmp f s
  | .vsel f => Sys2Proof.Machine.execVsel f s
  | .vcvt f => Sys2Proof.Machine.execVcvt f s
  | .vred f => Sys2Proof.Machine.execVred f s
  | .vbcast f => Sys2Proof.Machine.execVbcast f s
  | .vtrans f => Sys2Proof.Machine.execVtrans f s
  | .vand f => Sys2Proof.Machine.execVand f s
  | .vor f => Sys2Proof.Machine.execVor f s
  | .vxor f => Sys2Proof.Machine.execVxor f s
  | .vshl f => Sys2Proof.Machine.execVshl f s
  | .vshr f => Sys2Proof.Machine.execVshr f s
  | .vexp f => Sys2Proof.Machine.execVexp f s
  | .vrcp f => Sys2Proof.Machine.execVrcp f s
  | .vrsq f => Sys2Proof.Machine.execVrsq f s
  | .viota f => Sys2Proof.Machine.execViota f s
  | .vclip f => Sys2Proof.Machine.execVclip f s
  | .vscale f => Sys2Proof.Machine.execVscale f s
  | .vpoisq f => Sys2Proof.Machine.execVpoisq f s
  | .vmovs f => Sys2Proof.Machine.execVmovs f s
  | .rmax f => Sys2Proof.Machine.execRmax f s
  | .rexpsum f => Sys2Proof.Machine.execRexpsum f s
  | .rscale f => Sys2Proof.Machine.execRscale f s
  | .rmean f => Sys2Proof.Machine.execRmean f s
  | .rvar f => Sys2Proof.Machine.execRvar f s
  | .rnorm f => Sys2Proof.Machine.execRnorm f s
  | .rmask f => Sys2Proof.Machine.execRmask f s
  | .rttab f => Sys2Proof.Machine.execRttab f s
  | .cpy f => Sys2Proof.Machine.execCpy f s
  | .cpy2 f => Sys2Proof.Machine.execCpy2 f s
  | .cpyt f => Sys2Proof.Machine.execCpyt f s
  | .gath f => Sys2Proof.Machine.execGath f s
  | .scat f => Sys2Proof.Machine.execScat f s
  | .cconv f => Sys2Proof.Machine.execCconv f s
  | .mcast f => Sys2Proof.Machine.execMcast f s
  | .rsts f => Sys2Proof.Machine.execRsts f s
  | .cred f => Sys2Proof.Machine.execCred f s
  | .cfill f => Sys2Proof.Machine.execCfill f s
  | .cchk f => Sys2Proof.Machine.execCchk f s
  | .cchins f => Sys2Proof.Machine.execCchins f s
  | .cwake f => Sys2Proof.Machine.execCwake f s
  | .entryCompletion core eng => Sys2Proof.Machine.execEntryCompletion core eng s
  | .interrupt ctx => Sys2Proof.Machine.execInterrupt ctx s
  | .engineTrapDelivery ctx => Sys2Proof.Machine.execEngineTrapDelivery ctx s
  | .ringSendComplete ctx => Sys2Proof.Machine.execRingSendComplete ctx s
  | .ringReceiveComplete ctx => Sys2Proof.Machine.execRingReceiveComplete ctx s
  | .kwaitRelease ctx => Sys2Proof.Machine.execKwaitRelease ctx s
  | .cwaitRelease ctx => Sys2Proof.Machine.execCwaitRelease ctx s
  | .twaitRelease ctx => Sys2Proof.Machine.execTwaitRelease ctx s
  | .waitvRetest ctx => Sys2Proof.Machine.execWaitvRetest ctx s
  | .futureWaitRelease ctx => Sys2Proof.Machine.execFutureWaitRelease ctx s
  | .fenceComplete ctx => Sys2Proof.Machine.execFenceComplete ctx s
  | .enqSpaceAvailable ctx => Sys2Proof.Machine.execEnqSpaceAvailable ctx s
  | .efenceComplete ctx => Sys2Proof.Machine.execEfenceComplete ctx s
  | .leaseGrant clus => Sys2Proof.Machine.execLeaseGrant clus s
  | .lrelComplete ctx => Sys2Proof.Machine.execLrelComplete ctx s
  | .leaseExhaustion clus => Sys2Proof.Machine.execLeaseExhaustion clus s
  | .leaseRevocation clus => Sys2Proof.Machine.execLeaseRevocation clus s
  | .pacqGrant clus => Sys2Proof.Machine.execPacqGrant clus s
  | .wfeWake ctx => Sys2Proof.Machine.execWfeWake ctx s
  | .chinswRetry ctx => Sys2Proof.Machine.execChinswRetry ctx s
  | .chargeWaitStart core eng => Sys2Proof.Machine.execChargeWaitStart core eng s
  | .bucketRampTick clus => Sys2Proof.Machine.execBucketRampTick clus s
  | .wthreshExpiry ctx => Sys2Proof.Machine.execWthreshExpiry ctx s
  | .budgetExpiry clus => Sys2Proof.Machine.execBudgetExpiry clus s
  | .sliceEnd clus => Sys2Proof.Machine.execSliceEnd clus s
  | .preemptionRequest clus => Sys2Proof.Machine.execPreemptionRequest clus s
  | .preemptionForceStop ctx => Sys2Proof.Machine.execPreemptionForceStop ctx s
  | .preemptionHang core => Sys2Proof.Machine.execPreemptionHang core s
  | .teamSaveComplete clus => Sys2Proof.Machine.execTeamSaveComplete clus s
  | .unitRetire core => Sys2Proof.Machine.execUnitRetire core s
  | .bindStage clus slot w0 => Sys2Proof.Machine.execBindStage clus slot w0 s
  | .bindUnbind clus slot => Sys2Proof.Machine.execBindUnbind clus slot s
  | .slotStart clus => Sys2Proof.Machine.execSlotStart clus s
  | .graphLoad jcb gid desc => Sys2Proof.Machine.execGraphLoad jcb gid desc s
  | .churnBoundDispatch queue core => Sys2Proof.Machine.execChurnBoundDispatch queue core s
  | .compensationStart job core => Sys2Proof.Machine.execCompensationStart job core s
  | .compensationEnd core => Sys2Proof.Machine.execCompensationEnd core s
  | .removalRequest core => Sys2Proof.Machine.execRemovalRequest core s
  | .removalRelease core => Sys2Proof.Machine.execRemovalRelease core s
  | .checkerMismatch site tries => Sys2Proof.Machine.execCheckerMismatch site tries s
  | .eccCorrectable site => Sys2Proof.Machine.execEccCorrectable site s
  | .eccUncorrectable site bits => Sys2Proof.Machine.execEccUncorrectable site bits s
  | .arrayVerdict clus bank pass => Sys2Proof.Machine.execArrayVerdict clus bank pass s
  | .selfTest site ref lasting => Sys2Proof.Machine.execSelfTest site ref lasting s
  | .rpctlRecoveryPoint part => Sys2Proof.Machine.execRpctlRecoveryPoint part s
  | .rpctlRollback part => Sys2Proof.Machine.execRpctlRollback part s
  | .rpctlSeal part => Sys2Proof.Machine.execRpctlSeal part s
  | .recoveryRequestEnd part => Sys2Proof.Machine.execRecoveryRequestEnd part s
  | .escapedLogThreshold part => Sys2Proof.Machine.execEscapedLogThreshold part s
  | .tlbiPage die asid => Sys2Proof.Machine.execTlbiPage die asid s
  | .tlbiAsid die asid => Sys2Proof.Machine.execTlbiAsid die asid s
  | .tlbiAll die => Sys2Proof.Machine.execTlbiAll die s
  | .tlbiDone die => Sys2Proof.Machine.execTlbiDone die s
  | .clintWrite clus v => Sys2Proof.Machine.execClintWrite clus v s
  | .clpctlQuiesce clus => Sys2Proof.Machine.execClpctlQuiesce clus s
  | .clpctlRetain clus => Sys2Proof.Machine.execClpctlRetain clus s
  | .clpctlOff clus => Sys2Proof.Machine.execClpctlOff clus s
  | .clpctlRun clus => Sys2Proof.Machine.execClpctlRun clus s
  | .quiescedReached clus => Sys2Proof.Machine.execQuiescedReached clus s
  | .retainedReached clus => Sys2Proof.Machine.execRetainedReached clus s
  | .clretsvSave clus => Sys2Proof.Machine.execClretsvSave clus s
  | .clretsvRestore clus => Sys2Proof.Machine.execClretsvRestore clus s
  | .retentionSaveDone clus => Sys2Proof.Machine.execRetentionSaveDone clus s
  | .clgateWrite clus v => Sys2Proof.Machine.execClgateWrite clus v s
  | .clwakeWrite clus v => Sys2Proof.Machine.execClwakeWrite clus v s
  | .wakeComplete clus => Sys2Proof.Machine.execWakeComplete clus s
  | .clbktWrite clus v => Sys2Proof.Machine.execClbktWrite clus v s
  | .pcapWrite v => Sys2Proof.Machine.execPcapWrite v s
  | .ecntWrap core n => Sys2Proof.Machine.execEcntWrap core n s
  | .registerWrite die off v => Sys2Proof.Machine.execRegisterWrite die off v s
  | .submissionDoorbell tail => Sys2Proof.Machine.execSubmissionDoorbell tail s
  | .completionRingTail jcb tail => Sys2Proof.Machine.execCompletionRingTail jcb tail s
  | .partitionTableWrite part w0 w1 w2 w3 => Sys2Proof.Machine.execPartitionTableWrite part w0 w1 w2 w3 s
  | .safeTierWrite part w0 w1 w2 => Sys2Proof.Machine.execSafeTierWrite part w0 w1 w2 s
  | .readRequest port tag addr count => Sys2Proof.Machine.execReadRequest port tag addr count s
  | .readCompletion port tag stat psn data => Sys2Proof.Machine.execReadCompletion port tag stat psn data s
  | .postedWrite seq addr psn data => Sys2Proof.Machine.execPostedWrite seq addr psn data s
  | .interruptMessage => Sys2Proof.Machine.execInterruptMessage s
  | .durableWrite seq tag addr psn data => Sys2Proof.Machine.execDurableWrite seq tag addr psn data s
  | .durableAcknowledgement port tag stat => Sys2Proof.Machine.execDurableAcknowledgement port tag stat s
  | .linkRetry port => Sys2Proof.Machine.execLinkRetry port s
  | .dieLinkReroute a b => Sys2Proof.Machine.execDieLinkReroute a b s
  | .peerWriteArrival port addr psn data => Sys2Proof.Machine.execPeerWriteArrival port addr psn data s
  | .powerOnReset => Sys2Proof.Machine.execPowerOnReset s
  | .bootImageVerify image signature key => Sys2Proof.Machine.execBootImageVerify image signature key s
  | .crierTakeover => Sys2Proof.Machine.execCrierTakeover s
  | .attestationRequest nonce => Sys2Proof.Machine.execAttestationRequest nonce s
  | .teamRestoreComplete clus => Sys2Proof.Machine.execTeamRestoreComplete clus s
  | .retentionRestoreDone clus => Sys2Proof.Machine.execRetentionRestoreDone clus s
  | .firmwareMeasurement image signature key => Sys2Proof.Machine.execFirmwareMeasurement image signature key s

end Sys2Proof.Machine
end

