-- ==== Sys2Proof/Machine/Fetch.lean ====
section
/-!
DEFINITION. Which move comes next, what a context fetches and an engine takes from its queue, and the checks on an
entry before any word of it takes effect (01 R21; 03 R63-R68; 11 R205, R211, R212, R220; 17 R326-R328, R335).
-/
namespace Sys2Proof.Machine

/-- What a move comes to: an instruction to execute, or a state in which nothing was issued. -/
inductive Todo where
  | idle (s : State)
  | run (i : Instr) (s : State)

/-- An event is a row without an encoding. -/
def isEvent (i : Instr) : Bool :=
  match encode i with
  | .event => true
  | _ => false

/-- A move of an agent that the package has (R1). -/
def moveOk : Move → Bool
  | .ctx c => ctxOk c
  | .eng c _ => coreOk c
  | .event i => isEvent i && WellFormed i
  | .sideband die off => die < 4 && off < 65536 && off % 8 = 0

/-- The next move of the mover outside the model, when the agenda is empty (log 2). -/
def freeMove (n : Nat) : Move :=
  if Config.nextKind n = 0 then .ctx (Config.nextCtx n)
  else if Config.nextKind n = 1 then .eng (Config.nextEng n).1 (Config.nextEng n).2
  else if Config.nextKind n = 2 then .event (Config.nextEvent n)
  else .sideband (Config.nextPage n).1 (Config.nextPage n).2

/-- The trap that a word without a meaning raises (R66). -/
def illegalWord (s : State) (id : CtxId) (w : Word) : State :=
  takeTrap (countIssue s) id cILLOP w (ctxOf s id).pc none

/-- R21: fetch and decode at PC. A marked instruction word is not consumed in R9's sense and runs as it stands (log 47). -/
def fetchCtx (s : State) (id : CtxId) : Todo :=
  let c := ctxOf s id
  match translate s id.core (isSuper c) .fetch c.pc.toNat with
  | .error e => .idle (takeTrap (faulted true s id.core e c.pc.toNat) id e c.pc c.pc none)
  | .ok x =>
    let r := fetchBytes (fillTlb s id.core x.leaf) id.core x.pa 4
    let w := BitVec.ofNat 32 (leNat r.1)
    match decode32 w with
    | .ok i => .run i r.2
    | .error _ => .idle (illegalWord r.2 id (w.setWidth 64))

/-- A trap of an engine is due to a context at its boundary (R326, R327). -/
def engDue (s : State) (id : CtxId) : Bool :=
  atBoundary s id trapsIn && (ctxOf s id).run ≠ .off && (pendingEng s id).isSome

/-- The cluster of a core has power and clock for work (R420). -/
def powered (s : State) (id : CoreId) : Bool := (clusOf s (CoreId.cl id)).power = .run || (clusOf s (CoreId.cl id)).power = .quiesced

/-- R326: THE MOVE OF A CONTEXT: a trap or interrupt that is due, else its wait, else its next instruction. -/
def ctxMove (s0 : State) (id : CtxId) : Todo :=
  let s := { s0 with cur := id }
  if !ctxLive s id || !powered s id.core then .idle s
  else if budgetNow s id then .idle (deliverBudget s id)
  else if engDue s id then .idle (deliverEngine s id)
  else if intrDue s id then .idle (deliverInterrupt s id)
  else if (ctxOf s id).run ≠ .running then .idle s
  else if (ctxOf s id).wait.isSome then .idle (retry (fun _ => true) id s)
  else fetchCtx s id

/-- What the checks on an entry gather: the stack's depth, the neighbours, the tokens consumed and produced. -/
structure Val where
  depth : Nat
  up : BitVec 3
  down : BitVec 3
  took : Nat := 0
  gave : Nat := 0

/-- R64: what a control word needs, and the depth after it. -/
def ctlNeed (k : Nat) : Nat := if k = 5 then 3 else if k = 3 || k = 4 then 2 else if k = 1 || k = 2 || k = 6 || k = 8 || k = 9 then 1 else 0
def ctlPush (k : Nat) : Bool := k = 1 || k = 4
def ctlPop (k : Nat) : Bool := k = 2 || k = 6 || k = 8 || k = 9

/-- R64: the reserved operand bits of a control word. -/
def ctlReserved (k : Nat) (v : BitVec 16) : Bool :=
  if k = 6 || k = 7 then v.extractLsb' 0 5 ≠ 0
  else if k = 10 then v.extractLsb' 0 4 ≠ 0
  else if k = 11 then false
  else v.extractLsb' 0 10 ≠ 0

/-- The lowest subcause that holds. -/
def firstSub (l : List (Nat × Bool)) : Option Nat := (l.find? fun e => e.2).map (·.1)

/-- R68, R211: the checks on a control word: the subcause, or what is gathered after it. -/
def checkControl (e : Eng) (w : BitVec 16) (v : Val) : Except Nat Val :=
  let k := (w.extractLsb' 10 4).toNat
  let up := w.extractLsb' 7 3
  let down := w.extractLsb' 4 3
  let took := v.took + (if k = 6 then 1 else 0)
  let gave := v.gave + (if k = 7 then 1 else 0)
  match firstSub
    [(2, 12 ≤ k || (k = 10 && (up = 6 || down = 6))), (3, ctlReserved k w), (4, ctlPush k && 8 ≤ v.depth),
     (5, v.depth < ctlNeed k), (6, 3 < took || 1 < gave),
     (8, k = 10 && (up.toNat = engCode e || down.toNat = engCode e))] with
  | some n => .error n
  | none =>
    .ok { depth := if ctlPush k then v.depth + 1 else if ctlPop k then v.depth - 1 else v.depth
          up := if k = 10 then up else v.up
          down := if k = 10 then down else v.down
          took := took
          gave := gave }

/-- R68, R211, R220: the checks on a launch word; `full` when the window holds 64 entries. -/
def checkLaunch (e : Eng) (w : BitVec 16) (full : Bool) (v : Val) : Except Nat Val :=
  let f := w.extractLsb' 1 6
  let b (x : Bool) : Nat := if x then 1 else 0
  let sp := specOf e (w.extractLsb' 7 7).toNat
  match firstSub
    [(1, sp.isNone), (3, w.getLsbD 0), (5, match sp with | some x => v.depth < x.2.pops | none => false),
     (6, 3 < v.took + b (lfPu f) + b (lfPd f) || 1 < v.gave + b (lfSu f) + b (lfSd f)),
     (7, ((lfPu f || lfSu f) && v.up = 7) || ((lfPd f || lfSd f) && v.down = 7)),
     (9, full && !lfTs f)] with
  | some n => .error n
  | none => .ok v

/-- R68, R211: the checks on one word. -/
def checkWord (e : Eng) (full : Bool) (w : BitVec 16) (v : Val) : Except Nat Val :=
  let c := (w.extractLsb' 14 2).toNat
  if c = 3 then (if 8 ≤ v.depth then .error 4 else .ok { v with depth := v.depth + 1 })
  else if c = 2 then (if v.depth = 0 then .error 5 else .ok v)
  else if c = 0 then checkControl e w v
  else checkLaunch e w full v

/-- R212: VALIDATE the entry at the head, in word order through its launch word: the TVAL of the first failing
word (R68). -/
def validate (e : Eng) (full : Bool) : Nat → List QWord → Val → Option Word
  | _, [], _ => none
  | pos, q :: t, v =>
    match checkWord e full q.w v with
    | .error n => some (engTval q.w pos n)
    | .ok v1 => if isLaunch q.w then none else validate e full (pos + 1) t v1

/-- The words of the entry at the head of a queue, its launch word the last. -/
def headWords : List QWord → List QWord
  | [] => []
  | q :: t => if isLaunch q.w then [q] else q :: headWords t

/-- R205: the address of a marked script word of the head entry. -/
def markedWord (q : Queue) : Option Word := (headWords q.words).findSome? (·.poisonAt)

/-- R205, R345: the entry at the head stops at a word that carries a mark, and was at an address of a script or has none. -/
def stopAtMark (s : State) (id : CoreId) (e : Eng) (a : Word) : State :=
  stopHead (logEntryPoison s id e (queueOf s id e).headIdx (vaPa s id a.toNat) a) id e cPOISON (a ||| 0x8000000000000000#64) .fresh

/-- R205, R212: an entry that may not begin: the state in which its queue has stopped. -/
def refuseEntry (s : State) (id : CoreId) (e : Eng) : Option State :=
  let q := queueOf s id e
  match markedWord q with
  | some a => some (stopAtMark s id e a)
  | none =>
    match validate e (64 ≤ q.window.length) 0 q.words
        { depth := q.set.stack.length, up := q.set.up, down := q.set.down } with
    | some v => some (stopHead s id e cENGERR v .fresh)
    | none => none

/-- R135, R174: the launch at the head gives way to another engine of its core; the place of its wait on a semaphore stands. -/
def giveWay (s : State) (id : CoreId) (e : Eng) : State :=
  let q := queueOf s id e
  let rank : Bool := q.waitTicket = 0 && !q.waitks.isEmpty
  setQueue (if rank then { s with ticket := s.ticket + 1 } else s) id e
    { q with waiting := true, waitTicket := if rank then s.ticket + 1 else q.waitTicket }

/-- R212: the next word of the head entry. -/
def nextWord (s : State) (id : CoreId) (e : Eng) : Todo :=
  let q := queueOf s id e
  match q.words[q.pos]? with
  | none => .idle s
  | some x =>
    match x.poisonAt with
    | some a => .idle (stopAtMark s id e a)
    | none =>
    if isLaunch x.w && (engSemAhead s id e || engTileAhead s id e) then .idle (giveWay s id e)
    else match decode16 e x.w with
    | .ok i => .run i s
    | .error _ => .idle s

/-- R326, R335, R338, R340, R420: an engine moves: no trap has stopped it, and its core works. -/
def engWorks (s : State) (id : CoreId) (e : Eng) : Bool :=
  (queueOf s id e).stop.isNone && (coreOf s id).removal.isNone && powered s id &&
    (match teamOf s id with | some t => !t.restoring | none => true)

/-- R212: the entry at the head is checked at its first word, once no launch runs before it; its words may run behind a running
launch, but not while pieces of that launch's effect are still to come (DESIGN CHOICE, log 149). -/
def engHead (s : State) (id : CoreId) (e : Eng) : Todo :=
  let q := queueOf s id e
  if q.pos ≠ 0 then nextWord s id e
  else
    let s1 := modQueue s id e beginEntry
    match refuseEntry s1 id e with
    | some t => .idle (if q.running.isEmpty then t else s)
    | none => nextWord s1 id e

/-- R174: an engine word that would start now on the tile that a TTSET names starts before it. -/
def beforeTtset (i : Instr) (s : State) : State :=
  match i with
  | .ttset _ _ _ t _ =>
    let id := s.cur.core
    allEngs.foldl (fun s e =>
      if engWorks s id e && !preempting s id && wouldStart s id e &&
          (headTiles s id e).any fun a => coreKey a.1 = coreKey id && a.2.1 = t
      then runHead s id e else s) s
  | _ => s

/-- R212, R335: THE MOVE OF AN ENGINE: the entry it is inside of goes on, or the next word of the entry at its head runs. -/
def engMove (s0 : State) (id : CoreId) (e : Eng) : Todo :=
  let s := { s0 with cur := ⟨id, feederOf e⟩, curEng := e }
  let q := queueOf s id e
  if !engWorks s id e then .idle s
  else if replaying q then .idle (if e = .mx then redoWindow s id else redoEngine s id e)
  else match q.entry with
  | some en => .idle (runLaunch s id e en.opc.toNat en.lf)
  | none => if preempting s id || !q.words.any (fun w => isLaunch w.w) then .idle s else engHead s id e

/-- R396: the sideband reads a register of a system page; the value goes to the host (DEDUCED, log 151: such a read has no row of
its own, and changes nothing). -/
def sidebandRead (s : State) (die off : Nat) : State := emit s (.sideband die off (sysRead s die off))

/-- What a move comes to. -/
def todo (s : State) : Move → Todo
  | .ctx c => match ctxMove s c with
    | .run i t => .run i (beforeTtset i t)
    | .idle t => .idle t
  | .eng c e => engMove s c e
  | .event i => .run i s
  | .sideband die off => .idle (sidebandRead s die off)

/-- The next move, if one is chosen, and the state past its choice: the head of the agenda, or the outside mover's. An agenda
that names what the package does not have gives none; a choice of the outside mover that does is no move. -/
def nextMove (s : State) : Option (Option Move × State) :=
  match s.agenda with
  | m :: t => if moveOk m then some (some m, { s with agenda := t }) else none
  | [] =>
    let m := freeMove s.tick
    some (if moveOk m then some m else none, { s with tick := s.tick + 1 })

end Sys2Proof.Machine
end

