-- ==== Sys2Proof/Machine/Program.lean ====
section
/-!
DEFINITION. A table word given to the decoder, and a state in which the next move fetches it (03 R55, R63; 07 R154-R156).
-/
namespace Sys2Proof.Machine

/-- Where withFetchWord puts a text word, its translation root and the table below it (log 48). -/
def textVa : Nat := 0x10000
def textRoot : Nat := 0x20000000
def textTable : Nat := 0x20200000

/-- R155: an entry that maps the first GiB to itself: coherent, all permissions, dirty. -/
def textLeaf : Nat := 0x1FB

/-- A 32-bit word where the current context fetches next. -/
def placeText (s : State) (w : Nat) : State :=
  let s1 := physPut (physPut (physPut s textRoot 8 (textTable + 1)) textTable 8 textLeaf) textVa 4 w
  let id := s.cur
  let s2 := modClus s1 (CoreId.cl id.core) fun cl =>
    { cl with
      power := .run
      team := some { cl.team.getD {} with root := textRoot, restoring := false, preempt := none }
      tlb := []
      wbuf := mset {} cl.wbuf (textVa / 128) {} }
  let s3 := modCore (modDie s2 id.core.die fun d => { d with walks := [] }) id.core fun c =>
    { c with
      unit := some (c.unit.getD {})
      removal := none
      tlb := []
      l1 := mset {} c.l1 (textVa / 128) {} }
  let s4 := allEngs.foldl (fun s e => if feederOf e = id.kind then modQueue s id.core e fun q => { q with stop := none } else s) s3
  let s5 := modCtx s4 id fun c =>
    { c with
      run := .running
      pc := BitVec.ofNat 64 textVa
      tstat := c.tstat &&& ~~~0x20#64
      wait := none
      held := false
      budgetDue := false }
  { s5 with agenda := .ctx id :: s.agenda }

/-- An engine word at the head of a vector queue with operands for it, closed by a launch word unless it is one. -/
def placeWord (s : State) (w : BitVec 16) : State :=
  let id := s.cur.core
  let mk (v : BitVec 16) : QWord := { w := v, modes := {} }
  let s1 := modClus s (CoreId.cl id) fun cl =>
    { cl with
      power := .run
      team := cl.team.map fun t => { t with restoring := false, preempt := none } }
  let s2 := modCore s1 id fun c => { c with unit := some (c.unit.getD {}), removal := none }
  let s3 := modQueue s2 id .vx fun q =>
    let set : EngSet := { q.set with stack := List.replicate (if isLaunch w then 7 else 3) 0, marks := 0 }
    { q with
      words := mk w :: (if isLaunch w then [] else [mk 0x4180])
      set := set
      set0 := set
      pos := 0
      slot := none
      waitks := []
      wordAt := (0, 0)
      lastEnd := 0
      mismatch := false
      stop := none
      entry := none
      running := []
      window := []
      redo := false }
  { s3 with agenda := .eng id .vx :: s.agenda }

/-- A table word of 32 or 16 bits placed where it is fetched next. -/
def placeTableWord (s : State) (nbits w : Nat) : State :=
  if nbits = 32 then placeText s (w % 2 ^ 32)
  else if nbits = 16 then placeWord s (BitVec.ofNat 16 w)
  else s

end Sys2Proof.Machine
end

