-- ==== Sys2Proof/Machine/Time.lean ====
section
/-!
DEFINITION. What the passing of cycles does: completions and timed starts at their cycles, CYC, budgets, the charge bucket, counters
of cycles, accounts, and rows and window pieces that land; and the order of the moves of one cycle (01 R19, R24, R26; 06 R128, R130,
R135; 07 R174; 08 R179, R189, R190; 11 R212, R214, R218, R223, R224; 12 R255, R256; 21 R376, R378; 24 R413, R414, R422).
-/
namespace Sys2Proof.Machine

/-- R376: REM counts down while the team runs, not while it is saved or restored; at 0 the expiry is due. -/
def countDown (saving : Bool) (t : Team) : Team :=
  if t.restoring || saving || t.rem = 0 then t
  else if t.rem = 1 then { t with rem := 0, budgeted := true }
  else { t with rem := t.rem - 1 }

/-- R335, R338: every core of the team of a cluster has stopped for a pre-emption: the team is being saved. -/
def savingTeam (s : State) (c : ClusId) (t : Team) : Bool :=
  t.preempt.isSome && (teamRanks t).all fun r => coreStopped (coreOf s (coreAt c r))

/-- R413: what the entries of a queue that run draw in a cycle: those whose effect is complete, and the one in progress unless a trap
has stopped it. -/
def queueDraw (t : Nat) (q : Queue) : Nat :=
  (q.running.map fun r => if r.startAt ≤ t && t < r.doneAt then r.draws[t - r.startAt]?.getD r.weight else 0).sum +
    (match q.entry with | some en => if q.stop.isNone && en.startAt ≤ t then en.weight else 0 | none => 0)

/-- R413, R417: what a core draws in a cycle; one in a power region draws on its reservation. -/
def drawAt (t : Nat) (c : Core) : Nat :=
  if c.plevel ≠ 0 then 0 else (allEngs.map fun e => queueDraw t (queueIn e c)).sum

/-- R414: the level of the bucket after the cycle t. -/
def fillBucket (s : State) (c : ClusId) (t : Nat) (b : Int) : Int :=
  let drawn := ((List.range 4).map fun r => drawAt t (coreOf s (coreAt c r))).sum
  let x : Int := b + (clusOf s c).rate.toNat - drawn
  if 4096 < x then 4096 else x

/-- R414: the step of the rate that is due at a cycle. -/
def rampNow (t : Nat) (cl : Cluster) : Cluster :=
  if cl.ramp = 0 || t < cl.rampAt + cl.ramp.toNat then cl else { rateStep cl with rampAt := cl.rampAt + cl.ramp.toNat }

/-- R189, R190: the pieces whose cycle has come; one of the present cycle lands again after what else the cycle
writes. -/
def landPieces (s : State) (c : ClusId) : State :=
  let ps := (clusOf s c).mcPieces
  if ps.isEmpty then s
  else
    let s1 := (ps.filter fun p => p.cycle ≤ s.cyc.toNat).foldl (landPiece c) s
    modClus s1 c fun cl => { cl with mcPieces := ps.filter fun p => s.cyc.toNat ≤ p.cycle }

/-- R179: what stands in the write buffer of a cluster's network reaches the home slices at some cycle. -/
def drainSome (s : State) (c : ClusId) : State :=
  if (clusOf s c).wbuf.isEmpty then s
  else
    let f := freeBool s
    if f.1 then flushBuf f.2 (coreAt c 0) else f.2

/-- R376, R378, R414, R189: one cycle of a cluster, that which has just ended. -/
def passClus (t : Nat) (s : State) (c : ClusId) : State :=
  let cl := clusOf s c
  let s1 := modClus s c fun x =>
    rampNow (t + 1) { x with team := x.team.map fun m => countDown (savingTeam s c m) m, level := fillBucket s c t x.level }
  let s2 := match cl.team with
    | none => s1
    | some m => charge s1 c.die m.acct.toNat 0 1
  drainSome (landPieces s2 c) c

/-- R422: the entries of a core that wait on charge. -/
def chargeWaits (c : Core) : Nat := (allEngs.filter fun e => (queueIn e c).charge.isSome).length

/-- R422: the contexts of a core in a waiting PACQ. -/
def pacqWaits (c : Core) : Nat :=
  (allKinds.filter fun k => match (ctxIn k c).wait with | some v => (match v.what with | .pacq _ => true | _ => false) | none => false).length

/-- R256: the array works for no word of a core in a cycle. -/
def arrayIdle (t : Nat) (c : Core) : Bool :=
  c.qMx.entry.isNone && c.qMx.running.all fun r => t < r.startAt || r.doneAt ≤ t

/-- R422: one cycle in the counters of a core, and the rows of its result buffer that land (R255). -/
def passCore (t : Nat) (s : State) (id : CoreId) : State :=
  let c := coreOf s id
  let s0 := if c.landings.isEmpty then s else modCore s id (landed (badBanks s id) s.cyc.toNat)
  if c.esel.isEmpty then s0
  else
    let su := isSuper c.ctxX
    let s1 := count s0 id 0x01 1 su
    let s2 := if c.plevel ≠ 0 then count s1 id 0x70 1 su else s1
    let s3 := if holdsLease s id && arrayIdle t c then count s2 id 0x53 1 su else s2
    count (count s3 id 0x71 (chargeWaits c) su) id 0x72 (pacqWaits c) su

/-- R422: one cycle in the counters of a cluster and of a die. How many pieces and flits move is open (log 6). -/
def countCluster (s : State) (c : ClusId) : State :=
  if (clusOf s c).esel.isEmpty then s
  else
    let s1 := countClus s c 0x01 1
    let s2 := if (clusOf s c).level < 0 then countClus s1 c 0x80 1 else s1
    countClus { s2 with tick := s.tick + 1 } c 0x82 (Config.freeLines s.tick)

def countDies (s : State) (die : Nat) : State :=
  if (dieOf s die).esel.isEmpty then s
  else countDie { countDie s die 0x01 1 with tick := s.tick + 1 } die 0x94 (Config.freeLines s.tick)

/-- The cores and the clusters of which something is on record. -/
def listedCores (s : State) : List CoreId := s.cores.map fun e => coreOfKey e.1
def listedClus (s : State) : List ClusId := s.clusters.map fun e => clusOfKey e.1

/-- R212, R218: at the end of a cycle the entries complete whose completion has come, after what the contexts do in it. -/
def completeCore (s : State) (id : CoreId) : State := allEngs.foldl (fun s e => tryComplete s id e) s

/-- R173, R233: in the cycle in which an entry completes its tiles change first, so that a word which waits on one starts in it. -/
def completeTiles (s : State) (id : CoreId) : State :=
  allEngs.foldl (fun s e =>
    match (queueOf s id e).running with
    | r :: t =>
      if !r.tiles.isEmpty && canComplete s id e r then
        modQueue (tilesDo tileEnd (edgeOut s id e r) r.tiles) id e fun q => { q with running := { r with tiles := [] } :: t }
      else s
    | [] => s) s

/-- R223, R224: the slot of the timed launch at the head of a queue is this cycle. -/
def slotNow (s : State) (id : CoreId) (e : Eng) : Bool :=
  let q := queueOf s id e
  match q.slot, (clusOf s (CoreId.cl id)).region, q.words[q.pos]? with
  | some c, some b, some w => isLaunch w.w && !q.untimed && q.entry.isNone && !q.redo && decide (b + (c.toNat : Int) = (s.cyc.toNat : Int))
  | _, _, _ => false

/-- R223: the timed launches of a core whose slot has come start, first in the cycle, in ascending engine code (R174). -/
def startSlots (s : State) (id : CoreId) : State :=
  allEngs.foldl (fun s e =>
    if slotNow s id e && engWorks s id e && !preempting s id && !engSemAhead s id e then runHead s id e else s) s

/-- R179, R407: the host and the peers acknowledge writes at some cycle (DEDUCED, log 173). -/
def takeAcks (s : State) : State :=
  if s.pkg.link.unacked.isEmpty then s
  else modPkg { s with tick := s.tick + 17 } fun p =>
    { p with link := { p.link with unacked := p.link.unacked.filter fun port => !Config.freeBool (s.tick + port) } }

/-- R410: the Crier starts at some cycle after its image has been verified (DEDUCED, log 171). -/
def startCrier (s : State) : State :=
  if s.pkg.bootStage ≠ 1 then s
  else modPkg { s with tick := s.tick + 1 } fun p => { p with bootStage := if Config.freeBool s.tick then 2 else 1 }

/-- R26: ONE CYCLE passes: the end of the present one and the start of the next. -/
def passCycle (s : State) : State :=
  let t := s.cyc.toNat
  let s0 := (listedCores s).foldl completeCore s
  let s1 := { s0 with cyc := s0.cyc + 1 }
  let s2 := (listedClus s1).foldl (passClus t) s1
  let s3 := (listedCores s2).foldl (passCore t) s2
  let s4 := (listedClus s3).foldl countCluster s3
  let s5 := startCrier (takeAcks ((s4.dies.map (·.1)).foldl countDies s4))
  (listedCores s5).foldl startSlots ((listedCores s5).foldl completeTiles s5)

/-- n cycles pass. -/
def passCycles : Nat → State → State
  | 0, s => s
  | n + 1, s => passCycles n (passCycle s)

/-- R26: the cycles that pass after a step, and all they do; then how much the copy engine moves in the next (R300). -/
def passTime (s : State) : State :=
  passCycles (Config.cycles s.tick) { s with tick := s.tick + 2, pace := (Config.freeWord (s.tick + 1)).toNat % 2 ^ 21 }

/-- Whether an event ends the wait of a context, and of which. -/
def waitEvent : Instr → Option CtxId
  | .ringSendComplete c => some c
  | .ringReceiveComplete c => some c
  | .kwaitRelease c => some c
  | .cwaitRelease c => some c
  | .twaitRelease c => some c
  | .waitvRetest c => some c
  | .futureWaitRelease c => some c
  | .fenceComplete c => some c
  | .enqSpaceAvailable c => some c
  | .efenceComplete c => some c
  | .lrelComplete c => some c
  | .wfeWake c => some c
  | .chinswRetry c => some c
  | _ => none

/-- R19: the place of a context in a cycle: slots 0 and 1 are the execute context's. -/
def slotPlace (s : State) (c : CtxId) : Nat :=
  match c.kind with
  | .exec => if (coreOf s c.core).moved = (s.cyc.toNat, 7) then 8 else 7
  | .load => 9
  | .store => 10

/-- The core whose move it is, the place of the move in the order of its cycle, and whether a cycle has room for more than one such:
the engines start their words (R174), the contexts follow by slot (R135), then the words of LD.R (R230) and the completions
(R135, R218). -/
def placeOf (s : State) : Move → Option (CoreId × Nat × Bool)
  | .ctx c => some (c.core, slotPlace s c, false)
  | .eng c e => some (c, if e = .ld && (queueOf s c e).entry.isSome then 11 else 1 + engCode e, true)
  | .event i =>
    match waitEvent i with
    | some c => some (c.core, slotPlace s c, false)
    | none => match i with
      | .entryCompletion c e => some (c, 12 + engCode e, true)
      | _ => none
  | .sideband _ _ => none

/-- R135, R174, R214, R218, R230: A MOVE COMES IN THE ORDER OF ITS CYCLE: where its place has passed, it comes in the next. -/
def align (s : State) (m : Move) : State :=
  match placeOf s m with
  | none => s
  | some (id, p, again) =>
    let q := (coreOf s id).moved
    let late : Bool := q.1 = s.cyc.toNat && (p < q.2 || (p = q.2 && !again))
    let s1 := if late then passCycle s else s
    modCore s1 id fun c => { c with moved := (s1.cyc.toNat, match placeOf s1 m with | some x => x.2.1 | none => p) }

end Sys2Proof.Machine
end

