-- ==== Sys2Proof/Machine/Step.lean ====
section
/-!
DEFINITION. One step of the package: the next move, what it executes, and the cycles that pass.
-/
namespace Sys2Proof.Machine

/-- The outcome of what a move comes to. -/
def runTodo : Todo → Host.Outcome State Fault Refusal
  | .idle s => .next (passTime s)
  | .run i s =>
    match exec i s with
    | .next t => .next (passTime t)
    | .fault f => .fault f
    | .refused r => .refused r

/-- ONE STEP: the next move, in the order of its cycle, and the cycles after it. -/
def step (s : State) : Host.Outcome State Fault Refusal :=
  match nextMove s with
  | none => .fault .noSuchAgent
  | some (none, s1) => .next (passTime s1)
  | some (some m, s1) => runTodo (todo (align s1 m) m)

/-- The state with a table word stored where the next step fetches. -/
def State.withFetchWord (s : State) (nbits w : Nat) : State := placeTableWord s nbits w

end Sys2Proof.Machine
end

