-- ==== Sys2Proof/Laws/Map.lean ====
section
/-!
SUPPORT. The laws of the sparse map: read after write, and that every operation keeps the canonical form.
-/
namespace Sys2Proof.Machine

variable {α : Type}

theorem mget_mdrop_same (d : α) (m : SMap α) (n : Nat) : mget d (mdrop m n) n = d := by
  induction m with
  | nil => rfl
  | cons e t ih =>
    obtain ⟨k, v⟩ := e
    by_cases h : n = k <;> simp [mdrop, mget, h] <;> simpa [h] using ih

theorem mget_mdrop_other (d : α) (m : SMap α) {n k : Nat} (h : k ≠ n) : mget d (mdrop m n) k = mget d m k := by
  induction m with
  | nil => rfl
  | cons e t ih =>
    obtain ⟨j, v⟩ := e
    by_cases h1 : n = j
    · subst h1; simp [mdrop, mget, h, ih]
    · by_cases h2 : k = j <;> simp [mdrop, mget, h1, h2, ih]

variable [DecidableEq α]

/-- A read after a write to the same key. -/
@[simp] theorem mget_mset_same (d : α) (m : SMap α) (n : Nat) (v : α) : mget d (mset d m n v) n = v := by
  induction m with
  | nil => by_cases h : v = d <;> simp [mset, mget, h]
  | cons e t ih =>
    obtain ⟨k, w⟩ := e
    by_cases h1 : n < k
    · by_cases h : v = d
      · subst h; simp [mset, h1, mget, Nat.ne_of_lt h1, mget_mdrop_same]
      · simp [mset, h1, h, mget]
    · by_cases h2 : n = k
      · by_cases h : v = d
        · subst h; simp [mset, h2, mget_mdrop_same]
        · simp [mset, h2, h, mget]
      · simp [mset, h1, h2, mget, ih]

/-- A write leaves every other key alone. -/
theorem mget_mset_other (d : α) (m : SMap α) {n k : Nat} (v : α) (h : k ≠ n) : mget d (mset d m n v) k = mget d m k := by
  induction m with
  | nil => by_cases hv : v = d <;> simp [mset, mget, h, hv]
  | cons e t ih =>
    obtain ⟨j, w⟩ := e
    by_cases h1 : n < j
    · by_cases hv : v = d
      · by_cases h2 : k = j <;> simp [mset, h1, hv, mget, h2, mget_mdrop_other d t h]
      · by_cases h2 : k = j <;> simp [mset, h1, hv, mget, h]
    · by_cases h2 : n = j
      · subst h2
        by_cases hv : v = d <;> simp [mset, mget, h, hv, mget_mdrop_other d t h]
      · by_cases h3 : k = j <;> simp [mset, h1, h2, mget, h3, ih]

theorem mget_mset (d : α) (m : SMap α) (n k : Nat) (v : α) :
    mget d (mset d m n v) k = if k = n then v else mget d m k := by
  by_cases h : k = n
  · subst h; simp
  · simp [h, mget_mset_other d m v h]

/-- The entries of a canonical map above a bound. -/
theorem mwfFrom_mono (d : α) {m : SMap α} {lo hi : Nat} (h : mwfFrom d (some hi) m = true) (le : lo ≤ hi) :
    mwfFrom d (some lo) m = true := by
  cases m with
  | nil => rfl
  | cons e t => obtain ⟨k, v⟩ := e; simp [mwfFrom] at *; exact ⟨⟨by omega, h.1.2⟩, h.2⟩

theorem mwfFrom_none (d : α) {m : SMap α} {hi : Nat} (h : mwfFrom d (some hi) m = true) : mwfFrom d none m = true := by
  cases m with
  | nil => rfl
  | cons e t => obtain ⟨k, v⟩ := e; simp [mwfFrom] at *; exact ⟨h.1.2, h.2⟩

theorem mdrop_above (d : α) {m : SMap α} {lo n : Nat} (h : mwfFrom d (some lo) m = true) (le : n ≤ lo) : mdrop m n = m := by
  induction m generalizing lo with
  | nil => rfl
  | cons e t ih =>
    obtain ⟨k, v⟩ := e
    simp [mwfFrom] at h
    have hk : n ≠ k := by omega
    simp [mdrop, hk, ih (lo := k) h.2 (by omega)]

theorem mwfFrom_mset (d : α) {m : SMap α} (n : Nat) (v : α) {lo : Option Nat} (h : mwfFrom d lo m = true)
    (hl : ∀ l, lo = some l → l < n) : mwfFrom d lo (mset d m n v) = true := by
  induction m generalizing lo with
  | nil =>
    by_cases hv : v = d
    · simp [mset, hv, mwfFrom]
    · cases lo with
      | none => simp [mset, hv, mwfFrom]
      | some l => simp [mset, hv, mwfFrom, hl l rfl]
  | cons e t ih =>
    obtain ⟨k, w⟩ := e
    have hw : w ≠ d := by cases lo <;> simp_all [mwfFrom]
    have ht : mwfFrom d (some k) t = true := by cases lo <;> simp_all [mwfFrom]
    have hlk : ∀ l, lo = some l → l < k := by intro l e; subst e; simp [mwfFrom] at h; exact h.1.1
    have head (x : α) (j : Nat) (t' : SMap α) (hx : x ≠ d) (hj : ∀ l, lo = some l → l < j)
        (h' : mwfFrom d (some j) t' = true) : mwfFrom d lo ((j, x) :: t') = true := by
      cases lo with
      | none => simp [mwfFrom, hx, h']
      | some l => simp [mwfFrom, hx, h', hj l rfl]
    by_cases h1 : n < k
    · by_cases hv : v = d
      · simp only [mset, h1, hv, if_true]
        rw [mdrop_above d ht (by omega)]
        exact head w k t hw hlk ht
      · simp only [mset, h1, hv, if_true, if_false]
        exact head v n _ hv hl (by simp [mwfFrom, hw, ht, h1])
    · by_cases h2 : n = k
      · subst h2
        by_cases hv : v = d
        · simp only [mset, hv, Nat.lt_irrefl, if_false, if_true]
          rw [mdrop_above d ht (by omega)]
          cases lo with
          | none => exact mwfFrom_none d ht
          | some l => exact mwfFrom_mono d ht (by have := hlk l rfl; omega)
        · simp only [mset, hv, Nat.lt_irrefl, if_false, if_true]
          exact head v n t hv hl ht
      · simp only [mset, h1, h2, if_false]
        exact head w k _ hw hlk (ih ht (by intro l e; cases e; omega))

/-- A write keeps the canonical form. -/
theorem mwf_mset (d : α) {m : SMap α} (n : Nat) (v : α) (h : mwf d m = true) : mwf d (mset d m n v) = true :=
  mwfFrom_mset d n v h (by simp)

/-- Keeping some entries keeps the canonical form. -/
theorem mwfFrom_filter (d : α) (p : Nat × α → Bool) {m : SMap α} {lo : Option Nat} (h : mwfFrom d lo m = true) :
    mwfFrom d lo (m.filter p) = true := by
  induction m generalizing lo with
  | nil => rfl
  | cons e t ih =>
    obtain ⟨k, w⟩ := e
    have ht : mwfFrom d (some k) t = true := by cases lo <;> simp_all [mwfFrom]
    by_cases hp : p (k, w) = true
    · rw [List.filter_cons_of_pos hp]
      cases lo <;> simp_all [mwfFrom]
    · rw [List.filter_cons_of_neg hp]
      cases lo with
      | none => exact mwfFrom_none d (ih ht)
      | some l =>
        have hl : l < k := by simp [mwfFrom] at h; exact h.1.1
        exact mwfFrom_mono d (ih ht) (by omega)

theorem mwf_mslice (d : α) {m : SMap α} (lo n : Nat) (h : mwf d m = true) : mwf d (mslice m lo n) = true :=
  mwfFrom_filter d _ h

theorem mwf_mclear (d : α) {m : SMap α} (lo n : Nat) (h : mwf d m = true) : mwf d (mclear m lo n) = true :=
  mwfFrom_filter d _ h

theorem mwf_mmod (d : α) {m : SMap α} (n : Nat) (f : α → α) (h : mwf d m = true) : mwf d (mmod d m n f) = true :=
  mwf_mset d n _ h

end Sys2Proof.Machine
end

