-- ==== Sys2Proof/Laws/State.lean ====
section
/-!
SUPPORT. The updates of the state, field by field: what each leaves alone.
-/
namespace Sys2Proof.Machine

@[simp] theorem setCore_cyc (s : State) (c : CoreId) (v : Core) : (setCore s c v).cyc = s.cyc := rfl
@[simp] theorem setCore_tick (s : State) (c : CoreId) (v : Core) : (setCore s c v).tick = s.tick := rfl
@[simp] theorem setCore_pace (s : State) (c : CoreId) (v : Core) : (setCore s c v).pace = s.pace := rfl
@[simp] theorem setCore_ticket (s : State) (c : CoreId) (v : Core) : (setCore s c v).ticket = s.ticket := rfl
@[simp] theorem setCore_agenda (s : State) (c : CoreId) (v : Core) : (setCore s c v).agenda = s.agenda := rfl
@[simp] theorem setCore_cur (s : State) (c : CoreId) (v : Core) : (setCore s c v).cur = s.cur := rfl
@[simp] theorem setCore_curEng (s : State) (c : CoreId) (v : Core) : (setCore s c v).curEng = s.curEng := rfl
@[simp] theorem setCore_mem (s : State) (c : CoreId) (v : Core) : (setCore s c v).mem = s.mem := rfl
@[simp] theorem setCore_memPoison (s : State) (c : CoreId) (v : Core) : (setCore s c v).memPoison = s.memPoison := rfl
@[simp] theorem setCore_clusters (s : State) (c : CoreId) (v : Core) : (setCore s c v).clusters = s.clusters := rfl
@[simp] theorem setCore_dies (s : State) (c : CoreId) (v : Core) : (setCore s c v).dies = s.dies := rfl
@[simp] theorem setCore_pkg (s : State) (c : CoreId) (v : Core) : (setCore s c v).pkg = s.pkg := rfl

@[simp] theorem modCore_cyc (s : State) (c : CoreId) (f : Core → Core) : (modCore s c f).cyc = s.cyc := rfl
@[simp] theorem modCore_tick (s : State) (c : CoreId) (f : Core → Core) : (modCore s c f).tick = s.tick := rfl
@[simp] theorem modCore_pace (s : State) (c : CoreId) (f : Core → Core) : (modCore s c f).pace = s.pace := rfl
@[simp] theorem modCore_ticket (s : State) (c : CoreId) (f : Core → Core) : (modCore s c f).ticket = s.ticket := rfl
@[simp] theorem modCore_agenda (s : State) (c : CoreId) (f : Core → Core) : (modCore s c f).agenda = s.agenda := rfl
@[simp] theorem modCore_cur (s : State) (c : CoreId) (f : Core → Core) : (modCore s c f).cur = s.cur := rfl
@[simp] theorem modCore_curEng (s : State) (c : CoreId) (f : Core → Core) : (modCore s c f).curEng = s.curEng := rfl
@[simp] theorem modCore_mem (s : State) (c : CoreId) (f : Core → Core) : (modCore s c f).mem = s.mem := rfl
@[simp] theorem modCore_memPoison (s : State) (c : CoreId) (f : Core → Core) : (modCore s c f).memPoison = s.memPoison := rfl
@[simp] theorem modCore_clusters (s : State) (c : CoreId) (f : Core → Core) : (modCore s c f).clusters = s.clusters := rfl
@[simp] theorem modCore_dies (s : State) (c : CoreId) (f : Core → Core) : (modCore s c f).dies = s.dies := rfl
@[simp] theorem modCore_pkg (s : State) (c : CoreId) (f : Core → Core) : (modCore s c f).pkg = s.pkg := rfl

@[simp] theorem setClus_cyc (s : State) (c : ClusId) (v : Cluster) : (setClus s c v).cyc = s.cyc := rfl
@[simp] theorem setClus_tick (s : State) (c : ClusId) (v : Cluster) : (setClus s c v).tick = s.tick := rfl
@[simp] theorem setClus_pace (s : State) (c : ClusId) (v : Cluster) : (setClus s c v).pace = s.pace := rfl
@[simp] theorem setClus_ticket (s : State) (c : ClusId) (v : Cluster) : (setClus s c v).ticket = s.ticket := rfl
@[simp] theorem setClus_agenda (s : State) (c : ClusId) (v : Cluster) : (setClus s c v).agenda = s.agenda := rfl
@[simp] theorem setClus_cur (s : State) (c : ClusId) (v : Cluster) : (setClus s c v).cur = s.cur := rfl
@[simp] theorem setClus_curEng (s : State) (c : ClusId) (v : Cluster) : (setClus s c v).curEng = s.curEng := rfl
@[simp] theorem setClus_mem (s : State) (c : ClusId) (v : Cluster) : (setClus s c v).mem = s.mem := rfl
@[simp] theorem setClus_memPoison (s : State) (c : ClusId) (v : Cluster) : (setClus s c v).memPoison = s.memPoison := rfl
@[simp] theorem setClus_cores (s : State) (c : ClusId) (v : Cluster) : (setClus s c v).cores = s.cores := rfl
@[simp] theorem setClus_dies (s : State) (c : ClusId) (v : Cluster) : (setClus s c v).dies = s.dies := rfl
@[simp] theorem setClus_pkg (s : State) (c : ClusId) (v : Cluster) : (setClus s c v).pkg = s.pkg := rfl

@[simp] theorem modClus_cyc (s : State) (c : ClusId) (f : Cluster → Cluster) : (modClus s c f).cyc = s.cyc := rfl
@[simp] theorem modClus_tick (s : State) (c : ClusId) (f : Cluster → Cluster) : (modClus s c f).tick = s.tick := rfl
@[simp] theorem modClus_pace (s : State) (c : ClusId) (f : Cluster → Cluster) : (modClus s c f).pace = s.pace := rfl
@[simp] theorem modClus_ticket (s : State) (c : ClusId) (f : Cluster → Cluster) : (modClus s c f).ticket = s.ticket := rfl
@[simp] theorem modClus_agenda (s : State) (c : ClusId) (f : Cluster → Cluster) : (modClus s c f).agenda = s.agenda := rfl
@[simp] theorem modClus_cur (s : State) (c : ClusId) (f : Cluster → Cluster) : (modClus s c f).cur = s.cur := rfl
@[simp] theorem modClus_curEng (s : State) (c : ClusId) (f : Cluster → Cluster) : (modClus s c f).curEng = s.curEng := rfl
@[simp] theorem modClus_mem (s : State) (c : ClusId) (f : Cluster → Cluster) : (modClus s c f).mem = s.mem := rfl
@[simp] theorem modClus_memPoison (s : State) (c : ClusId) (f : Cluster → Cluster) : (modClus s c f).memPoison = s.memPoison := rfl
@[simp] theorem modClus_cores (s : State) (c : ClusId) (f : Cluster → Cluster) : (modClus s c f).cores = s.cores := rfl
@[simp] theorem modClus_dies (s : State) (c : ClusId) (f : Cluster → Cluster) : (modClus s c f).dies = s.dies := rfl
@[simp] theorem modClus_pkg (s : State) (c : ClusId) (f : Cluster → Cluster) : (modClus s c f).pkg = s.pkg := rfl

@[simp] theorem setDie_cyc (s : State) (d : Nat) (v : Die) : (setDie s d v).cyc = s.cyc := rfl
@[simp] theorem setDie_tick (s : State) (d : Nat) (v : Die) : (setDie s d v).tick = s.tick := rfl
@[simp] theorem setDie_pace (s : State) (d : Nat) (v : Die) : (setDie s d v).pace = s.pace := rfl
@[simp] theorem setDie_ticket (s : State) (d : Nat) (v : Die) : (setDie s d v).ticket = s.ticket := rfl
@[simp] theorem setDie_agenda (s : State) (d : Nat) (v : Die) : (setDie s d v).agenda = s.agenda := rfl
@[simp] theorem setDie_cur (s : State) (d : Nat) (v : Die) : (setDie s d v).cur = s.cur := rfl
@[simp] theorem setDie_curEng (s : State) (d : Nat) (v : Die) : (setDie s d v).curEng = s.curEng := rfl
@[simp] theorem setDie_mem (s : State) (d : Nat) (v : Die) : (setDie s d v).mem = s.mem := rfl
@[simp] theorem setDie_memPoison (s : State) (d : Nat) (v : Die) : (setDie s d v).memPoison = s.memPoison := rfl
@[simp] theorem setDie_cores (s : State) (d : Nat) (v : Die) : (setDie s d v).cores = s.cores := rfl
@[simp] theorem setDie_clusters (s : State) (d : Nat) (v : Die) : (setDie s d v).clusters = s.clusters := rfl
@[simp] theorem setDie_pkg (s : State) (d : Nat) (v : Die) : (setDie s d v).pkg = s.pkg := rfl

@[simp] theorem modDie_cyc (s : State) (d : Nat) (f : Die → Die) : (modDie s d f).cyc = s.cyc := rfl
@[simp] theorem modDie_tick (s : State) (d : Nat) (f : Die → Die) : (modDie s d f).tick = s.tick := rfl
@[simp] theorem modDie_pace (s : State) (d : Nat) (f : Die → Die) : (modDie s d f).pace = s.pace := rfl
@[simp] theorem modDie_ticket (s : State) (d : Nat) (f : Die → Die) : (modDie s d f).ticket = s.ticket := rfl
@[simp] theorem modDie_agenda (s : State) (d : Nat) (f : Die → Die) : (modDie s d f).agenda = s.agenda := rfl
@[simp] theorem modDie_cur (s : State) (d : Nat) (f : Die → Die) : (modDie s d f).cur = s.cur := rfl
@[simp] theorem modDie_curEng (s : State) (d : Nat) (f : Die → Die) : (modDie s d f).curEng = s.curEng := rfl
@[simp] theorem modDie_mem (s : State) (d : Nat) (f : Die → Die) : (modDie s d f).mem = s.mem := rfl
@[simp] theorem modDie_memPoison (s : State) (d : Nat) (f : Die → Die) : (modDie s d f).memPoison = s.memPoison := rfl
@[simp] theorem modDie_cores (s : State) (d : Nat) (f : Die → Die) : (modDie s d f).cores = s.cores := rfl
@[simp] theorem modDie_clusters (s : State) (d : Nat) (f : Die → Die) : (modDie s d f).clusters = s.clusters := rfl
@[simp] theorem modDie_pkg (s : State) (d : Nat) (f : Die → Die) : (modDie s d f).pkg = s.pkg := rfl

@[simp] theorem modPkg_cyc (s : State) (f : Package → Package) : (modPkg s f).cyc = s.cyc := rfl
@[simp] theorem modPkg_tick (s : State) (f : Package → Package) : (modPkg s f).tick = s.tick := rfl
@[simp] theorem modPkg_pace (s : State) (f : Package → Package) : (modPkg s f).pace = s.pace := rfl
@[simp] theorem modPkg_ticket (s : State) (f : Package → Package) : (modPkg s f).ticket = s.ticket := rfl
@[simp] theorem modPkg_agenda (s : State) (f : Package → Package) : (modPkg s f).agenda = s.agenda := rfl
@[simp] theorem modPkg_cur (s : State) (f : Package → Package) : (modPkg s f).cur = s.cur := rfl
@[simp] theorem modPkg_curEng (s : State) (f : Package → Package) : (modPkg s f).curEng = s.curEng := rfl
@[simp] theorem modPkg_mem (s : State) (f : Package → Package) : (modPkg s f).mem = s.mem := rfl
@[simp] theorem modPkg_memPoison (s : State) (f : Package → Package) : (modPkg s f).memPoison = s.memPoison := rfl
@[simp] theorem modPkg_cores (s : State) (f : Package → Package) : (modPkg s f).cores = s.cores := rfl
@[simp] theorem modPkg_clusters (s : State) (f : Package → Package) : (modPkg s f).clusters = s.clusters := rfl
@[simp] theorem modPkg_dies (s : State) (f : Package → Package) : (modPkg s f).dies = s.dies := rfl

@[simp] theorem setCtx_cyc (s : State) (i : CtxId) (v : Ctx) : (setCtx s i v).cyc = s.cyc := rfl
@[simp] theorem setCtx_tick (s : State) (i : CtxId) (v : Ctx) : (setCtx s i v).tick = s.tick := rfl
@[simp] theorem setCtx_pace (s : State) (i : CtxId) (v : Ctx) : (setCtx s i v).pace = s.pace := rfl
@[simp] theorem setCtx_ticket (s : State) (i : CtxId) (v : Ctx) : (setCtx s i v).ticket = s.ticket := rfl
@[simp] theorem setCtx_agenda (s : State) (i : CtxId) (v : Ctx) : (setCtx s i v).agenda = s.agenda := rfl
@[simp] theorem setCtx_cur (s : State) (i : CtxId) (v : Ctx) : (setCtx s i v).cur = s.cur := rfl
@[simp] theorem setCtx_curEng (s : State) (i : CtxId) (v : Ctx) : (setCtx s i v).curEng = s.curEng := rfl
@[simp] theorem setCtx_mem (s : State) (i : CtxId) (v : Ctx) : (setCtx s i v).mem = s.mem := rfl
@[simp] theorem setCtx_memPoison (s : State) (i : CtxId) (v : Ctx) : (setCtx s i v).memPoison = s.memPoison := rfl
@[simp] theorem setCtx_clusters (s : State) (i : CtxId) (v : Ctx) : (setCtx s i v).clusters = s.clusters := rfl
@[simp] theorem setCtx_dies (s : State) (i : CtxId) (v : Ctx) : (setCtx s i v).dies = s.dies := rfl
@[simp] theorem setCtx_pkg (s : State) (i : CtxId) (v : Ctx) : (setCtx s i v).pkg = s.pkg := rfl

@[simp] theorem modCtx_cyc (s : State) (i : CtxId) (f : Ctx → Ctx) : (modCtx s i f).cyc = s.cyc := rfl
@[simp] theorem modCtx_tick (s : State) (i : CtxId) (f : Ctx → Ctx) : (modCtx s i f).tick = s.tick := rfl
@[simp] theorem modCtx_pace (s : State) (i : CtxId) (f : Ctx → Ctx) : (modCtx s i f).pace = s.pace := rfl
@[simp] theorem modCtx_ticket (s : State) (i : CtxId) (f : Ctx → Ctx) : (modCtx s i f).ticket = s.ticket := rfl
@[simp] theorem modCtx_agenda (s : State) (i : CtxId) (f : Ctx → Ctx) : (modCtx s i f).agenda = s.agenda := rfl
@[simp] theorem modCtx_cur (s : State) (i : CtxId) (f : Ctx → Ctx) : (modCtx s i f).cur = s.cur := rfl
@[simp] theorem modCtx_curEng (s : State) (i : CtxId) (f : Ctx → Ctx) : (modCtx s i f).curEng = s.curEng := rfl
@[simp] theorem modCtx_mem (s : State) (i : CtxId) (f : Ctx → Ctx) : (modCtx s i f).mem = s.mem := rfl
@[simp] theorem modCtx_memPoison (s : State) (i : CtxId) (f : Ctx → Ctx) : (modCtx s i f).memPoison = s.memPoison := rfl
@[simp] theorem modCtx_clusters (s : State) (i : CtxId) (f : Ctx → Ctx) : (modCtx s i f).clusters = s.clusters := rfl
@[simp] theorem modCtx_dies (s : State) (i : CtxId) (f : Ctx → Ctx) : (modCtx s i f).dies = s.dies := rfl
@[simp] theorem modCtx_pkg (s : State) (i : CtxId) (f : Ctx → Ctx) : (modCtx s i f).pkg = s.pkg := rfl

@[simp] theorem setQueue_cyc (s : State) (c : CoreId) (e : Eng) (q : Queue) : (setQueue s c e q).cyc = s.cyc := rfl
@[simp] theorem setQueue_tick (s : State) (c : CoreId) (e : Eng) (q : Queue) : (setQueue s c e q).tick = s.tick := rfl
@[simp] theorem setQueue_pace (s : State) (c : CoreId) (e : Eng) (q : Queue) : (setQueue s c e q).pace = s.pace := rfl
@[simp] theorem setQueue_ticket (s : State) (c : CoreId) (e : Eng) (q : Queue) : (setQueue s c e q).ticket = s.ticket := rfl
@[simp] theorem setQueue_agenda (s : State) (c : CoreId) (e : Eng) (q : Queue) : (setQueue s c e q).agenda = s.agenda := rfl
@[simp] theorem setQueue_cur (s : State) (c : CoreId) (e : Eng) (q : Queue) : (setQueue s c e q).cur = s.cur := rfl
@[simp] theorem setQueue_curEng (s : State) (c : CoreId) (e : Eng) (q : Queue) : (setQueue s c e q).curEng = s.curEng := rfl
@[simp] theorem setQueue_mem (s : State) (c : CoreId) (e : Eng) (q : Queue) : (setQueue s c e q).mem = s.mem := rfl
@[simp] theorem setQueue_memPoison (s : State) (c : CoreId) (e : Eng) (q : Queue) : (setQueue s c e q).memPoison = s.memPoison := rfl
@[simp] theorem setQueue_clusters (s : State) (c : CoreId) (e : Eng) (q : Queue) : (setQueue s c e q).clusters = s.clusters := rfl
@[simp] theorem setQueue_dies (s : State) (c : CoreId) (e : Eng) (q : Queue) : (setQueue s c e q).dies = s.dies := rfl
@[simp] theorem setQueue_pkg (s : State) (c : CoreId) (e : Eng) (q : Queue) : (setQueue s c e q).pkg = s.pkg := rfl

@[simp] theorem modQueue_cyc (s : State) (c : CoreId) (e : Eng) (f : Queue → Queue) : (modQueue s c e f).cyc = s.cyc := rfl
@[simp] theorem modQueue_tick (s : State) (c : CoreId) (e : Eng) (f : Queue → Queue) : (modQueue s c e f).tick = s.tick := rfl
@[simp] theorem modQueue_pace (s : State) (c : CoreId) (e : Eng) (f : Queue → Queue) : (modQueue s c e f).pace = s.pace := rfl
@[simp] theorem modQueue_ticket (s : State) (c : CoreId) (e : Eng) (f : Queue → Queue) : (modQueue s c e f).ticket = s.ticket := rfl
@[simp] theorem modQueue_agenda (s : State) (c : CoreId) (e : Eng) (f : Queue → Queue) : (modQueue s c e f).agenda = s.agenda := rfl
@[simp] theorem modQueue_cur (s : State) (c : CoreId) (e : Eng) (f : Queue → Queue) : (modQueue s c e f).cur = s.cur := rfl
@[simp] theorem modQueue_curEng (s : State) (c : CoreId) (e : Eng) (f : Queue → Queue) : (modQueue s c e f).curEng = s.curEng := rfl
@[simp] theorem modQueue_mem (s : State) (c : CoreId) (e : Eng) (f : Queue → Queue) : (modQueue s c e f).mem = s.mem := rfl
@[simp] theorem modQueue_memPoison (s : State) (c : CoreId) (e : Eng) (f : Queue → Queue) : (modQueue s c e f).memPoison = s.memPoison := rfl
@[simp] theorem modQueue_clusters (s : State) (c : CoreId) (e : Eng) (f : Queue → Queue) : (modQueue s c e f).clusters = s.clusters := rfl
@[simp] theorem modQueue_dies (s : State) (c : CoreId) (e : Eng) (f : Queue → Queue) : (modQueue s c e f).dies = s.dies := rfl
@[simp] theorem modQueue_pkg (s : State) (c : CoreId) (e : Eng) (f : Queue → Queue) : (modQueue s c e f).pkg = s.pkg := rfl

@[simp] theorem physWrite_cyc (s : State) (a : Nat) (bs : List Byte) (p : Bool) : (physWrite s a bs p).cyc = s.cyc := rfl
@[simp] theorem physWrite_tick (s : State) (a : Nat) (bs : List Byte) (p : Bool) : (physWrite s a bs p).tick = s.tick := rfl
@[simp] theorem physWrite_pace (s : State) (a : Nat) (bs : List Byte) (p : Bool) : (physWrite s a bs p).pace = s.pace := rfl
@[simp] theorem physWrite_ticket (s : State) (a : Nat) (bs : List Byte) (p : Bool) : (physWrite s a bs p).ticket = s.ticket := rfl
@[simp] theorem physWrite_agenda (s : State) (a : Nat) (bs : List Byte) (p : Bool) : (physWrite s a bs p).agenda = s.agenda := rfl
@[simp] theorem physWrite_cur (s : State) (a : Nat) (bs : List Byte) (p : Bool) : (physWrite s a bs p).cur = s.cur := rfl
@[simp] theorem physWrite_curEng (s : State) (a : Nat) (bs : List Byte) (p : Bool) : (physWrite s a bs p).curEng = s.curEng := rfl
@[simp] theorem physWrite_cores (s : State) (a : Nat) (bs : List Byte) (p : Bool) : (physWrite s a bs p).cores = s.cores := rfl
@[simp] theorem physWrite_clusters (s : State) (a : Nat) (bs : List Byte) (p : Bool) : (physWrite s a bs p).clusters = s.clusters := rfl
@[simp] theorem physWrite_dies (s : State) (a : Nat) (bs : List Byte) (p : Bool) : (physWrite s a bs p).dies = s.dies := rfl

@[simp] theorem physPut_cyc (s : State) (a n v : Nat) : (physPut s a n v).cyc = s.cyc := rfl
@[simp] theorem physPut_tick (s : State) (a n v : Nat) : (physPut s a n v).tick = s.tick := rfl
@[simp] theorem physPut_pace (s : State) (a n v : Nat) : (physPut s a n v).pace = s.pace := rfl
@[simp] theorem physPut_ticket (s : State) (a n v : Nat) : (physPut s a n v).ticket = s.ticket := rfl
@[simp] theorem physPut_agenda (s : State) (a n v : Nat) : (physPut s a n v).agenda = s.agenda := rfl
@[simp] theorem physPut_cur (s : State) (a n v : Nat) : (physPut s a n v).cur = s.cur := rfl
@[simp] theorem physPut_curEng (s : State) (a n v : Nat) : (physPut s a n v).curEng = s.curEng := rfl
@[simp] theorem physPut_cores (s : State) (a n v : Nat) : (physPut s a n v).cores = s.cores := rfl
@[simp] theorem physPut_clusters (s : State) (a n v : Nat) : (physPut s a n v).clusters = s.clusters := rfl
@[simp] theorem physPut_dies (s : State) (a n v : Nat) : (physPut s a n v).dies = s.dies := rfl

@[simp] theorem setCtxIn_unit (k : CtxKind) (c : Core) (v : Ctx) : (setCtxIn k c v).unit = c.unit := by cases k <;> rfl
@[simp] theorem setCtxIn_retired (k : CtxKind) (c : Core) (v : Ctx) : (setCtxIn k c v).retired = c.retired := by cases k <;> rfl
@[simp] theorem setCtxIn_rings (k : CtxKind) (c : Core) (v : Ctx) : (setCtxIn k c v).rings = c.rings := by cases k <;> rfl
@[simp] theorem setCtxIn_sems (k : CtxKind) (c : Core) (v : Ctx) : (setCtxIn k c v).sems = c.sems := by cases k <;> rfl
@[simp] theorem setCtxIn_stash (k : CtxKind) (c : Core) (v : Ctx) : (setCtxIn k c v).stash = c.stash := by cases k <;> rfl
@[simp] theorem setCtxIn_stashPoison (k : CtxKind) (c : Core) (v : Ctx) : (setCtxIn k c v).stashPoison = c.stashPoison := by cases k <;> rfl
@[simp] theorem setCtxIn_stashWritten (k : CtxKind) (c : Core) (v : Ctx) : (setCtxIn k c v).stashWritten = c.stashWritten := by cases k <;> rfl
@[simp] theorem setCtxIn_maps (k : CtxKind) (c : Core) (v : Ctx) : (setCtxIn k c v).maps = c.maps := by cases k <;> rfl
@[simp] theorem setCtxIn_l1 (k : CtxKind) (c : Core) (v : Ctx) : (setCtxIn k c v).l1 = c.l1 := by cases k <;> rfl
@[simp] theorem setCtxIn_tlb (k : CtxKind) (c : Core) (v : Ctx) : (setCtxIn k c v).tlb = c.tlb := by cases k <;> rfl
@[simp] theorem setCtxIn_stashPts (k : CtxKind) (c : Core) (v : Ctx) : (setCtxIn k c v).stashPts = c.stashPts := by cases k <;> rfl
@[simp] theorem setCtxIn_engWts (k : CtxKind) (c : Core) (v : Ctx) : (setCtxIn k c v).engWts = c.engWts := by cases k <;> rfl
@[simp] theorem setCtxIn_sigPts (k : CtxKind) (c : Core) (v : Ctx) : (setCtxIn k c v).sigPts = c.sigPts := by cases k <;> rfl
@[simp] theorem setCtxIn_tiles (k : CtxKind) (c : Core) (v : Ctx) : (setCtxIn k c v).tiles = c.tiles := by cases k <;> rfl
@[simp] theorem setCtxIn_qLd (k : CtxKind) (c : Core) (v : Ctx) : (setCtxIn k c v).qLd = c.qLd := by cases k <;> rfl
@[simp] theorem setCtxIn_qSt (k : CtxKind) (c : Core) (v : Ctx) : (setCtxIn k c v).qSt = c.qSt := by cases k <;> rfl
@[simp] theorem setCtxIn_qMx (k : CtxKind) (c : Core) (v : Ctx) : (setCtxIn k c v).qMx = c.qMx := by cases k <;> rfl
@[simp] theorem setCtxIn_qVx (k : CtxKind) (c : Core) (v : Ctx) : (setCtxIn k c v).qVx = c.qVx := by cases k <;> rfl
@[simp] theorem setCtxIn_qRw (k : CtxKind) (c : Core) (v : Ctx) : (setCtxIn k c v).qRw = c.qRw := by cases k <;> rfl
@[simp] theorem setCtxIn_qCp (k : CtxKind) (c : Core) (v : Ctx) : (setCtxIn k c v).qCp = c.qCp := by cases k <;> rfl
@[simp] theorem setCtxIn_fifos (k : CtxKind) (c : Core) (v : Ctx) : (setCtxIn k c v).fifos = c.fifos := by cases k <;> rfl
@[simp] theorem setCtxIn_vec (k : CtxKind) (c : Core) (v : Ctx) : (setCtxIn k c v).vec = c.vec := by cases k <;> rfl
@[simp] theorem setCtxIn_stats (k : CtxKind) (c : Core) (v : Ctx) : (setCtxIn k c v).stats = c.stats := by cases k <;> rfl
@[simp] theorem setCtxIn_slotLen (k : CtxKind) (c : Core) (v : Ctx) : (setCtxIn k c v).slotLen = c.slotLen := by cases k <;> rfl
@[simp] theorem setCtxIn_rbuf (k : CtxKind) (c : Core) (v : Ctx) : (setCtxIn k c v).rbuf = c.rbuf := by cases k <;> rfl
@[simp] theorem setCtxIn_rbufPoison (k : CtxKind) (c : Core) (v : Ctx) : (setCtxIn k c v).rbufPoison = c.rbufPoison := by cases k <;> rfl
@[simp] theorem setCtxIn_landings (k : CtxKind) (c : Core) (v : Ctx) : (setCtxIn k c v).landings = c.landings := by cases k <;> rfl
@[simp] theorem setCtxIn_park (k : CtxKind) (c : Core) (v : Ctx) : (setCtxIn k c v).park = c.park := by cases k <;> rfl
@[simp] theorem setCtxIn_revk (k : CtxKind) (c : Core) (v : Ctx) : (setCtxIn k c v).revk = c.revk := by cases k <;> rfl
@[simp] theorem setCtxIn_leaseDue (k : CtxKind) (c : Core) (v : Ctx) : (setCtxIn k c v).leaseDue = c.leaseDue := by cases k <;> rfl
@[simp] theorem setCtxIn_reask (k : CtxKind) (c : Core) (v : Ctx) : (setCtxIn k c v).reask = c.reask := by cases k <;> rfl
@[simp] theorem setCtxIn_unpark (k : CtxKind) (c : Core) (v : Ctx) : (setCtxIn k c v).unpark = c.unpark := by cases k <;> rfl
@[simp] theorem setCtxIn_moved (k : CtxKind) (c : Core) (v : Ctx) : (setCtxIn k c v).moved = c.moved := by cases k <;> rfl
@[simp] theorem setCtxIn_ringTook (k : CtxKind) (c : Core) (v : Ctx) : (setCtxIn k c v).ringTook = c.ringTook := by cases k <;> rfl
@[simp] theorem setCtxIn_bundleAt (k : CtxKind) (c : Core) (v : Ctx) : (setCtxIn k c v).bundleAt = c.bundleAt := by cases k <;> rfl
@[simp] theorem setCtxIn_shadow (k : CtxKind) (c : Core) (v : Ctx) : (setCtxIn k c v).shadow = c.shadow := by cases k <;> rfl
@[simp] theorem setCtxIn_ecnt (k : CtxKind) (c : Core) (v : Ctx) : (setCtxIn k c v).ecnt = c.ecnt := by cases k <;> rfl
@[simp] theorem setCtxIn_esel (k : CtxKind) (c : Core) (v : Ctx) : (setCtxIn k c v).esel = c.esel := by cases k <;> rfl
@[simp] theorem setCtxIn_plevel (k : CtxKind) (c : Core) (v : Ctx) : (setCtxIn k c v).plevel = c.plevel := by cases k <;> rfl
@[simp] theorem setCtxIn_pdecl (k : CtxKind) (c : Core) (v : Ctx) : (setCtxIn k c v).pdecl = c.pdecl := by cases k <;> rfl
@[simp] theorem setCtxIn_removal (k : CtxKind) (c : Core) (v : Ctx) : (setCtxIn k c v).removal = c.removal := by cases k <;> rfl

@[simp] theorem setQueueIn_unit (e : Eng) (c : Core) (q : Queue) : (setQueueIn e c q).unit = c.unit := by cases e <;> rfl
@[simp] theorem setQueueIn_retired (e : Eng) (c : Core) (q : Queue) : (setQueueIn e c q).retired = c.retired := by cases e <;> rfl
@[simp] theorem setQueueIn_rings (e : Eng) (c : Core) (q : Queue) : (setQueueIn e c q).rings = c.rings := by cases e <;> rfl
@[simp] theorem setQueueIn_sems (e : Eng) (c : Core) (q : Queue) : (setQueueIn e c q).sems = c.sems := by cases e <;> rfl
@[simp] theorem setQueueIn_stash (e : Eng) (c : Core) (q : Queue) : (setQueueIn e c q).stash = c.stash := by cases e <;> rfl
@[simp] theorem setQueueIn_stashPoison (e : Eng) (c : Core) (q : Queue) : (setQueueIn e c q).stashPoison = c.stashPoison := by cases e <;> rfl
@[simp] theorem setQueueIn_stashWritten (e : Eng) (c : Core) (q : Queue) : (setQueueIn e c q).stashWritten = c.stashWritten := by cases e <;> rfl
@[simp] theorem setQueueIn_maps (e : Eng) (c : Core) (q : Queue) : (setQueueIn e c q).maps = c.maps := by cases e <;> rfl
@[simp] theorem setQueueIn_l1 (e : Eng) (c : Core) (q : Queue) : (setQueueIn e c q).l1 = c.l1 := by cases e <;> rfl
@[simp] theorem setQueueIn_tlb (e : Eng) (c : Core) (q : Queue) : (setQueueIn e c q).tlb = c.tlb := by cases e <;> rfl
@[simp] theorem setQueueIn_stashPts (e : Eng) (c : Core) (q : Queue) : (setQueueIn e c q).stashPts = c.stashPts := by cases e <;> rfl
@[simp] theorem setQueueIn_engWts (e : Eng) (c : Core) (q : Queue) : (setQueueIn e c q).engWts = c.engWts := by cases e <;> rfl
@[simp] theorem setQueueIn_sigPts (e : Eng) (c : Core) (q : Queue) : (setQueueIn e c q).sigPts = c.sigPts := by cases e <;> rfl
@[simp] theorem setQueueIn_tiles (e : Eng) (c : Core) (q : Queue) : (setQueueIn e c q).tiles = c.tiles := by cases e <;> rfl
@[simp] theorem setQueueIn_fifos (e : Eng) (c : Core) (q : Queue) : (setQueueIn e c q).fifos = c.fifos := by cases e <;> rfl
@[simp] theorem setQueueIn_vec (e : Eng) (c : Core) (q : Queue) : (setQueueIn e c q).vec = c.vec := by cases e <;> rfl
@[simp] theorem setQueueIn_stats (e : Eng) (c : Core) (q : Queue) : (setQueueIn e c q).stats = c.stats := by cases e <;> rfl
@[simp] theorem setQueueIn_slotLen (e : Eng) (c : Core) (q : Queue) : (setQueueIn e c q).slotLen = c.slotLen := by cases e <;> rfl
@[simp] theorem setQueueIn_rbuf (e : Eng) (c : Core) (q : Queue) : (setQueueIn e c q).rbuf = c.rbuf := by cases e <;> rfl
@[simp] theorem setQueueIn_rbufPoison (e : Eng) (c : Core) (q : Queue) : (setQueueIn e c q).rbufPoison = c.rbufPoison := by cases e <;> rfl
@[simp] theorem setQueueIn_landings (e : Eng) (c : Core) (q : Queue) : (setQueueIn e c q).landings = c.landings := by cases e <;> rfl
@[simp] theorem setQueueIn_park (e : Eng) (c : Core) (q : Queue) : (setQueueIn e c q).park = c.park := by cases e <;> rfl
@[simp] theorem setQueueIn_revk (e : Eng) (c : Core) (q : Queue) : (setQueueIn e c q).revk = c.revk := by cases e <;> rfl
@[simp] theorem setQueueIn_leaseDue (e : Eng) (c : Core) (q : Queue) : (setQueueIn e c q).leaseDue = c.leaseDue := by cases e <;> rfl
@[simp] theorem setQueueIn_reask (e : Eng) (c : Core) (q : Queue) : (setQueueIn e c q).reask = c.reask := by cases e <;> rfl
@[simp] theorem setQueueIn_unpark (e : Eng) (c : Core) (q : Queue) : (setQueueIn e c q).unpark = c.unpark := by cases e <;> rfl
@[simp] theorem setQueueIn_moved (e : Eng) (c : Core) (q : Queue) : (setQueueIn e c q).moved = c.moved := by cases e <;> rfl
@[simp] theorem setQueueIn_ringTook (e : Eng) (c : Core) (q : Queue) : (setQueueIn e c q).ringTook = c.ringTook := by cases e <;> rfl
@[simp] theorem setQueueIn_bundleAt (e : Eng) (c : Core) (q : Queue) : (setQueueIn e c q).bundleAt = c.bundleAt := by cases e <;> rfl
@[simp] theorem setQueueIn_shadow (e : Eng) (c : Core) (q : Queue) : (setQueueIn e c q).shadow = c.shadow := by cases e <;> rfl
@[simp] theorem setQueueIn_ecnt (e : Eng) (c : Core) (q : Queue) : (setQueueIn e c q).ecnt = c.ecnt := by cases e <;> rfl
@[simp] theorem setQueueIn_esel (e : Eng) (c : Core) (q : Queue) : (setQueueIn e c q).esel = c.esel := by cases e <;> rfl
@[simp] theorem setQueueIn_plevel (e : Eng) (c : Core) (q : Queue) : (setQueueIn e c q).plevel = c.plevel := by cases e <;> rfl
@[simp] theorem setQueueIn_pdecl (e : Eng) (c : Core) (q : Queue) : (setQueueIn e c q).pdecl = c.pdecl := by cases e <;> rfl
@[simp] theorem setQueueIn_removal (e : Eng) (c : Core) (q : Queue) : (setQueueIn e c q).removal = c.removal := by cases e <;> rfl
@[simp] theorem setQueueIn_ctxL (e : Eng) (c : Core) (q : Queue) : (setQueueIn e c q).ctxL = c.ctxL := by cases e <;> rfl
@[simp] theorem setQueueIn_ctxX (e : Eng) (c : Core) (q : Queue) : (setQueueIn e c q).ctxX = c.ctxX := by cases e <;> rfl
@[simp] theorem setQueueIn_ctxS (e : Eng) (c : Core) (q : Queue) : (setQueueIn e c q).ctxS = c.ctxS := by cases e <;> rfl

@[simp] theorem ctxIn_setCtxIn (k : CtxKind) (c : Core) (v : Ctx) : ctxIn k (setCtxIn k c v) = v := by cases k <;> rfl
theorem ctxIn_setCtxIn_other {k j : CtxKind} (c : Core) (v : Ctx) (h : j ≠ k) : ctxIn j (setCtxIn k c v) = ctxIn j c := by
  cases k <;> cases j <;> first | rfl | exact absurd rfl h
@[simp] theorem queueIn_setQueueIn (e : Eng) (c : Core) (q : Queue) : queueIn e (setQueueIn e c q) = q := by cases e <;> rfl
theorem queueIn_setQueueIn_other {e f : Eng} (c : Core) (q : Queue) (h : f ≠ e) : queueIn f (setQueueIn e c q) = queueIn f c := by
  cases e <;> cases f <;> first | rfl | exact absurd rfl h
@[simp] theorem queueIn_setCtxIn (e : Eng) (k : CtxKind) (c : Core) (v : Ctx) : queueIn e (setCtxIn k c v) = queueIn e c := by
  cases k <;> cases e <;> rfl
@[simp] theorem ctxIn_setQueueIn (k : CtxKind) (e : Eng) (c : Core) (q : Queue) : ctxIn k (setQueueIn e c q) = ctxIn k c := by
  cases e <;> cases k <;> rfl

end Sys2Proof.Machine
end

