-- ==== Sys2Proof/Laws/Access.lean ====
section
/-!
SUPPORT. Reading after writing through the accessors of State, and the registers of a context.
-/
namespace Sys2Proof.Machine

@[simp] theorem coreOf_setCore (s : State) (c : CoreId) (v : Core) : coreOf (setCore s c v) c = v := by
  simp [coreOf, setCore]

theorem coreOf_setCore_other (s : State) {c d : CoreId} (v : Core) (h : coreKey d ≠ coreKey c) :
    coreOf (setCore s c v) d = coreOf s d := mget_mset_other _ _ _ h

@[simp] theorem coreOf_modCore (s : State) (c : CoreId) (f : Core → Core) : coreOf (modCore s c f) c = f (coreOf s c) := by
  simp [modCore]

theorem coreOf_modCore_other (s : State) {c d : CoreId} (f : Core → Core) (h : coreKey d ≠ coreKey c) :
    coreOf (modCore s c f) d = coreOf s d := coreOf_setCore_other s _ h

@[simp] theorem clusOf_setClus (s : State) (c : ClusId) (v : Cluster) : clusOf (setClus s c v) c = v := by
  simp [clusOf, setClus]

theorem clusOf_setClus_other (s : State) {c d : ClusId} (v : Cluster) (h : clusKey d ≠ clusKey c) :
    clusOf (setClus s c v) d = clusOf s d := mget_mset_other _ _ _ h

@[simp] theorem clusOf_modClus (s : State) (c : ClusId) (f : Cluster → Cluster) : clusOf (modClus s c f) c = f (clusOf s c) := by
  simp [modClus]

@[simp] theorem dieOf_setDie (s : State) (d : Nat) (v : Die) : dieOf (setDie s d v) d = v := by simp [dieOf, setDie]
@[simp] theorem dieOf_modDie (s : State) (d : Nat) (f : Die → Die) : dieOf (modDie s d f) d = f (dieOf s d) := by simp [modDie]

@[simp] theorem ctxOf_setCtx (s : State) (i : CtxId) (v : Ctx) : ctxOf (setCtx s i v) i = v := by simp [ctxOf, setCtx]

theorem ctxOf_setCtx_kind (s : State) (i : CtxId) (v : Ctx) {k : CtxKind} (h : k ≠ i.kind) :
    ctxOf (setCtx s i v) ⟨i.core, k⟩ = ctxOf s ⟨i.core, k⟩ := by
  simp [ctxOf, setCtx, ctxIn_setCtxIn_other _ _ h]

theorem ctxOf_setCtx_core (s : State) (i : CtxId) (v : Ctx) {c : CoreId} (k : CtxKind) (h : coreKey c ≠ coreKey i.core) :
    ctxOf (setCtx s i v) ⟨c, k⟩ = ctxOf s ⟨c, k⟩ := by
  simp [ctxOf, setCtx, coreOf_setCore_other s _ h]

@[simp] theorem ctxOf_modCtx (s : State) (i : CtxId) (f : Ctx → Ctx) : ctxOf (modCtx s i f) i = f (ctxOf s i) := by simp [modCtx]

@[simp] theorem curCtx_modCtx (s : State) (f : Ctx → Ctx) : curCtx (modCtx s s.cur f) = f (curCtx s) := by
  simp [curCtx]

@[simp] theorem queueOf_setQueue (s : State) (c : CoreId) (e : Eng) (q : Queue) : queueOf (setQueue s c e q) c e = q := by
  simp [queueOf, setQueue]
@[simp] theorem queueOf_modQueue (s : State) (c : CoreId) (e : Eng) (f : Queue → Queue) :
    queueOf (modQueue s c e f) c e = f (queueOf s c e) := by simp [modQueue]

/-- R8: x0 reads as zero and is clean in every state. -/
@[simp] theorem readX_zero (c : Ctx) : readX c 0 = {} := by simp [readX]

theorem readX_writeX (c : Ctx) (n r : BitVec 5) (v : XReg) :
    readX (writeX c n v) r = if r = 0 then {} else if r = n then v else readX c r := by
  unfold readX writeX
  by_cases h0 : r = 0
  · rw [if_pos h0, if_pos h0]
  · rw [if_neg h0, if_neg h0, if_neg h0]
    by_cases hn : n = 0
    · have hr : r ≠ n := fun e => h0 (e.trans hn)
      rw [if_pos hn, if_neg hr]
    · rw [if_neg hn]
      dsimp only
      rw [mget_mset]
      by_cases hr : r = n
      · rw [if_pos hr, hr, if_pos rfl]
      · rw [if_neg hr, if_neg fun e => hr (BitVec.eq_of_toNat_eq e)]

/-- R8, R91: a write to x0 changes nothing. -/
@[simp] theorem writeX_zero (c : Ctx) (v : XReg) : writeX c 0 v = c := by simp [writeX]

end Sys2Proof.Machine
end

