-- ==== Sys2Proof/Laws/Codec.lean ====
section
/-!
SUPPORT. The fields of the words the encoder lays out: each field of a format reads back the value
that was put there (03 R55, R63), and so does each part of a composite field (R56-R62, R64).
-/
namespace Sys2Proof.Laws

section
variable (op : BitVec 6) (d : BitVec 5) (a : BitVec 5) (b : BitVec 5) (f : BitVec 8) (g : BitVec 3)
theorem fOp_encA : fOp (encA op d a b f g) = op := by
  show BitVec.extractLsb' (n := 6 + 5 + 5 + 5 + 8 + 3) 26 6 (op ++ d ++ a ++ b ++ f ++ g) = op
  rw [BitVec.extractLsb'_append_eq_of_le (by decide), BitVec.extractLsb'_append_eq_of_le (by decide), BitVec.extractLsb'_append_eq_of_le (by decide), BitVec.extractLsb'_append_eq_of_le (by decide), BitVec.extractLsb'_append_eq_of_le (by decide)]
  exact BitVec.extractLsb'_eq_self
theorem fD_encA : fD (encA op d a b f g) = d := by
  show BitVec.extractLsb' (n := 6 + 5 + 5 + 5 + 8 + 3) 21 5 (op ++ d ++ a ++ b ++ f ++ g) = d
  rw [BitVec.extractLsb'_append_eq_of_le (by decide), BitVec.extractLsb'_append_eq_of_le (by decide), BitVec.extractLsb'_append_eq_of_le (by decide), BitVec.extractLsb'_append_eq_of_le (by decide), BitVec.extractLsb'_append_eq_of_add_le (by decide)]
  exact BitVec.extractLsb'_eq_self
theorem fA_encA : fA (encA op d a b f g) = a := by
  show BitVec.extractLsb' (n := 6 + 5 + 5 + 5 + 8 + 3) 16 5 (op ++ d ++ a ++ b ++ f ++ g) = a
  rw [BitVec.extractLsb'_append_eq_of_le (by decide), BitVec.extractLsb'_append_eq_of_le (by decide), BitVec.extractLsb'_append_eq_of_le (by decide), BitVec.extractLsb'_append_eq_of_add_le (by decide)]
  exact BitVec.extractLsb'_eq_self
theorem fB_encA : fB (encA op d a b f g) = b := by
  show BitVec.extractLsb' (n := 6 + 5 + 5 + 5 + 8 + 3) 11 5 (op ++ d ++ a ++ b ++ f ++ g) = b
  rw [BitVec.extractLsb'_append_eq_of_le (by decide), BitVec.extractLsb'_append_eq_of_le (by decide), BitVec.extractLsb'_append_eq_of_add_le (by decide)]
  exact BitVec.extractLsb'_eq_self
theorem fF_encA : fF (encA op d a b f g) = f := by
  show BitVec.extractLsb' (n := 6 + 5 + 5 + 5 + 8 + 3) 3 8 (op ++ d ++ a ++ b ++ f ++ g) = f
  rw [BitVec.extractLsb'_append_eq_of_le (by decide), BitVec.extractLsb'_append_eq_of_add_le (by decide)]
  exact BitVec.extractLsb'_eq_self
theorem fG_encA : fG (encA op d a b f g) = g := by
  show BitVec.extractLsb' (n := 6 + 5 + 5 + 5 + 8 + 3) 0 3 (op ++ d ++ a ++ b ++ f ++ g) = g
  rw [BitVec.extractLsb'_append_eq_of_add_le (by decide)]
  exact BitVec.extractLsb'_eq_self
end

section
variable (op : BitVec 6) (d : BitVec 5) (a : BitVec 5) (i : BitVec 13) (g : BitVec 3)
theorem fOp_encI : fOp (encI op d a i g) = op := by
  show BitVec.extractLsb' (n := 6 + 5 + 5 + 13 + 3) 26 6 (op ++ d ++ a ++ i ++ g) = op
  rw [BitVec.extractLsb'_append_eq_of_le (by decide), BitVec.extractLsb'_append_eq_of_le (by decide), BitVec.extractLsb'_append_eq_of_le (by decide), BitVec.extractLsb'_append_eq_of_le (by decide)]
  exact BitVec.extractLsb'_eq_self
theorem fD_encI : fD (encI op d a i g) = d := by
  show BitVec.extractLsb' (n := 6 + 5 + 5 + 13 + 3) 21 5 (op ++ d ++ a ++ i ++ g) = d
  rw [BitVec.extractLsb'_append_eq_of_le (by decide), BitVec.extractLsb'_append_eq_of_le (by decide), BitVec.extractLsb'_append_eq_of_le (by decide), BitVec.extractLsb'_append_eq_of_add_le (by decide)]
  exact BitVec.extractLsb'_eq_self
theorem fA_encI : fA (encI op d a i g) = a := by
  show BitVec.extractLsb' (n := 6 + 5 + 5 + 13 + 3) 16 5 (op ++ d ++ a ++ i ++ g) = a
  rw [BitVec.extractLsb'_append_eq_of_le (by decide), BitVec.extractLsb'_append_eq_of_le (by decide), BitVec.extractLsb'_append_eq_of_add_le (by decide)]
  exact BitVec.extractLsb'_eq_self
theorem fI13_encI : fI13 (encI op d a i g) = i := by
  show BitVec.extractLsb' (n := 6 + 5 + 5 + 13 + 3) 3 13 (op ++ d ++ a ++ i ++ g) = i
  rw [BitVec.extractLsb'_append_eq_of_le (by decide), BitVec.extractLsb'_append_eq_of_add_le (by decide)]
  exact BitVec.extractLsb'_eq_self
theorem fG_encI : fG (encI op d a i g) = g := by
  show BitVec.extractLsb' (n := 6 + 5 + 5 + 13 + 3) 0 3 (op ++ d ++ a ++ i ++ g) = g
  rw [BitVec.extractLsb'_append_eq_of_add_le (by decide)]
  exact BitVec.extractLsb'_eq_self
end

section
variable (op : BitVec 6) (d : BitVec 5) (i : BitVec 18) (g : BitVec 3)
theorem fOp_encU : fOp (encU op d i g) = op := by
  show BitVec.extractLsb' (n := 6 + 5 + 18 + 3) 26 6 (op ++ d ++ i ++ g) = op
  rw [BitVec.extractLsb'_append_eq_of_le (by decide), BitVec.extractLsb'_append_eq_of_le (by decide), BitVec.extractLsb'_append_eq_of_le (by decide)]
  exact BitVec.extractLsb'_eq_self
theorem fD_encU : fD (encU op d i g) = d := by
  show BitVec.extractLsb' (n := 6 + 5 + 18 + 3) 21 5 (op ++ d ++ i ++ g) = d
  rw [BitVec.extractLsb'_append_eq_of_le (by decide), BitVec.extractLsb'_append_eq_of_le (by decide), BitVec.extractLsb'_append_eq_of_add_le (by decide)]
  exact BitVec.extractLsb'_eq_self
theorem fI18_encU : fI18 (encU op d i g) = i := by
  show BitVec.extractLsb' (n := 6 + 5 + 18 + 3) 3 18 (op ++ d ++ i ++ g) = i
  rw [BitVec.extractLsb'_append_eq_of_le (by decide), BitVec.extractLsb'_append_eq_of_add_le (by decide)]
  exact BitVec.extractLsb'_eq_self
theorem fG_encU : fG (encU op d i g) = g := by
  show BitVec.extractLsb' (n := 6 + 5 + 18 + 3) 0 3 (op ++ d ++ i ++ g) = g
  rw [BitVec.extractLsb'_append_eq_of_add_le (by decide)]
  exact BitVec.extractLsb'_eq_self
end

section
variable (op : BitVec 6) (t : BitVec 3) (i : BitVec 20) (g : BitVec 3)
theorem fOp_encB : fOp (encB op t i g) = op := by
  show BitVec.extractLsb' (n := 6 + 3 + 20 + 3) 26 6 (op ++ t ++ i ++ g) = op
  rw [BitVec.extractLsb'_append_eq_of_le (by decide), BitVec.extractLsb'_append_eq_of_le (by decide), BitVec.extractLsb'_append_eq_of_le (by decide)]
  exact BitVec.extractLsb'_eq_self
theorem fBT_encB : fBT (encB op t i g) = t := by
  show BitVec.extractLsb' (n := 6 + 3 + 20 + 3) 23 3 (op ++ t ++ i ++ g) = t
  rw [BitVec.extractLsb'_append_eq_of_le (by decide), BitVec.extractLsb'_append_eq_of_le (by decide), BitVec.extractLsb'_append_eq_of_add_le (by decide)]
  exact BitVec.extractLsb'_eq_self
theorem fG_encB : fG (encB op t i g) = g := by
  show BitVec.extractLsb' (n := 6 + 3 + 20 + 3) 0 3 (op ++ t ++ i ++ g) = g
  rw [BitVec.extractLsb'_append_eq_of_add_le (by decide)]
  exact BitVec.extractLsb'_eq_self
end

theorem part_2_3_0 (x : BitVec 2) (y : BitVec 3) : BitVec.extractLsb' (n := 5) 3 2 (x ++ y) = x := by
  show BitVec.extractLsb' (n := 2 + 3) 3 2 (x ++ y) = x
  rw [BitVec.extractLsb'_append_eq_of_le (by decide)]
  exact BitVec.extractLsb'_eq_self
theorem part_2_3_1 (x : BitVec 2) (y : BitVec 3) : BitVec.extractLsb' (n := 5) 0 3 (x ++ y) = y := by
  show BitVec.extractLsb' (n := 2 + 3) 0 3 (x ++ y) = y
  rw [BitVec.extractLsb'_append_eq_of_add_le (by decide)]
  exact BitVec.extractLsb'_eq_self
theorem part_4_1_0 (x : BitVec 4) (y : BitVec 1) : BitVec.extractLsb' (n := 5) 1 4 (x ++ y) = x := by
  show BitVec.extractLsb' (n := 4 + 1) 1 4 (x ++ y) = x
  rw [BitVec.extractLsb'_append_eq_of_le (by decide)]
  exact BitVec.extractLsb'_eq_self
theorem part_4_1_1 (x : BitVec 4) (y : BitVec 1) : BitVec.extractLsb' (n := 5) 0 1 (x ++ y) = y := by
  show BitVec.extractLsb' (n := 4 + 1) 0 1 (x ++ y) = y
  rw [BitVec.extractLsb'_append_eq_of_add_le (by decide)]
  exact BitVec.extractLsb'_eq_self
theorem part_3_2_0 (x : BitVec 3) (y : BitVec 2) : BitVec.extractLsb' (n := 5) 2 3 (x ++ y) = x := by
  show BitVec.extractLsb' (n := 3 + 2) 2 3 (x ++ y) = x
  rw [BitVec.extractLsb'_append_eq_of_le (by decide)]
  exact BitVec.extractLsb'_eq_self
theorem part_3_2_1 (x : BitVec 3) (y : BitVec 2) : BitVec.extractLsb' (n := 5) 0 2 (x ++ y) = y := by
  show BitVec.extractLsb' (n := 3 + 2) 0 2 (x ++ y) = y
  rw [BitVec.extractLsb'_append_eq_of_add_le (by decide)]
  exact BitVec.extractLsb'_eq_self
theorem part_5_3_0 (x : BitVec 5) (y : BitVec 3) : BitVec.extractLsb' (n := 8) 3 5 (x ++ y) = x := by
  show BitVec.extractLsb' (n := 5 + 3) 3 5 (x ++ y) = x
  rw [BitVec.extractLsb'_append_eq_of_le (by decide)]
  exact BitVec.extractLsb'_eq_self
theorem part_5_3_1 (x : BitVec 5) (y : BitVec 3) : BitVec.extractLsb' (n := 8) 0 3 (x ++ y) = y := by
  show BitVec.extractLsb' (n := 5 + 3) 0 3 (x ++ y) = y
  rw [BitVec.extractLsb'_append_eq_of_add_le (by decide)]
  exact BitVec.extractLsb'_eq_self
theorem part_4_4_0 (x : BitVec 4) (y : BitVec 4) : BitVec.extractLsb' (n := 8) 4 4 (x ++ y) = x := by
  show BitVec.extractLsb' (n := 4 + 4) 4 4 (x ++ y) = x
  rw [BitVec.extractLsb'_append_eq_of_le (by decide)]
  exact BitVec.extractLsb'_eq_self
theorem part_4_4_1 (x : BitVec 4) (y : BitVec 4) : BitVec.extractLsb' (n := 8) 0 4 (x ++ y) = y := by
  show BitVec.extractLsb' (n := 4 + 4) 0 4 (x ++ y) = y
  rw [BitVec.extractLsb'_append_eq_of_add_le (by decide)]
  exact BitVec.extractLsb'_eq_self
theorem part_2_6_0 (x : BitVec 2) (y : BitVec 6) : BitVec.extractLsb' (n := 8) 6 2 (x ++ y) = x := by
  show BitVec.extractLsb' (n := 2 + 6) 6 2 (x ++ y) = x
  rw [BitVec.extractLsb'_append_eq_of_le (by decide)]
  exact BitVec.extractLsb'_eq_self
theorem part_2_6_1 (x : BitVec 2) (y : BitVec 6) : BitVec.extractLsb' (n := 8) 0 6 (x ++ y) = y := by
  show BitVec.extractLsb' (n := 2 + 6) 0 6 (x ++ y) = y
  rw [BitVec.extractLsb'_append_eq_of_add_le (by decide)]
  exact BitVec.extractLsb'_eq_self
theorem part_7_1_0 (x : BitVec 7) (y : BitVec 1) : BitVec.extractLsb' (n := 8) 1 7 (x ++ y) = x := by
  show BitVec.extractLsb' (n := 7 + 1) 1 7 (x ++ y) = x
  rw [BitVec.extractLsb'_append_eq_of_le (by decide)]
  exact BitVec.extractLsb'_eq_self
theorem part_7_1_1 (x : BitVec 7) (y : BitVec 1) : BitVec.extractLsb' (n := 8) 0 1 (x ++ y) = y := by
  show BitVec.extractLsb' (n := 7 + 1) 0 1 (x ++ y) = y
  rw [BitVec.extractLsb'_append_eq_of_add_le (by decide)]
  exact BitVec.extractLsb'_eq_self
theorem part_3_1_4_0 (x : BitVec 3) (y : BitVec 1) (z : BitVec 4) : BitVec.extractLsb' (n := 8) 5 3 (x ++ y ++ z) = x := by
  show BitVec.extractLsb' (n := 3 + 1 + 4) 5 3 (x ++ y ++ z) = x
  rw [BitVec.extractLsb'_append_eq_of_le (by decide), BitVec.extractLsb'_append_eq_of_le (by decide)]
  exact BitVec.extractLsb'_eq_self
theorem part_3_1_4_1 (x : BitVec 3) (y : BitVec 1) (z : BitVec 4) : BitVec.extractLsb' (n := 8) 4 1 (x ++ y ++ z) = y := by
  show BitVec.extractLsb' (n := 3 + 1 + 4) 4 1 (x ++ y ++ z) = y
  rw [BitVec.extractLsb'_append_eq_of_le (by decide), BitVec.extractLsb'_append_eq_of_add_le (by decide)]
  exact BitVec.extractLsb'_eq_self
theorem part_3_1_4_2 (x : BitVec 3) (y : BitVec 1) (z : BitVec 4) : BitVec.extractLsb' (n := 8) 0 4 (x ++ y ++ z) = z := by
  show BitVec.extractLsb' (n := 3 + 1 + 4) 0 4 (x ++ y ++ z) = z
  rw [BitVec.extractLsb'_append_eq_of_add_le (by decide)]
  exact BitVec.extractLsb'_eq_self
theorem part_4_1_3_0 (x : BitVec 4) (y : BitVec 1) (z : BitVec 3) : BitVec.extractLsb' (n := 8) 4 4 (x ++ y ++ z) = x := by
  show BitVec.extractLsb' (n := 4 + 1 + 3) 4 4 (x ++ y ++ z) = x
  rw [BitVec.extractLsb'_append_eq_of_le (by decide), BitVec.extractLsb'_append_eq_of_le (by decide)]
  exact BitVec.extractLsb'_eq_self
theorem part_4_1_3_1 (x : BitVec 4) (y : BitVec 1) (z : BitVec 3) : BitVec.extractLsb' (n := 8) 3 1 (x ++ y ++ z) = y := by
  show BitVec.extractLsb' (n := 4 + 1 + 3) 3 1 (x ++ y ++ z) = y
  rw [BitVec.extractLsb'_append_eq_of_le (by decide), BitVec.extractLsb'_append_eq_of_add_le (by decide)]
  exact BitVec.extractLsb'_eq_self
theorem part_4_1_3_2 (x : BitVec 4) (y : BitVec 1) (z : BitVec 3) : BitVec.extractLsb' (n := 8) 0 3 (x ++ y ++ z) = z := by
  show BitVec.extractLsb' (n := 4 + 1 + 3) 0 3 (x ++ y ++ z) = z
  rw [BitVec.extractLsb'_append_eq_of_add_le (by decide)]
  exact BitVec.extractLsb'_eq_self
theorem part_8_2_0 (x : BitVec 8) (y : BitVec 2) : BitVec.extractLsb' (n := 10) 2 8 (x ++ y) = x := by
  show BitVec.extractLsb' (n := 8 + 2) 2 8 (x ++ y) = x
  rw [BitVec.extractLsb'_append_eq_of_le (by decide)]
  exact BitVec.extractLsb'_eq_self
theorem part_8_2_1 (x : BitVec 8) (y : BitVec 2) : BitVec.extractLsb' (n := 10) 0 2 (x ++ y) = y := by
  show BitVec.extractLsb' (n := 8 + 2) 0 2 (x ++ y) = y
  rw [BitVec.extractLsb'_append_eq_of_add_le (by decide)]
  exact BitVec.extractLsb'_eq_self
theorem part_5_5_0 (x : BitVec 5) (y : BitVec 5) : BitVec.extractLsb' (n := 10) 5 5 (x ++ y) = x := by
  show BitVec.extractLsb' (n := 5 + 5) 5 5 (x ++ y) = x
  rw [BitVec.extractLsb'_append_eq_of_le (by decide)]
  exact BitVec.extractLsb'_eq_self
theorem part_5_5_1 (x : BitVec 5) (y : BitVec 5) : BitVec.extractLsb' (n := 10) 0 5 (x ++ y) = y := by
  show BitVec.extractLsb' (n := 5 + 5) 0 5 (x ++ y) = y
  rw [BitVec.extractLsb'_append_eq_of_add_le (by decide)]
  exact BitVec.extractLsb'_eq_self
theorem part_3_3_4_0 (x : BitVec 3) (y : BitVec 3) (z : BitVec 4) : BitVec.extractLsb' (n := 10) 7 3 (x ++ y ++ z) = x := by
  show BitVec.extractLsb' (n := 3 + 3 + 4) 7 3 (x ++ y ++ z) = x
  rw [BitVec.extractLsb'_append_eq_of_le (by decide), BitVec.extractLsb'_append_eq_of_le (by decide)]
  exact BitVec.extractLsb'_eq_self
theorem part_3_3_4_1 (x : BitVec 3) (y : BitVec 3) (z : BitVec 4) : BitVec.extractLsb' (n := 10) 4 3 (x ++ y ++ z) = y := by
  show BitVec.extractLsb' (n := 3 + 3 + 4) 4 3 (x ++ y ++ z) = y
  rw [BitVec.extractLsb'_append_eq_of_le (by decide), BitVec.extractLsb'_append_eq_of_add_le (by decide)]
  exact BitVec.extractLsb'_eq_self
theorem part_3_3_4_2 (x : BitVec 3) (y : BitVec 3) (z : BitVec 4) : BitVec.extractLsb' (n := 10) 0 4 (x ++ y ++ z) = z := by
  show BitVec.extractLsb' (n := 3 + 3 + 4) 0 4 (x ++ y ++ z) = z
  rw [BitVec.extractLsb'_append_eq_of_add_le (by decide)]
  exact BitVec.extractLsb'_eq_self
theorem part_3_10_0 (x : BitVec 3) (y : BitVec 10) : BitVec.extractLsb' (n := 13) 10 3 (x ++ y) = x := by
  show BitVec.extractLsb' (n := 3 + 10) 10 3 (x ++ y) = x
  rw [BitVec.extractLsb'_append_eq_of_le (by decide)]
  exact BitVec.extractLsb'_eq_self
theorem part_3_10_1 (x : BitVec 3) (y : BitVec 10) : BitVec.extractLsb' (n := 13) 0 10 (x ++ y) = y := by
  show BitVec.extractLsb' (n := 3 + 10) 0 10 (x ++ y) = y
  rw [BitVec.extractLsb'_append_eq_of_add_le (by decide)]
  exact BitVec.extractLsb'_eq_self
theorem part_2_11_0 (x : BitVec 2) (y : BitVec 11) : BitVec.extractLsb' (n := 13) 11 2 (x ++ y) = x := by
  show BitVec.extractLsb' (n := 2 + 11) 11 2 (x ++ y) = x
  rw [BitVec.extractLsb'_append_eq_of_le (by decide)]
  exact BitVec.extractLsb'_eq_self
theorem part_2_11_1 (x : BitVec 2) (y : BitVec 11) : BitVec.extractLsb' (n := 13) 0 11 (x ++ y) = y := by
  show BitVec.extractLsb' (n := 2 + 11) 0 11 (x ++ y) = y
  rw [BitVec.extractLsb'_append_eq_of_add_le (by decide)]
  exact BitVec.extractLsb'_eq_self
theorem part_2_5_6_0 (x : BitVec 2) (y : BitVec 5) (z : BitVec 6) : BitVec.extractLsb' (n := 13) 11 2 (x ++ y ++ z) = x := by
  show BitVec.extractLsb' (n := 2 + 5 + 6) 11 2 (x ++ y ++ z) = x
  rw [BitVec.extractLsb'_append_eq_of_le (by decide), BitVec.extractLsb'_append_eq_of_le (by decide)]
  exact BitVec.extractLsb'_eq_self
theorem part_2_5_6_1 (x : BitVec 2) (y : BitVec 5) (z : BitVec 6) : BitVec.extractLsb' (n := 13) 6 5 (x ++ y ++ z) = y := by
  show BitVec.extractLsb' (n := 2 + 5 + 6) 6 5 (x ++ y ++ z) = y
  rw [BitVec.extractLsb'_append_eq_of_le (by decide), BitVec.extractLsb'_append_eq_of_add_le (by decide)]
  exact BitVec.extractLsb'_eq_self
theorem part_2_5_6_2 (x : BitVec 2) (y : BitVec 5) (z : BitVec 6) : BitVec.extractLsb' (n := 13) 0 6 (x ++ y ++ z) = z := by
  show BitVec.extractLsb' (n := 2 + 5 + 6) 0 6 (x ++ y ++ z) = z
  rw [BitVec.extractLsb'_append_eq_of_add_le (by decide)]
  exact BitVec.extractLsb'_eq_self
theorem part_3_4_6_0 (x : BitVec 3) (y : BitVec 4) (z : BitVec 6) : BitVec.extractLsb' (n := 13) 10 3 (x ++ y ++ z) = x := by
  show BitVec.extractLsb' (n := 3 + 4 + 6) 10 3 (x ++ y ++ z) = x
  rw [BitVec.extractLsb'_append_eq_of_le (by decide), BitVec.extractLsb'_append_eq_of_le (by decide)]
  exact BitVec.extractLsb'_eq_self
theorem part_3_4_6_1 (x : BitVec 3) (y : BitVec 4) (z : BitVec 6) : BitVec.extractLsb' (n := 13) 6 4 (x ++ y ++ z) = y := by
  show BitVec.extractLsb' (n := 3 + 4 + 6) 6 4 (x ++ y ++ z) = y
  rw [BitVec.extractLsb'_append_eq_of_le (by decide), BitVec.extractLsb'_append_eq_of_add_le (by decide)]
  exact BitVec.extractLsb'_eq_self
theorem part_3_4_6_2 (x : BitVec 3) (y : BitVec 4) (z : BitVec 6) : BitVec.extractLsb' (n := 13) 0 6 (x ++ y ++ z) = z := by
  show BitVec.extractLsb' (n := 3 + 4 + 6) 0 6 (x ++ y ++ z) = z
  rw [BitVec.extractLsb'_append_eq_of_add_le (by decide)]
  exact BitVec.extractLsb'_eq_self
theorem part_2_3_8_0 (x : BitVec 2) (y : BitVec 3) (z : BitVec 8) : BitVec.extractLsb' (n := 13) 11 2 (x ++ y ++ z) = x := by
  show BitVec.extractLsb' (n := 2 + 3 + 8) 11 2 (x ++ y ++ z) = x
  rw [BitVec.extractLsb'_append_eq_of_le (by decide), BitVec.extractLsb'_append_eq_of_le (by decide)]
  exact BitVec.extractLsb'_eq_self
theorem part_2_3_8_1 (x : BitVec 2) (y : BitVec 3) (z : BitVec 8) : BitVec.extractLsb' (n := 13) 8 3 (x ++ y ++ z) = y := by
  show BitVec.extractLsb' (n := 2 + 3 + 8) 8 3 (x ++ y ++ z) = y
  rw [BitVec.extractLsb'_append_eq_of_le (by decide), BitVec.extractLsb'_append_eq_of_add_le (by decide)]
  exact BitVec.extractLsb'_eq_self
theorem part_2_3_8_2 (x : BitVec 2) (y : BitVec 3) (z : BitVec 8) : BitVec.extractLsb' (n := 13) 0 8 (x ++ y ++ z) = z := by
  show BitVec.extractLsb' (n := 2 + 3 + 8) 0 8 (x ++ y ++ z) = z
  rw [BitVec.extractLsb'_append_eq_of_add_le (by decide)]
  exact BitVec.extractLsb'_eq_self
theorem part_2_14_0 (x : BitVec 2) (y : BitVec 14) : BitVec.extractLsb' (n := 16) 14 2 (x ++ y) = x := by
  show BitVec.extractLsb' (n := 2 + 14) 14 2 (x ++ y) = x
  rw [BitVec.extractLsb'_append_eq_of_le (by decide)]
  exact BitVec.extractLsb'_eq_self
theorem part_2_14_1 (x : BitVec 2) (y : BitVec 14) : BitVec.extractLsb' (n := 16) 0 14 (x ++ y) = y := by
  show BitVec.extractLsb' (n := 2 + 14) 0 14 (x ++ y) = y
  rw [BitVec.extractLsb'_append_eq_of_add_le (by decide)]
  exact BitVec.extractLsb'_eq_self
theorem part_2_4_10_0 (x : BitVec 2) (y : BitVec 4) (z : BitVec 10) : BitVec.extractLsb' (n := 16) 14 2 (x ++ y ++ z) = x := by
  show BitVec.extractLsb' (n := 2 + 4 + 10) 14 2 (x ++ y ++ z) = x
  rw [BitVec.extractLsb'_append_eq_of_le (by decide), BitVec.extractLsb'_append_eq_of_le (by decide)]
  exact BitVec.extractLsb'_eq_self
theorem part_2_4_10_1 (x : BitVec 2) (y : BitVec 4) (z : BitVec 10) : BitVec.extractLsb' (n := 16) 10 4 (x ++ y ++ z) = y := by
  show BitVec.extractLsb' (n := 2 + 4 + 10) 10 4 (x ++ y ++ z) = y
  rw [BitVec.extractLsb'_append_eq_of_le (by decide), BitVec.extractLsb'_append_eq_of_add_le (by decide)]
  exact BitVec.extractLsb'_eq_self
theorem part_2_4_10_2 (x : BitVec 2) (y : BitVec 4) (z : BitVec 10) : BitVec.extractLsb' (n := 16) 0 10 (x ++ y ++ z) = z := by
  show BitVec.extractLsb' (n := 2 + 4 + 10) 0 10 (x ++ y ++ z) = z
  rw [BitVec.extractLsb'_append_eq_of_add_le (by decide)]
  exact BitVec.extractLsb'_eq_self
theorem part_1_1_3_0 (x : BitVec 1) (y : BitVec 1) (z : BitVec 3) : BitVec.extractLsb' (n := 5) 4 1 (x ++ y ++ z) = x := by
  show BitVec.extractLsb' (n := 1 + 1 + 3) 4 1 (x ++ y ++ z) = x
  rw [BitVec.extractLsb'_append_eq_of_le (by decide), BitVec.extractLsb'_append_eq_of_le (by decide)]
  exact BitVec.extractLsb'_eq_self
theorem part_1_1_3_1 (x : BitVec 1) (y : BitVec 1) (z : BitVec 3) : BitVec.extractLsb' (n := 5) 3 1 (x ++ y ++ z) = y := by
  show BitVec.extractLsb' (n := 1 + 1 + 3) 3 1 (x ++ y ++ z) = y
  rw [BitVec.extractLsb'_append_eq_of_le (by decide), BitVec.extractLsb'_append_eq_of_add_le (by decide)]
  exact BitVec.extractLsb'_eq_self
theorem part_1_1_3_2 (x : BitVec 1) (y : BitVec 1) (z : BitVec 3) : BitVec.extractLsb' (n := 5) 0 3 (x ++ y ++ z) = z := by
  show BitVec.extractLsb' (n := 1 + 1 + 3) 0 3 (x ++ y ++ z) = z
  rw [BitVec.extractLsb'_append_eq_of_add_le (by decide)]
  exact BitVec.extractLsb'_eq_self
theorem part_5_15_0 (x : BitVec 5) (y : BitVec 15) : BitVec.extractLsb' (n := 20) 15 5 (x ++ y) = x := by
  show BitVec.extractLsb' (n := 5 + 15) 15 5 (x ++ y) = x
  rw [BitVec.extractLsb'_append_eq_of_le (by decide)]
  exact BitVec.extractLsb'_eq_self
theorem part_5_15_1 (x : BitVec 5) (y : BitVec 15) : BitVec.extractLsb' (n := 20) 0 15 (x ++ y) = y := by
  show BitVec.extractLsb' (n := 5 + 15) 0 15 (x ++ y) = y
  rw [BitVec.extractLsb'_append_eq_of_add_le (by decide)]
  exact BitVec.extractLsb'_eq_self
theorem part_3_1_1_15_0 (x : BitVec 3) (y : BitVec 1) (z : BitVec 1) (u : BitVec 15) : BitVec.extractLsb' (n := 20) 17 3 (x ++ y ++ z ++ u) = x := by
  show BitVec.extractLsb' (n := 3 + 1 + 1 + 15) 17 3 (x ++ y ++ z ++ u) = x
  rw [BitVec.extractLsb'_append_eq_of_le (by decide), BitVec.extractLsb'_append_eq_of_le (by decide), BitVec.extractLsb'_append_eq_of_le (by decide)]
  exact BitVec.extractLsb'_eq_self
theorem part_3_1_1_15_1 (x : BitVec 3) (y : BitVec 1) (z : BitVec 1) (u : BitVec 15) : BitVec.extractLsb' (n := 20) 16 1 (x ++ y ++ z ++ u) = y := by
  show BitVec.extractLsb' (n := 3 + 1 + 1 + 15) 16 1 (x ++ y ++ z ++ u) = y
  rw [BitVec.extractLsb'_append_eq_of_le (by decide), BitVec.extractLsb'_append_eq_of_le (by decide), BitVec.extractLsb'_append_eq_of_add_le (by decide)]
  exact BitVec.extractLsb'_eq_self
theorem part_3_1_1_15_2 (x : BitVec 3) (y : BitVec 1) (z : BitVec 1) (u : BitVec 15) : BitVec.extractLsb' (n := 20) 15 1 (x ++ y ++ z ++ u) = z := by
  show BitVec.extractLsb' (n := 3 + 1 + 1 + 15) 15 1 (x ++ y ++ z ++ u) = z
  rw [BitVec.extractLsb'_append_eq_of_le (by decide), BitVec.extractLsb'_append_eq_of_add_le (by decide)]
  exact BitVec.extractLsb'_eq_self
theorem part_3_1_1_15_3 (x : BitVec 3) (y : BitVec 1) (z : BitVec 1) (u : BitVec 15) : BitVec.extractLsb' (n := 20) 0 15 (x ++ y ++ z ++ u) = u := by
  show BitVec.extractLsb' (n := 3 + 1 + 1 + 15) 0 15 (x ++ y ++ z ++ u) = u
  rw [BitVec.extractLsb'_append_eq_of_add_le (by decide)]
  exact BitVec.extractLsb'_eq_self
theorem part_1_2_10_0 (x : BitVec 1) (y : BitVec 2) (z : BitVec 10) : BitVec.extractLsb' (n := 13) 12 1 (x ++ y ++ z) = x := by
  show BitVec.extractLsb' (n := 1 + 2 + 10) 12 1 (x ++ y ++ z) = x
  rw [BitVec.extractLsb'_append_eq_of_le (by decide), BitVec.extractLsb'_append_eq_of_le (by decide)]
  exact BitVec.extractLsb'_eq_self
theorem part_1_2_10_1 (x : BitVec 1) (y : BitVec 2) (z : BitVec 10) : BitVec.extractLsb' (n := 13) 10 2 (x ++ y ++ z) = y := by
  show BitVec.extractLsb' (n := 1 + 2 + 10) 10 2 (x ++ y ++ z) = y
  rw [BitVec.extractLsb'_append_eq_of_le (by decide), BitVec.extractLsb'_append_eq_of_add_le (by decide)]
  exact BitVec.extractLsb'_eq_self
theorem part_1_2_10_2 (x : BitVec 1) (y : BitVec 2) (z : BitVec 10) : BitVec.extractLsb' (n := 13) 0 10 (x ++ y ++ z) = z := by
  show BitVec.extractLsb' (n := 1 + 2 + 10) 0 10 (x ++ y ++ z) = z
  rw [BitVec.extractLsb'_append_eq_of_add_le (by decide)]
  exact BitVec.extractLsb'_eq_self
theorem part_3_8_2_0 (x : BitVec 3) (y : BitVec 8) (z : BitVec 2) : BitVec.extractLsb' (n := 13) 10 3 (x ++ y ++ z) = x := by
  show BitVec.extractLsb' (n := 3 + 8 + 2) 10 3 (x ++ y ++ z) = x
  rw [BitVec.extractLsb'_append_eq_of_le (by decide), BitVec.extractLsb'_append_eq_of_le (by decide)]
  exact BitVec.extractLsb'_eq_self
theorem part_3_8_2_1 (x : BitVec 3) (y : BitVec 8) (z : BitVec 2) : BitVec.extractLsb' (n := 13) 2 8 (x ++ y ++ z) = y := by
  show BitVec.extractLsb' (n := 3 + 8 + 2) 2 8 (x ++ y ++ z) = y
  rw [BitVec.extractLsb'_append_eq_of_le (by decide), BitVec.extractLsb'_append_eq_of_add_le (by decide)]
  exact BitVec.extractLsb'_eq_self
theorem part_3_8_2_2 (x : BitVec 3) (y : BitVec 8) (z : BitVec 2) : BitVec.extractLsb' (n := 13) 0 2 (x ++ y ++ z) = z := by
  show BitVec.extractLsb' (n := 3 + 8 + 2) 0 2 (x ++ y ++ z) = z
  rw [BitVec.extractLsb'_append_eq_of_add_le (by decide)]
  exact BitVec.extractLsb'_eq_self
theorem part_3_1_1_0 (x : BitVec 3) (y : BitVec 1) (z : BitVec 1) : BitVec.extractLsb' (n := 5) 2 3 (x ++ y ++ z) = x := by
  show BitVec.extractLsb' (n := 3 + 1 + 1) 2 3 (x ++ y ++ z) = x
  rw [BitVec.extractLsb'_append_eq_of_le (by decide), BitVec.extractLsb'_append_eq_of_le (by decide)]
  exact BitVec.extractLsb'_eq_self
theorem part_3_1_1_1 (x : BitVec 3) (y : BitVec 1) (z : BitVec 1) : BitVec.extractLsb' (n := 5) 1 1 (x ++ y ++ z) = y := by
  show BitVec.extractLsb' (n := 3 + 1 + 1) 1 1 (x ++ y ++ z) = y
  rw [BitVec.extractLsb'_append_eq_of_le (by decide), BitVec.extractLsb'_append_eq_of_add_le (by decide)]
  exact BitVec.extractLsb'_eq_self
theorem part_3_1_1_2 (x : BitVec 3) (y : BitVec 1) (z : BitVec 1) : BitVec.extractLsb' (n := 5) 0 1 (x ++ y ++ z) = z := by
  show BitVec.extractLsb' (n := 3 + 1 + 1) 0 1 (x ++ y ++ z) = z
  rw [BitVec.extractLsb'_append_eq_of_add_le (by decide)]
  exact BitVec.extractLsb'_eq_self
theorem part_1_2_0 (x : BitVec 1) (y : BitVec 2) : BitVec.extractLsb' (n := 3) 2 1 (x ++ y) = x := by
  show BitVec.extractLsb' (n := 1 + 2) 2 1 (x ++ y) = x
  rw [BitVec.extractLsb'_append_eq_of_le (by decide)]
  exact BitVec.extractLsb'_eq_self
theorem part_1_2_1 (x : BitVec 1) (y : BitVec 2) : BitVec.extractLsb' (n := 3) 0 2 (x ++ y) = y := by
  show BitVec.extractLsb' (n := 1 + 2) 0 2 (x ++ y) = y
  rw [BitVec.extractLsb'_append_eq_of_add_le (by decide)]
  exact BitVec.extractLsb'_eq_self

/-- The fields that overlap the fields of another format (R56, R58, R60). -/
theorem fPD_eq (w : BitVec 32) : fPD w = (fD w).extractLsb' 0 3 := by
  unfold fPD fD; ext k h; simp [BitVec.getElem_extractLsb', show k < 5 by omega]
theorem fBT_eq (w : BitVec 32) : fBT w = (fD w).extractLsb' 2 3 := by
  unfold fBT fD; ext k h; simp [BitVec.getElem_extractLsb', show 2 + k < 5 by omega, ← Nat.add_assoc]
theorem fLC_eq (w : BitVec 32) : fLC w = (fD w).extractLsb' 0 2 := by
  unfold fLC fD; ext k h; simp [BitVec.getElem_extractLsb', show k < 5 by omega]
theorem fW_eq (w : BitVec 32) : fW w = (fI13 w).extractLsb' 10 3 := by
  unfold fW fI13; ext k h; simp [BitVec.getElem_extractLsb', show 10 + k < 13 by omega, ← Nat.add_assoc]
theorem fO_eq (w : BitVec 32) : fO w = (fI13 w).extractLsb' 0 10 := by
  unfold fO fI13; ext k h; simp [BitVec.getElem_extractLsb', show k < 13 by omega]
theorem ext_13_2 (w : BitVec 32) : w.extractLsb' 13 2 = (fI13 w).extractLsb' 10 2 := by
  unfold fI13; ext k h; simp [BitVec.getElem_extractLsb', show 10 + k < 13 by omega, ← Nat.add_assoc]
theorem ext_3_10 (w : BitVec 32) : w.extractLsb' 3 10 = (fI13 w).extractLsb' 0 10 := fO_eq w
theorem bit_15 (w : BitVec 32) : w.getLsbD 15 = (fI13 w).getLsbD 12 := by
  unfold fI13; simp
theorem ext_3_15 (w : BitVec 32) : w.extractLsb' 3 15 = (w.extractLsb' 3 20).extractLsb' 0 15 := by
  ext k h; simp [BitVec.getElem_extractLsb', show k < 20 by omega]
theorem ext_18_5 (w : BitVec 32) : w.extractLsb' 18 5 = (w.extractLsb' 3 20).extractLsb' 15 5 := by
  ext k h; simp [BitVec.getElem_extractLsb', show 15 + k < 20 by omega, ← Nat.add_assoc]
theorem ext_20_3 (w : BitVec 32) : w.extractLsb' 20 3 = (w.extractLsb' 3 20).extractLsb' 17 3 := by
  ext k h; simp [BitVec.getElem_extractLsb', show 17 + k < 20 by omega, ← Nat.add_assoc]
theorem ext_19_1 (w : BitVec 32) : w.extractLsb' 19 1 = (w.extractLsb' 3 20).extractLsb' 16 1 := by
  ext k h; simp [BitVec.getElem_extractLsb', show 16 + k < 20 by omega, ← Nat.add_assoc]
theorem bit_18 (w : BitVec 32) : w.getLsbD 18 = (w.extractLsb' 3 20).getLsbD 15 := by
  simp
theorem fI20_encB (op : BitVec 6) (t : BitVec 3) (i : BitVec 20) (g : BitVec 3) :
    BitVec.extractLsb' 3 20 (encB op t i g) = i := by
  show BitVec.extractLsb' (n := 6 + 3 + 20 + 3) 3 20 (op ++ t ++ i ++ g) = i
  rw [BitVec.extractLsb'_append_eq_of_le (by decide), BitVec.extractLsb'_append_eq_of_add_le (by decide)]
  exact BitVec.extractLsb'_eq_self

/-- Single bits of composite fields. -/
theorem bit_1_2_10 (x : BitVec 1) (y : BitVec 2) (z : BitVec 10) :
    BitVec.getLsbD (w := 13) (x ++ y ++ z) 12 = x.getLsbD 0 := by
  show BitVec.getLsbD (w := 1 + 2 + 10) (x ++ y ++ z) 12 = _
  simp only [BitVec.getLsbD_append]; rfl
theorem bit_3_1_1_15 (x : BitVec 3) (y z : BitVec 1) (u : BitVec 15) :
    BitVec.getLsbD (w := 20) (x ++ y ++ z ++ u) 15 = z.getLsbD 0 := by
  show BitVec.getLsbD (w := 3 + 1 + 1 + 15) (x ++ y ++ z ++ u) 15 = _
  simp only [BitVec.getLsbD_append]; rfl
theorem bit_1_1_3_hi (x y : BitVec 1) (z : BitVec 3) :
    BitVec.getLsbD (w := 5) (x ++ y ++ z) 4 = x.getLsbD 0 := by
  show BitVec.getLsbD (w := 1 + 1 + 3) (x ++ y ++ z) 4 = _
  simp only [BitVec.getLsbD_append]; rfl
theorem bit_1_1_3_lo (x y : BitVec 1) (z : BitVec 3) :
    BitVec.getLsbD (w := 5) (x ++ y ++ z) 3 = y.getLsbD 0 := by
  show BitVec.getLsbD (w := 1 + 1 + 3) (x ++ y ++ z) 3 = _
  simp only [BitVec.getLsbD_append]; rfl
theorem bit_4_1_3 (x : BitVec 4) (y : BitVec 1) (z : BitVec 3) :
    BitVec.getLsbD (w := 8) (x ++ y ++ z) 3 = y.getLsbD 0 := by
  show BitVec.getLsbD (w := 4 + 1 + 3) (x ++ y ++ z) 3 = _
  simp only [BitVec.getLsbD_append]; rfl
theorem bit_1_2 (x : BitVec 1) (y : BitVec 2) : BitVec.getLsbD (w := 3) (x ++ y) 2 = x.getLsbD 0 := by
  show BitVec.getLsbD (w := 1 + 2) (x ++ y) 2 = _
  simp only [BitVec.getLsbD_append]; rfl
theorem mask_3_1_1 (y : BitVec 1) : ((0#3 ++ y ++ 0#1 : BitVec 5) &&& 0x1D#5) = 0 := by
  revert y; decide
theorem toNat_0_3 (n : BitVec 3) : BitVec.toNat (w := 8) (0#5 ++ n) = n.toNat := by
  show BitVec.toNat (w := 5 + 3) (0#5 ++ n) = n.toNat
  rw [BitVec.toNat_append]; simp

theorem hi_1_2_10 (x : BitVec 1) (y : BitVec 2) (z : BitVec 10) :
    BitVec.extractLsb' (n := 13) 10 3 (x ++ y ++ z) = x ++ y := by
  show BitVec.extractLsb' (n := 1 + 2 + 10) 10 3 (x ++ y ++ z) = x ++ y
  rw [BitVec.extractLsb'_append_eq_of_le (by decide)]
  exact BitVec.extractLsb'_eq_self
theorem lo_3_8_2 (x : BitVec 3) (y : BitVec 8) (z : BitVec 2) :
    BitVec.extractLsb' (n := 13) 0 10 (x ++ y ++ z) = y ++ z := by
  show BitVec.extractLsb' (n := 3 + 8 + 2) 0 10 (x ++ y ++ z) = y ++ z
  rw [BitVec.append_assoc, BitVec.cast_eq, BitVec.extractLsb'_append_eq_of_add_le (by decide)]
  exact BitVec.extractLsb'_eq_self
theorem sel_hi (n : BitVec 3) : BitVec.extractLsb' (n := 8) 4 4 (4#5 ++ n) = 2#4 := by revert n; decide
theorem size_ne (y : BitVec 2) : BitVec.toNat (w := 3) (0#1 ++ y) ≠ 4 ∧ BitVec.toNat (w := 3) (0#1 ++ y) ≠ 5 ∧
    BitVec.toNat (w := 3) (0#1 ++ y) ≠ 6 ∧ BitVec.toNat (w := 3) (0#1 ++ y) ≠ 7 := by revert y; decide
theorem sel_ne (n : BitVec 3) : (4#5 ++ n : BitVec 8) ≠ 16#8 := by revert n; decide
theorem size_le (y : BitVec 2) : BitVec.toNat (w := 3) (0#1 ++ y) ≤ 3 := by revert y; decide
theorem size_lo (y : BitVec 2) : BitVec.extractLsb' (n := 3) 0 2 (0#1 ++ y) = y := by revert y; decide
theorem ext_23_3 (w : BitVec 32) : w.extractLsb' 23 3 = (fD w).extractLsb' 2 3 := fBT_eq w

/-- R63: the parts of an engine word. -/
theorem kind_encL (opc : BitVec 7) (f : BitVec 6) : BitVec.extractLsb' 14 2 (encL opc f) = 1 := by
  show BitVec.extractLsb' (n := 2 + 7 + 6 + 1) 14 2 (1#2 ++ opc ++ f ++ 0#1) = 1
  rw [BitVec.extractLsb'_append_eq_of_le (by decide), BitVec.extractLsb'_append_eq_of_le (by decide), BitVec.extractLsb'_append_eq_of_le (by decide)]
  exact BitVec.extractLsb'_eq_self
theorem opc_encL (opc : BitVec 7) (f : BitVec 6) : BitVec.extractLsb' 7 7 (encL opc f) = opc := by
  show BitVec.extractLsb' (n := 2 + 7 + 6 + 1) 7 7 (1#2 ++ opc ++ f ++ 0#1) = opc
  rw [BitVec.extractLsb'_append_eq_of_le (by decide), BitVec.extractLsb'_append_eq_of_le (by decide), BitVec.extractLsb'_append_eq_of_add_le (by decide)]
  exact BitVec.extractLsb'_eq_self
theorem flags_encL (opc : BitVec 7) (f : BitVec 6) : BitVec.extractLsb' 1 6 (encL opc f) = f := by
  show BitVec.extractLsb' (n := 2 + 7 + 6 + 1) 1 6 (1#2 ++ opc ++ f ++ 0#1) = f
  rw [BitVec.extractLsb'_append_eq_of_le (by decide), BitVec.extractLsb'_append_eq_of_add_le (by decide)]
  exact BitVec.extractLsb'_eq_self
theorem low_encL (opc : BitVec 7) (f : BitVec 6) : BitVec.getLsbD (encL opc f) 0 = false := by
  show BitVec.getLsbD (w := 2 + 7 + 6 + 1) (1#2 ++ opc ++ f ++ 0#1) 0 = false
  simp only [BitVec.getLsbD_append]; rfl

theorem kind16 (k : BitVec 4) (o : BitVec 10) : BitVec.extractLsb' (n := 16) 14 2 (0#2 ++ k ++ o) = 0#2 :=
  part_2_4_10_0 0#2 k o
theorem dec_ld (opc : BitVec 7) (f : BitVec 6) : decode16 .ld (encL opc f) = launchLd opc.toNat f := by
  unfold decode16
  rw [kind_encL, opc_encL, flags_encL, low_encL]
  show (match launchLd opc.toNat f with
    | .error x => (.error x : Except DecodeErr Instr) | .ok i => chk (false = false) i) = _
  cases launchLd opc.toNat f <;> rfl
theorem dec_st (opc : BitVec 7) (f : BitVec 6) : decode16 .st (encL opc f) = launchSt opc.toNat f := by
  unfold decode16
  rw [kind_encL, opc_encL, flags_encL, low_encL]
  show (match launchSt opc.toNat f with
    | .error x => (.error x : Except DecodeErr Instr) | .ok i => chk (false = false) i) = _
  cases launchSt opc.toNat f <;> rfl
theorem dec_mx (opc : BitVec 7) (f : BitVec 6) : decode16 .mx (encL opc f) = launchMx opc.toNat f := by
  unfold decode16
  rw [kind_encL, opc_encL, flags_encL, low_encL]
  show (match launchMx opc.toNat f with
    | .error x => (.error x : Except DecodeErr Instr) | .ok i => chk (false = false) i) = _
  cases launchMx opc.toNat f <;> rfl
theorem dec_vx (opc : BitVec 7) (f : BitVec 6) : decode16 .vx (encL opc f) = launchVx opc.toNat f := by
  unfold decode16
  rw [kind_encL, opc_encL, flags_encL, low_encL]
  show (match launchVx opc.toNat f with
    | .error x => (.error x : Except DecodeErr Instr) | .ok i => chk (false = false) i) = _
  cases launchVx opc.toNat f <;> rfl
theorem dec_rw (opc : BitVec 7) (f : BitVec 6) : decode16 .rw (encL opc f) = launchRw opc.toNat f := by
  unfold decode16
  rw [kind_encL, opc_encL, flags_encL, low_encL]
  show (match launchRw opc.toNat f with
    | .error x => (.error x : Except DecodeErr Instr) | .ok i => chk (false = false) i) = _
  cases launchRw opc.toNat f <;> rfl
theorem dec_cp (opc : BitVec 7) (f : BitVec 6) : decode16 .cp (encL opc f) = launchCp opc.toNat f := by
  unfold decode16
  rw [kind_encL, opc_encL, flags_encL, low_encL]
  show (match launchCp opc.toNat f with
    | .error x => (.error x : Except DecodeErr Instr) | .ok i => chk (false = false) i) = _
  cases launchCp opc.toNat f <;> rfl
theorem dec_ctl (e : Eng) (k : BitVec 4) (o : BitVec 10) :
    decode16 e (0#2 ++ k ++ o) = decControl (0#2 ++ k ++ o) := by
  unfold decode16; rw [kind16]; rfl
theorem dec_lit (e : Eng) (i : BitVec 14) : decode16 e (3#2 ++ i) = .ok (.lit i) := by
  unfold decode16; rw [part_2_14_0, part_2_14_1]; rfl
theorem dec_ext (e : Eng) (i : BitVec 14) : decode16 e (2#2 ++ i) = .ok (.ext i) := by
  unfold decode16; rw [part_2_14_0, part_2_14_1]; rfl

/-- R57: the operation code selects the decoder of the rest of the word. -/
theorem op_0x01 (w : BitVec 32) (h : fOp w = 0x01) : decode32 w = decAlu w := by
  unfold decode32; rw [h]; rfl
theorem op_0x02 (w : BitVec 32) (h : fOp w = 0x02) : decode32 w = .ok (.addi (fD w) (fA w) (fI13 w) (fG w)) := by
  unfold decode32; rw [h]; rfl
theorem op_0x03 (w : BitVec 32) (h : fOp w = 0x03) : decode32 w = .ok (.andi (fD w) (fA w) (fI13 w) (fG w)) := by
  unfold decode32; rw [h]; rfl
theorem op_0x04 (w : BitVec 32) (h : fOp w = 0x04) : decode32 w = .ok (.ori (fD w) (fA w) (fI13 w) (fG w)) := by
  unfold decode32; rw [h]; rfl
theorem op_0x05 (w : BitVec 32) (h : fOp w = 0x05) : decode32 w = .ok (.xori (fD w) (fA w) (fI13 w) (fG w)) := by
  unfold decode32; rw [h]; rfl
theorem op_0x06 (w : BitVec 32) (h : fOp w = 0x06) : decode32 w = decShift w := by
  unfold decode32; rw [h]; rfl
theorem op_0x07 (w : BitVec 32) (h : fOp w = 0x07) : decode32 w = .ok (.li (fD w) (fI18 w) (fG w)) := by
  unfold decode32; rw [h]; rfl
theorem op_0x08 (w : BitVec 32) (h : fOp w = 0x08) : decode32 w = .ok (.lih (fD w) (fI18 w) (fG w)) := by
  unfold decode32; rw [h]; rfl
theorem op_0x09 (w : BitVec 32) (h : fOp w = 0x09) : decode32 w = decMul w := by
  unfold decode32; rw [h]; rfl
theorem op_0x0A (w : BitVec 32) (h : fOp w = 0x0A) : decode32 w = decCmp w := by
  unfold decode32; rw [h]; rfl
theorem op_0x0B (w : BitVec 32) (h : fOp w = 0x0B) : decode32 w = decCmpi w := by
  unfold decode32; rw [h]; rfl
theorem op_0x0C (w : BitVec 32) (h : fOp w = 0x0C) : decode32 w = decPred w := by
  unfold decode32; rw [h]; rfl
theorem op_0x0D (w : BitVec 32) (h : fOp w = 0x0D) : decode32 w = decFp w := by
  unfold decode32; rw [h]; rfl
theorem op_0x0E (w : BitVec 32) (h : fOp w = 0x0E) : decode32 w = decCvt w := by
  unfold decode32; rw [h]; rfl
theorem op_0x10 (w : BitVec 32) (h : fOp w = 0x10) : decode32 w = decLoad w := by
  unfold decode32; rw [h]; rfl
theorem op_0x11 (w : BitVec 32) (h : fOp w = 0x11) : decode32 w = decSized .st w := by
  unfold decode32; rw [h]; rfl
theorem op_0x12 (w : BitVec 32) (h : fOp w = 0x12) : decode32 w = decSized .lds w := by
  unfold decode32; rw [h]; rfl
theorem op_0x13 (w : BitVec 32) (h : fOp w = 0x13) : decode32 w = decSized .sts w := by
  unfold decode32; rw [h]; rfl
theorem op_0x14 (w : BitVec 32) (h : fOp w = 0x14) : decode32 w = decMap w := by
  unfold decode32; rw [h]; rfl
theorem op_0x15 (w : BitVec 32) (h : fOp w = 0x15) : decode32 w = decTile w := by
  unfold decode32; rw [h]; rfl
theorem op_0x16 (w : BitVec 32) (h : fOp w = 0x16) : decode32 w = decAmo w := by
  unfold decode32; rw [h]; rfl
theorem op_0x17 (w : BitVec 32) (h : fOp w = 0x17) : decode32 w = decCas w := by
  unfold decode32; rw [h]; rfl
theorem op_0x18 (w : BitVec 32) (h : fOp w = 0x18) : decode32 w = decAfp w := by
  unfold decode32; rw [h]; rfl
theorem op_0x19 (w : BitVec 32) (h : fOp w = 0x19) : decode32 w = decFut w := by
  unfold decode32; rw [h]; rfl
theorem op_0x1A (w : BitVec 32) (h : fOp w = 0x1A) : decode32 w = decFence w := by
  unfold decode32; rw [h]; rfl
theorem op_0x1B (w : BitVec 32) (h : fOp w = 0x1B) : decode32 w = decRing w := by
  unfold decode32; rw [h]; rfl
theorem op_0x20 (w : BitVec 32) (h : fOp w = 0x20) : decode32 w = decPbr w := by
  unfold decode32; rw [h]; rfl
theorem op_0x21 (w : BitVec 32) (h : fOp w = 0x21) : decode32 w = decPbrr w := by
  unfold decode32; rw [h]; rfl
theorem op_0x22 (w : BitVec 32) (h : fOp w = 0x22) : decode32 w = decBr w := by
  unfold decode32; rw [h]; rfl
theorem op_0x23 (w : BitVec 32) (h : fOp w = 0x23) : decode32 w = decLoop w := by
  unfold decode32; rw [h]; rfl
theorem op_0x24 (w : BitVec 32) (h : fOp w = 0x24) : decode32 w = decLbrk w := by
  unfold decode32; rw [h]; rfl
theorem op_0x28 (w : BitVec 32) (h : fOp w = 0x28) : decode32 w = decEnq w := by
  unfold decode32; rw [h]; rfl
theorem op_0x29 (w : BitVec 32) (h : fOp w = 0x29) : decode32 w = decEnqs w := by
  unfold decode32; rw [h]; rfl
theorem op_0x2A (w : BitVec 32) (h : fOp w = 0x2A) : decode32 w = decEngCtl w := by
  unfold decode32; rw [h]; rfl
theorem op_0x2B (w : BitVec 32) (h : fOp w = 0x2B) : decode32 w = decSem w := by
  unfold decode32; rw [h]; rfl
theorem op_0x2C (w : BitVec 32) (h : fOp w = 0x2C) : decode32 w = decChurn w := by
  unfold decode32; rw [h]; rfl
theorem op_0x2D (w : BitVec 32) (h : fOp w = 0x2D) : decode32 w = decLa w := by
  unfold decode32; rw [h]; rfl
theorem op_0x2E (w : BitVec 32) (h : fOp w = 0x2E) : decode32 w = decPower w := by
  unfold decode32; rw [h]; rfl
theorem op_0x30 (w : BitVec 32) (h : fOp w = 0x30) : decode32 w = decCr w := by
  unfold decode32; rw [h]; rfl
theorem op_0x31 (w : BitVec 32) (h : fOp w = 0x31) : decode32 w = decSys w := by
  unfold decode32; rw [h]; rfl

end Sys2Proof.Laws
end

