-- ==== Sys2Proof/Laws/PerInstr.lean ====
section
/-!
SUPPORT. One lemma per instruction: the family RoundTrip says that the decoder reads a well-formed
instruction's word back as that instruction, every operand at every value (03 R55-R65).
-/
namespace Sys2Proof.Laws

/-- The decoder reads the word of `i` back as `i`: a 16-bit word in a queue of its class. -/
def Back (i : Instr) : Prop := match encode i with
  | .w32 w => decode32 w = .ok i
  | .w16 w => ∀ e, classOk e i = true → decode16 e w = .ok i
  | .event => True
namespace RoundTrip
set_option Elab.async false
/-- A well-formed instruction's word decodes to it. -/
def Statement (i : Instr) : Prop := WellFormed i = true → Back i
theorem add d a b g : Statement (.add d a b g) := by
  intro _
  show decode32 _ = _
  rw [op_0x01 _ (fOp_encA ..)]
  simp [decAlu, fD_encA, fA_encA, fB_encA, fF_encA, fG_encA]
theorem sub d a b g : Statement (.sub d a b g) := by
  intro _
  show decode32 _ = _
  rw [op_0x01 _ (fOp_encA ..)]
  simp [decAlu, fD_encA, fA_encA, fB_encA, fF_encA, fG_encA]
theorem and d a b g : Statement (.and d a b g) := by
  intro _
  show decode32 _ = _
  rw [op_0x01 _ (fOp_encA ..)]
  simp [decAlu, fD_encA, fA_encA, fB_encA, fF_encA, fG_encA]
theorem or d a b g : Statement (.or d a b g) := by
  intro _
  show decode32 _ = _
  rw [op_0x01 _ (fOp_encA ..)]
  simp [decAlu, fD_encA, fA_encA, fB_encA, fF_encA, fG_encA]
theorem xor d a b g : Statement (.xor d a b g) := by
  intro _
  show decode32 _ = _
  rw [op_0x01 _ (fOp_encA ..)]
  simp [decAlu, fD_encA, fA_encA, fB_encA, fF_encA, fG_encA]
theorem andn d a b g : Statement (.andn d a b g) := by
  intro _
  show decode32 _ = _
  rw [op_0x01 _ (fOp_encA ..)]
  simp [decAlu, fD_encA, fA_encA, fB_encA, fF_encA, fG_encA]
theorem shl d a b g : Statement (.shl d a b g) := by
  intro _
  show decode32 _ = _
  rw [op_0x01 _ (fOp_encA ..)]
  simp [decAlu, fD_encA, fA_encA, fB_encA, fF_encA, fG_encA]
theorem shr d a b g : Statement (.shr d a b g) := by
  intro _
  show decode32 _ = _
  rw [op_0x01 _ (fOp_encA ..)]
  simp [decAlu, fD_encA, fA_encA, fB_encA, fF_encA, fG_encA]
theorem sar d a b g : Statement (.sar d a b g) := by
  intro _
  show decode32 _ = _
  rw [op_0x01 _ (fOp_encA ..)]
  simp [decAlu, fD_encA, fA_encA, fB_encA, fF_encA, fG_encA]
theorem rol d a b g : Statement (.rol d a b g) := by
  intro _
  show decode32 _ = _
  rw [op_0x01 _ (fOp_encA ..)]
  simp [decAlu, fD_encA, fA_encA, fB_encA, fF_encA, fG_encA]
theorem min d a b g : Statement (.min d a b g) := by
  intro _
  show decode32 _ = _
  rw [op_0x01 _ (fOp_encA ..)]
  simp [decAlu, fD_encA, fA_encA, fB_encA, fF_encA, fG_encA]
theorem max d a b g : Statement (.max d a b g) := by
  intro _
  show decode32 _ = _
  rw [op_0x01 _ (fOp_encA ..)]
  simp [decAlu, fD_encA, fA_encA, fB_encA, fF_encA, fG_encA]
theorem minu d a b g : Statement (.minu d a b g) := by
  intro _
  show decode32 _ = _
  rw [op_0x01 _ (fOp_encA ..)]
  simp [decAlu, fD_encA, fA_encA, fB_encA, fF_encA, fG_encA]
theorem maxu d a b g : Statement (.maxu d a b g) := by
  intro _
  show decode32 _ = _
  rw [op_0x01 _ (fOp_encA ..)]
  simp [decAlu, fD_encA, fA_encA, fB_encA, fF_encA, fG_encA]
theorem clz d a g : Statement (.clz d a g) := by
  intro _
  show decode32 _ = _
  rw [op_0x01 _ (fOp_encA ..)]
  simp [decAlu, fD_encA, fA_encA, fB_encA, fF_encA, fG_encA, chk]
theorem ctz d a g : Statement (.ctz d a g) := by
  intro _
  show decode32 _ = _
  rw [op_0x01 _ (fOp_encA ..)]
  simp [decAlu, fD_encA, fA_encA, fB_encA, fF_encA, fG_encA, chk]
theorem popc d a g : Statement (.popc d a g) := by
  intro _
  show decode32 _ = _
  rw [op_0x01 _ (fOp_encA ..)]
  simp [decAlu, fD_encA, fA_encA, fB_encA, fF_encA, fG_encA, chk]
theorem sextB d a g : Statement (.sextB d a g) := by
  intro _
  show decode32 _ = _
  rw [op_0x01 _ (fOp_encA ..)]
  simp [decAlu, fD_encA, fA_encA, fB_encA, fF_encA, fG_encA, chk]
theorem sextH d a g : Statement (.sextH d a g) := by
  intro _
  show decode32 _ = _
  rw [op_0x01 _ (fOp_encA ..)]
  simp [decAlu, fD_encA, fA_encA, fB_encA, fF_encA, fG_encA, chk]
theorem sextW d a g : Statement (.sextW d a g) := by
  intro _
  show decode32 _ = _
  rw [op_0x01 _ (fOp_encA ..)]
  simp [decAlu, fD_encA, fA_encA, fB_encA, fF_encA, fG_encA, chk]
theorem zextB d a g : Statement (.zextB d a g) := by
  intro _
  show decode32 _ = _
  rw [op_0x01 _ (fOp_encA ..)]
  simp [decAlu, fD_encA, fA_encA, fB_encA, fF_encA, fG_encA, chk]
theorem zextH d a g : Statement (.zextH d a g) := by
  intro _
  show decode32 _ = _
  rw [op_0x01 _ (fOp_encA ..)]
  simp [decAlu, fD_encA, fA_encA, fB_encA, fF_encA, fG_encA, chk]
theorem zextW d a g : Statement (.zextW d a g) := by
  intro _
  show decode32 _ = _
  rw [op_0x01 _ (fOp_encA ..)]
  simp [decAlu, fD_encA, fA_encA, fB_encA, fF_encA, fG_encA, chk]
theorem shadd1 d a b g : Statement (.shadd1 d a b g) := by
  intro _
  show decode32 _ = _
  rw [op_0x01 _ (fOp_encA ..)]
  simp [decAlu, fD_encA, fA_encA, fB_encA, fF_encA, fG_encA]
theorem shadd2 d a b g : Statement (.shadd2 d a b g) := by
  intro _
  show decode32 _ = _
  rw [op_0x01 _ (fOp_encA ..)]
  simp [decAlu, fD_encA, fA_encA, fB_encA, fF_encA, fG_encA]
theorem shadd3 d a b g : Statement (.shadd3 d a b g) := by
  intro _
  show decode32 _ = _
  rw [op_0x01 _ (fOp_encA ..)]
  simp [decAlu, fD_encA, fA_encA, fB_encA, fF_encA, fG_encA]
theorem shadd4 d a b g : Statement (.shadd4 d a b g) := by
  intro _
  show decode32 _ = _
  rw [op_0x01 _ (fOp_encA ..)]
  simp [decAlu, fD_encA, fA_encA, fB_encA, fF_encA, fG_encA]
theorem addi d a i g : Statement (.addi d a i g) := by
  intro _
  show decode32 _ = _
  rw [op_0x02 _ (fOp_encI ..)]
  simp [fD_encI, fA_encI, fI13_encI, fG_encI]
theorem andi d a i g : Statement (.andi d a i g) := by
  intro _
  show decode32 _ = _
  rw [op_0x03 _ (fOp_encI ..)]
  simp [fD_encI, fA_encI, fI13_encI, fG_encI]
theorem ori d a i g : Statement (.ori d a i g) := by
  intro _
  show decode32 _ = _
  rw [op_0x04 _ (fOp_encI ..)]
  simp [fD_encI, fA_encI, fI13_encI, fG_encI]
theorem xori d a i g : Statement (.xori d a i g) := by
  intro _
  show decode32 _ = _
  rw [op_0x05 _ (fOp_encI ..)]
  simp [fD_encI, fA_encI, fI13_encI, fG_encI]
theorem shli d a s g : Statement (.shli d a s g) := by
  intro _
  show decode32 _ = _
  rw [op_0x06 _ (fOp_encI ..)]
  simp only [decShift, fD_encI, fA_encI, fI13_encI, fG_encI, part_2_5_6_0, part_2_5_6_1, part_2_5_6_2]
  simp [chk]
theorem shri d a s g : Statement (.shri d a s g) := by
  intro _
  show decode32 _ = _
  rw [op_0x06 _ (fOp_encI ..)]
  simp only [decShift, fD_encI, fA_encI, fI13_encI, fG_encI, part_2_5_6_0, part_2_5_6_1, part_2_5_6_2]
  simp [chk]
theorem sari d a s g : Statement (.sari d a s g) := by
  intro _
  show decode32 _ = _
  rw [op_0x06 _ (fOp_encI ..)]
  simp only [decShift, fD_encI, fA_encI, fI13_encI, fG_encI, part_2_5_6_0, part_2_5_6_1, part_2_5_6_2]
  simp [chk]
theorem li d i g : Statement (.li d i g) := by
  intro _
  show decode32 _ = _
  rw [op_0x07 _ (fOp_encU ..)]
  simp [fD_encU, fI18_encU, fG_encU]
theorem lih d i g : Statement (.lih d i g) := by
  intro _
  show decode32 _ = _
  rw [op_0x08 _ (fOp_encU ..)]
  simp [fD_encU, fI18_encU, fG_encU]
theorem mul d a b g : Statement (.mul d a b g) := by
  intro _
  show decode32 _ = _
  rw [op_0x09 _ (fOp_encA ..)]
  simp [decMul, fD_encA, fA_encA, fB_encA, fF_encA, fG_encA]
theorem mulh d a b g : Statement (.mulh d a b g) := by
  intro _
  show decode32 _ = _
  rw [op_0x09 _ (fOp_encA ..)]
  simp [decMul, fD_encA, fA_encA, fB_encA, fF_encA, fG_encA]
theorem mulhu d a b g : Statement (.mulhu d a b g) := by
  intro _
  show decode32 _ = _
  rw [op_0x09 _ (fOp_encA ..)]
  simp [decMul, fD_encA, fA_encA, fB_encA, fF_encA, fG_encA]
theorem div d a b g : Statement (.div d a b g) := by
  intro _
  show decode32 _ = _
  rw [op_0x09 _ (fOp_encA ..)]
  simp [decMul, fD_encA, fA_encA, fB_encA, fF_encA, fG_encA]
theorem divu d a b g : Statement (.divu d a b g) := by
  intro _
  show decode32 _ = _
  rw [op_0x09 _ (fOp_encA ..)]
  simp [decMul, fD_encA, fA_encA, fB_encA, fF_encA, fG_encA]
theorem rem d a b g : Statement (.rem d a b g) := by
  intro _
  show decode32 _ = _
  rw [op_0x09 _ (fOp_encA ..)]
  simp [decMul, fD_encA, fA_encA, fB_encA, fF_encA, fG_encA]
theorem remu d a b g : Statement (.remu d a b g) := by
  intro _
  show decode32 _ = _
  rw [op_0x09 _ (fOp_encA ..)]
  simp [decMul, fD_encA, fA_encA, fB_encA, fF_encA, fG_encA]
theorem cmp d a b c g : Statement (.cmp d a b c g) := by
  intro h
  simp [WellFormed] at h
  show decode32 _ = _
  rw [op_0x0A _ (fOp_encA ..)]
  simp only [decCmp, predOk, fD_encA, fA_encA, fB_encA, fF_encA, fG_encA, part_2_3_0, part_2_3_1, part_5_3_1, fPD_eq]
  simp [chk, toNat_0_3, h, Nat.not_lt]
theorem cmpi d a c i g : Statement (.cmpi d a c i g) := by
  intro h
  simp [WellFormed] at h
  show decode32 _ = _
  rw [op_0x0B _ (fOp_encI ..)]
  simp only [decCmpi, predOk, fD_encI, fA_encI, fI13_encI, fG_encI, part_2_3_0, part_2_3_1, part_3_10_0, part_3_10_1, fPD_eq]
  simp [chk, h, Nat.not_lt]
theorem plog d a b t g : Statement (.plog d a b t g) := by
  intro _
  show decode32 _ = _
  rw [op_0x0C _ (fOp_encA ..)]
  simp only [decPred, predOk, fD_encA, fA_encA, fB_encA, fF_encA, fG_encA, part_2_3_0, part_2_3_1, part_4_4_0, part_4_4_1, fPD_eq]
  simp [chk]
theorem pset d a g : Statement (.pset d a g) := by
  intro _
  show decode32 _ = _
  rw [op_0x0C _ (fOp_encA ..)]
  simp only [decPred, predOk, fD_encA, fA_encA, fB_encA, fF_encA, fG_encA, part_2_3_0, part_2_3_1, fPD_eq]
  simp [chk]
theorem sel d a b n g : Statement (.sel d a b n g) := by
  intro _
  show decode32 _ = _
  rw [op_0x0C _ (fOp_encA ..)]
  simp only [decPred, predOk, fD_encA, fA_encA, fB_encA, fF_encA, fG_encA, part_5_3_0, part_5_3_1, fPD_eq, sel_hi]
  simp [sel_ne]
theorem fadd d a b g : Statement (.fadd d a b g) := by
  intro _
  show decode32 _ = _
  rw [op_0x0D _ (fOp_encA ..)]
  simp [decFp, fD_encA, fA_encA, fB_encA, fF_encA, fG_encA]
theorem fsub d a b g : Statement (.fsub d a b g) := by
  intro _
  show decode32 _ = _
  rw [op_0x0D _ (fOp_encA ..)]
  simp [decFp, fD_encA, fA_encA, fB_encA, fF_encA, fG_encA]
theorem fmul d a b g : Statement (.fmul d a b g) := by
  intro _
  show decode32 _ = _
  rw [op_0x0D _ (fOp_encA ..)]
  simp [decFp, fD_encA, fA_encA, fB_encA, fF_encA, fG_encA]
theorem ffma d a b g : Statement (.ffma d a b g) := by
  intro _
  show decode32 _ = _
  rw [op_0x0D _ (fOp_encA ..)]
  simp [decFp, fD_encA, fA_encA, fB_encA, fF_encA, fG_encA]
theorem fdiv d a b g : Statement (.fdiv d a b g) := by
  intro _
  show decode32 _ = _
  rw [op_0x0D _ (fOp_encA ..)]
  simp [decFp, fD_encA, fA_encA, fB_encA, fF_encA, fG_encA]
theorem fsqrt d a g : Statement (.fsqrt d a g) := by
  intro _
  show decode32 _ = _
  rw [op_0x0D _ (fOp_encA ..)]
  simp [decFp, fD_encA, fA_encA, fB_encA, fF_encA, fG_encA, chk]
theorem fmin d a b g : Statement (.fmin d a b g) := by
  intro _
  show decode32 _ = _
  rw [op_0x0D _ (fOp_encA ..)]
  simp [decFp, fD_encA, fA_encA, fB_encA, fF_encA, fG_encA]
theorem fmax d a b g : Statement (.fmax d a b g) := by
  intro _
  show decode32 _ = _
  rw [op_0x0D _ (fOp_encA ..)]
  simp [decFp, fD_encA, fA_encA, fB_encA, fF_encA, fG_encA]
theorem fsgnJ d a b g : Statement (.fsgnJ d a b g) := by
  intro _
  show decode32 _ = _
  rw [op_0x0D _ (fOp_encA ..)]
  simp [decFp, fD_encA, fA_encA, fB_encA, fF_encA, fG_encA]
theorem fsgnN d a b g : Statement (.fsgnN d a b g) := by
  intro _
  show decode32 _ = _
  rw [op_0x0D _ (fOp_encA ..)]
  simp [decFp, fD_encA, fA_encA, fB_encA, fF_encA, fG_encA]
theorem fsgnX d a b g : Statement (.fsgnX d a b g) := by
  intro _
  show decode32 _ = _
  rw [op_0x0D _ (fOp_encA ..)]
  simp [decFp, fD_encA, fA_encA, fB_encA, fF_encA, fG_encA]
theorem fcmpEq d a b g : Statement (.fcmpEq d a b g) := by
  intro _
  show decode32 _ = _
  rw [op_0x0D _ (fOp_encA ..)]
  simp only [decFp, predOk, fD_encA, fA_encA, fB_encA, fF_encA, fG_encA, part_2_3_0, part_2_3_1, fPD_eq]
  simp [chk]
theorem fcmpNe d a b g : Statement (.fcmpNe d a b g) := by
  intro _
  show decode32 _ = _
  rw [op_0x0D _ (fOp_encA ..)]
  simp only [decFp, predOk, fD_encA, fA_encA, fB_encA, fF_encA, fG_encA, part_2_3_0, part_2_3_1, fPD_eq]
  simp [chk]
theorem fcmpLt d a b g : Statement (.fcmpLt d a b g) := by
  intro _
  show decode32 _ = _
  rw [op_0x0D _ (fOp_encA ..)]
  simp only [decFp, predOk, fD_encA, fA_encA, fB_encA, fF_encA, fG_encA, part_2_3_0, part_2_3_1, fPD_eq]
  simp [chk]
theorem fcmpGe d a b g : Statement (.fcmpGe d a b g) := by
  intro _
  show decode32 _ = _
  rw [op_0x0D _ (fOp_encA ..)]
  simp only [decFp, predOk, fD_encA, fA_encA, fB_encA, fF_encA, fG_encA, part_2_3_0, part_2_3_1, fPD_eq]
  simp [chk]
theorem fcvtFI d a g : Statement (.fcvtFI d a g) := by
  intro _
  show decode32 _ = _
  rw [op_0x0E _ (fOp_encA ..)]
  simp [decCvt, fD_encA, fA_encA, fB_encA, fF_encA, fG_encA, chk]
theorem fcvtFIu d a g : Statement (.fcvtFIu d a g) := by
  intro _
  show decode32 _ = _
  rw [op_0x0E _ (fOp_encA ..)]
  simp [decCvt, fD_encA, fA_encA, fB_encA, fF_encA, fG_encA, chk]
theorem fcvtIF d a g : Statement (.fcvtIF d a g) := by
  intro _
  show decode32 _ = _
  rw [op_0x0E _ (fOp_encA ..)]
  simp [decCvt, fD_encA, fA_encA, fB_encA, fF_encA, fG_encA, chk]
theorem fcvtIuF d a g : Statement (.fcvtIuF d a g) := by
  intro _
  show decode32 _ = _
  rw [op_0x0E _ (fOp_encA ..)]
  simp [decCvt, fD_encA, fA_encA, fB_encA, fF_encA, fG_encA, chk]
theorem fcvtFB d a g : Statement (.fcvtFB d a g) := by
  intro _
  show decode32 _ = _
  rw [op_0x0E _ (fOp_encA ..)]
  simp [decCvt, fD_encA, fA_encA, fB_encA, fF_encA, fG_encA, chk]
theorem fcvtBF d a g : Statement (.fcvtBF d a g) := by
  intro _
  show decode32 _ = _
  rw [op_0x0E _ (fOp_encA ..)]
  simp [decCvt, fD_encA, fA_encA, fB_encA, fF_encA, fG_encA, chk]
theorem fclass d a g : Statement (.fclass d a g) := by
  intro _
  show decode32 _ = _
  rw [op_0x0E _ (fOp_encA ..)]
  simp [decCvt, fD_encA, fA_encA, fB_encA, fF_encA, fG_encA, chk]
theorem ld d a w o g : Statement (.ld d a w o g) := by
  intro _
  show decode32 _ = _
  rw [op_0x10 _ (fOp_encI ..)]
  simp only [decLoad, fD_encI, fA_encI, fI13_encI, fG_encI, part_1_2_10_2, part_1_2_1, fW_eq, fO_eq, hi_1_2_10]
  have := size_ne w
  split <;> simp_all
theorem lduB d a o g : Statement (.lduB d a o g) := by
  intro _
  show decode32 _ = _
  rw [op_0x10 _ (fOp_encI ..)]
  simp only [decLoad, fD_encI, fA_encI, fI13_encI, fG_encI, part_3_10_0, part_3_10_1, fW_eq, fO_eq]
  simp
theorem lduH d a o g : Statement (.lduH d a o g) := by
  intro _
  show decode32 _ = _
  rw [op_0x10 _ (fOp_encI ..)]
  simp only [decLoad, fD_encI, fA_encI, fI13_encI, fG_encI, part_3_10_0, part_3_10_1, fW_eq, fO_eq]
  simp
theorem lduW d a o g : Statement (.lduW d a o g) := by
  intro _
  show decode32 _ = _
  rw [op_0x10 _ (fOp_encI ..)]
  simp only [decLoad, fD_encI, fA_encI, fI13_encI, fG_encI, part_3_10_0, part_3_10_1, fW_eq, fO_eq]
  simp
theorem pref l a o g : Statement (.pref l a o g) := by
  intro h
  simp [WellFormed] at h
  show decode32 _ = _
  rw [op_0x10 _ (fOp_encI ..)]
  simp only [decLoad, fD_encI, fA_encI, fI13_encI, fG_encI, part_3_10_0, part_3_10_1, fW_eq, fO_eq]
  simp [h, Nat.not_lt]
theorem st d a w o g : Statement (.st d a w o g) := by
  intro _
  show decode32 _ = _
  rw [op_0x11 _ (fOp_encI ..)]
  simp only [decSized, fD_encI, fA_encI, fI13_encI, fG_encI, part_1_2_10_2, part_1_2_1, fW_eq, fO_eq, bit_1_2, hi_1_2_10]
  simp
theorem lds d a w o g : Statement (.lds d a w o g) := by
  intro _
  show decode32 _ = _
  rw [op_0x12 _ (fOp_encI ..)]
  simp only [decSized, fD_encI, fA_encI, fI13_encI, fG_encI, part_1_2_10_2, part_1_2_1, fW_eq, fO_eq, bit_1_2, hi_1_2_10]
  simp
theorem sts d a w o g : Statement (.sts d a w o g) := by
  intro _
  show decode32 _ = _
  rw [op_0x13 _ (fOp_encI ..)]
  simp only [decSized, fD_encI, fA_encI, fI13_encI, fG_encI, part_1_2_10_2, part_1_2_1, fW_eq, fO_eq, bit_1_2, hi_1_2_10]
  simp
theorem smap d a b g : Statement (.smap d a b g) := by
  intro _
  show decode32 _ = _
  rw [op_0x14 _ (fOp_encA ..)]
  simp [decMap, fD_encA, fA_encA, fB_encA, fF_encA, fG_encA]
theorem sunmap a g : Statement (.sunmap a g) := by
  intro _
  show decode32 _ = _
  rw [op_0x14 _ (fOp_encA ..)]
  simp [decMap, fD_encA, fA_encA, fB_encA, fF_encA, fG_encA, chk]
theorem sflush a b g : Statement (.sflush a b g) := by
  intro _
  show decode32 _ = _
  rw [op_0x14 _ (fOp_encA ..)]
  simp [decMap, fD_encA, fA_encA, fB_encA, fF_encA, fG_encA, chk]
theorem sinv a b g : Statement (.sinv a b g) := by
  intro _
  show decode32 _ = _
  rw [op_0x14 _ (fOp_encA ..)]
  simp [decMap, fD_encA, fA_encA, fB_encA, fF_encA, fG_encA, chk]
theorem ttset d a b t g : Statement (.ttset d a b t g) := by
  intro _
  show decode32 _ = _
  rw [op_0x15 _ (fOp_encA ..)]
  simp only [decTile, fD_encA, fA_encA, fB_encA, fF_encA, fG_encA, part_2_6_0, part_2_6_1]
  simp
theorem ttq d t g : Statement (.ttq d t g) := by
  intro _
  show decode32 _ = _
  rw [op_0x15 _ (fOp_encA ..)]
  simp only [decTile, fD_encA, fA_encA, fB_encA, fF_encA, fG_encA, part_2_6_0, part_2_6_1]
  simp [chk]
theorem twait w t g : Statement (.twait w t g) := by
  intro _
  show decode32 _ = _
  rw [op_0x15 _ (fOp_encA ..)]
  simp only [decTile, fD_encA, fA_encA, fB_encA, fF_encA, fG_encA, part_2_6_0, part_2_6_1, part_3_1_1_1, mask_3_1_1]
  simp [chk]
theorem tdesc d s t g : Statement (.tdesc d s t g) := by
  intro _
  show decode32 _ = _
  rw [op_0x15 _ (fOp_encA ..)]
  simp only [decTile, fD_encA, fA_encA, fB_encA, fF_encA, fG_encA, part_4_1_0, part_4_1_1, part_2_6_0, part_2_6_1]
  simp [chk]
theorem amoAdd d a b z g : Statement (.amoAdd d a b z g) := by
  intro _
  show decode32 _ = _
  rw [op_0x16 _ (fOp_encA ..)]
  simp only [decAmo, fD_encA, fA_encA, fB_encA, fF_encA, fG_encA, part_3_1_4_0, part_3_1_4_1, part_3_1_4_2]
  simp [chk]
theorem amoAnd d a b z g : Statement (.amoAnd d a b z g) := by
  intro _
  show decode32 _ = _
  rw [op_0x16 _ (fOp_encA ..)]
  simp only [decAmo, fD_encA, fA_encA, fB_encA, fF_encA, fG_encA, part_3_1_4_0, part_3_1_4_1, part_3_1_4_2]
  simp [chk]
theorem amoOr d a b z g : Statement (.amoOr d a b z g) := by
  intro _
  show decode32 _ = _
  rw [op_0x16 _ (fOp_encA ..)]
  simp only [decAmo, fD_encA, fA_encA, fB_encA, fF_encA, fG_encA, part_3_1_4_0, part_3_1_4_1, part_3_1_4_2]
  simp [chk]
theorem amoXor d a b z g : Statement (.amoXor d a b z g) := by
  intro _
  show decode32 _ = _
  rw [op_0x16 _ (fOp_encA ..)]
  simp only [decAmo, fD_encA, fA_encA, fB_encA, fF_encA, fG_encA, part_3_1_4_0, part_3_1_4_1, part_3_1_4_2]
  simp [chk]
theorem amoMin d a b z g : Statement (.amoMin d a b z g) := by
  intro _
  show decode32 _ = _
  rw [op_0x16 _ (fOp_encA ..)]
  simp only [decAmo, fD_encA, fA_encA, fB_encA, fF_encA, fG_encA, part_3_1_4_0, part_3_1_4_1, part_3_1_4_2]
  simp [chk]
theorem amoMax d a b z g : Statement (.amoMax d a b z g) := by
  intro _
  show decode32 _ = _
  rw [op_0x16 _ (fOp_encA ..)]
  simp only [decAmo, fD_encA, fA_encA, fB_encA, fF_encA, fG_encA, part_3_1_4_0, part_3_1_4_1, part_3_1_4_2]
  simp [chk]
theorem amoMinu d a b z g : Statement (.amoMinu d a b z g) := by
  intro _
  show decode32 _ = _
  rw [op_0x16 _ (fOp_encA ..)]
  simp only [decAmo, fD_encA, fA_encA, fB_encA, fF_encA, fG_encA, part_3_1_4_0, part_3_1_4_1, part_3_1_4_2]
  simp [chk]
theorem amoMaxu d a b z g : Statement (.amoMaxu d a b z g) := by
  intro _
  show decode32 _ = _
  rw [op_0x16 _ (fOp_encA ..)]
  simp only [decAmo, fD_encA, fA_encA, fB_encA, fF_encA, fG_encA, part_3_1_4_0, part_3_1_4_1, part_3_1_4_2]
  simp [chk]
theorem amoSwap d a b z g : Statement (.amoSwap d a b z g) := by
  intro _
  show decode32 _ = _
  rw [op_0x16 _ (fOp_encA ..)]
  simp only [decAmo, fD_encA, fA_encA, fB_encA, fF_encA, fG_encA, part_3_1_4_0, part_3_1_4_1, part_3_1_4_2]
  simp [chk]
theorem cas d a b z g : Statement (.cas d a b z g) := by
  intro _
  show decode32 _ = _
  rw [op_0x17 _ (fOp_encA ..)]
  simp only [decCas, fD_encA, fA_encA, fB_encA, fF_encA, fG_encA, part_7_1_0, part_7_1_1]
  simp [chk]
theorem afadd d a b g : Statement (.afadd d a b g) := by
  intro _
  show decode32 _ = _
  rw [op_0x18 _ (fOp_encA ..)]
  simp [decAfp, fD_encA, fA_encA, fB_encA, fF_encA, fG_encA]
theorem abfadd d a b g : Statement (.abfadd d a b g) := by
  intro _
  show decode32 _ = _
  rw [op_0x18 _ (fOp_encA ..)]
  simp [decAfp, fD_encA, fA_encA, fB_encA, fF_encA, fG_encA]
theorem abfsr d a b g : Statement (.abfsr d a b g) := by
  intro _
  show decode32 _ = _
  rw [op_0x18 _ (fOp_encA ..)]
  simp [decAfp, fD_encA, fA_encA, fB_encA, fF_encA, fG_encA]
theorem fsetv a b g : Statement (.fsetv a b g) := by
  intro _
  show decode32 _ = _
  rw [op_0x19 _ (fOp_encA ..)]
  simp [decFut, fD_encA, fA_encA, fB_encA, fF_encA, fG_encA, chk]
theorem fsetvR a b g : Statement (.fsetvR a b g) := by
  intro _
  show decode32 _ = _
  rw [op_0x19 _ (fOp_encA ..)]
  simp [decFut, fD_encA, fA_encA, fB_encA, fF_encA, fG_encA, chk]
theorem fgetv d a g : Statement (.fgetv d a g) := by
  intro _
  show decode32 _ = _
  rw [op_0x19 _ (fOp_encA ..)]
  simp [decFut, fD_encA, fA_encA, fB_encA, fF_encA, fG_encA, chk]
theorem ftake d a g : Statement (.ftake d a g) := by
  intro _
  show decode32 _ = _
  rw [op_0x19 _ (fOp_encA ..)]
  simp [decFut, fD_encA, fA_encA, fB_encA, fF_encA, fG_encA, chk]
theorem fenceAcq s g : Statement (.fenceAcq s g) := by
  intro h
  simp [WellFormed] at h
  show decode32 _ = _
  rw [op_0x1A _ (fOp_encI ..)]
  simp only [decFence, fD_encI, fA_encI, fI13_encI, fG_encI, part_3_4_6_0, part_3_4_6_1, part_3_4_6_2]
  simp [chk, h, Nat.not_lt]
theorem fenceRel s g : Statement (.fenceRel s g) := by
  intro h
  simp [WellFormed] at h
  show decode32 _ = _
  rw [op_0x1A _ (fOp_encI ..)]
  simp only [decFence, fD_encI, fA_encI, fI13_encI, fG_encI, part_3_4_6_0, part_3_4_6_1, part_3_4_6_2]
  simp [chk, h, Nat.not_lt]
theorem fenceFull s g : Statement (.fenceFull s g) := by
  intro h
  simp [WellFormed] at h
  show decode32 _ = _
  rw [op_0x1A _ (fOp_encI ..)]
  simp only [decFence, fD_encI, fA_encI, fI13_encI, fG_encI, part_3_4_6_0, part_3_4_6_1, part_3_4_6_2]
  simp [chk, h, Nat.not_lt]
theorem fencePub s g : Statement (.fencePub s g) := by
  intro h
  simp [WellFormed] at h
  show decode32 _ = _
  rw [op_0x1A _ (fOp_encI ..)]
  simp only [decFence, fD_encI, fA_encI, fI13_encI, fG_encI, part_3_4_6_0, part_3_4_6_1, part_3_4_6_2]
  simp [chk, h, Nat.not_lt]
theorem fencePers g : Statement (.fencePers g) := by
  intro _
  show decode32 _ = _
  rw [op_0x1A _ (fOp_encI ..)]
  simp only [decFence, fD_encI, fA_encI, fI13_encI, fG_encI, part_3_4_6_0, part_3_4_6_1, part_3_4_6_2]
  simp [chk]
theorem waitv d a g : Statement (.waitv d a g) := by
  intro _
  show decode32 _ = _
  rw [op_0x1A _ (fOp_encI ..)]
  simp only [decFence, fD_encI, fA_encI, fI13_encI, fG_encI, part_3_4_6_0, part_3_4_6_1, part_3_4_6_2]
  simp [chk]
theorem rsend a r g : Statement (.rsend a r g) := by
  intro h
  simp [WellFormed] at h
  show decode32 _ = _
  rw [op_0x1B _ (fOp_encA ..)]
  simp only [decRing, predOk, fD_encA, fA_encA, fB_encA, fF_encA, fG_encA, part_4_1_3_0, part_4_1_3_2, fPD_eq, bit_4_1_3]
  simp [chk, h, Nat.not_lt]
theorem rrecv d r g : Statement (.rrecv d r g) := by
  intro h
  simp [WellFormed] at h
  show decode32 _ = _
  rw [op_0x1B _ (fOp_encA ..)]
  simp only [decRing, predOk, fD_encA, fA_encA, fB_encA, fF_encA, fG_encA, part_4_1_3_0, part_4_1_3_2, fPD_eq, bit_4_1_3]
  simp [chk, h, Nat.not_lt]
theorem rpoll d r g : Statement (.rpoll d r g) := by
  intro h
  simp [WellFormed] at h
  show decode32 _ = _
  rw [op_0x1B _ (fOp_encA ..)]
  simp only [decRing, predOk, fD_encA, fA_encA, fB_encA, fF_encA, fG_encA, part_2_3_0, part_2_3_1, part_4_1_3_0, part_4_1_3_2, fPD_eq, bit_4_1_3]
  simp [chk, h, Nat.not_lt]
theorem carrive n g : Statement (.carrive n g) := by
  intro _
  show decode32 _ = _
  rw [op_0x1B _ (fOp_encA ..)]
  simp only [decRing, predOk, fD_encA, fA_encA, fB_encA, fF_encA, fG_encA, part_4_1_3_0, part_4_1_3_2, fPD_eq, bit_4_1_3]
  simp [chk]
theorem cwait n g : Statement (.cwait n g) := by
  intro _
  show decode32 _ = _
  rw [op_0x1B _ (fOp_encA ..)]
  simp only [decRing, predOk, fD_encA, fA_encA, fB_encA, fF_encA, fG_encA, part_4_1_3_0, part_4_1_3_2, fPD_eq, bit_4_1_3]
  simp [chk]
theorem pbr t i g : Statement (.pbr t i g) := by
  intro _
  show decode32 _ = _
  rw [op_0x20 _ (fOp_encB ..)]
  simp only [decPbr, fBT_encB, fG_encB, fI20_encB]
theorem pbrr t a g : Statement (.pbrr t a g) := by
  intro _
  show decode32 _ = _
  rw [op_0x21 _ (fOp_encB ..)]
  simp only [decPbrr, fBT_encB, fG_encB, part_5_15_0, part_5_15_1, ext_3_15, ext_18_5, fI20_encB]
  simp [chk]
theorem br t p n g : Statement (.br t p n g) := by
  intro _
  show decode32 _ = _
  rw [op_0x22 _ (fOp_encB ..)]
  simp only [decBr, fBT_encB, fG_encB, part_3_1_1_15_0, part_3_1_1_15_1, part_3_1_1_15_3, ext_3_15, ext_20_3, ext_19_1, bit_18, fI20_encB, bit_3_1_1_15]
  simp [chk]
theorem brl t p n g : Statement (.brl t p n g) := by
  intro _
  show decode32 _ = _
  rw [op_0x22 _ (fOp_encB ..)]
  simp only [decBr, fBT_encB, fG_encB, part_3_1_1_15_0, part_3_1_1_15_1, part_3_1_1_15_3, ext_3_15, ext_20_3, ext_19_1, bit_18, fI20_encB, bit_3_1_1_15]
  simp [chk]
theorem loop t c a g : Statement (.loop t c a g) := by
  intro _
  show decode32 _ = _
  rw [op_0x23 _ (fOp_encI ..)]
  simp only [decLoop, fBT_eq, fD_encI, fA_encI, fI13_encI, fG_encI, part_3_2_0, part_3_2_1, part_1_2_10_1, part_1_2_10_2, fLC_eq, ext_13_2, ext_3_10, bit_15, bit_1_2_10]
  simp [chk]
theorem loopSwp t c a s g : Statement (.loopSwp t c a s g) := by
  intro h
  simp [WellFormed] at h
  show decode32 _ = _
  rw [op_0x23 _ (fOp_encI ..)]
  simp only [decLoop, fBT_eq, fD_encI, fA_encI, fI13_encI, fG_encI, part_3_2_0, part_3_2_1, part_1_2_10_1, part_1_2_10_2, fLC_eq, ext_13_2, ext_3_10, bit_15, bit_1_2_10]
  simp [chk, h]
theorem lbrk c g : Statement (.lbrk c g) := by
  intro _
  show decode32 _ = _
  rw [op_0x24 _ (fOp_encA ..)]
  simp only [decLbrk, fD_encA, fA_encA, fB_encA, fF_encA, fG_encA, part_3_2_0, part_3_2_1, fLC_eq, ext_23_3]
  simp [chk]
theorem enq e a b n g : Statement (.enq e a b n g) := by
  intro h
  simp [WellFormed, engCodeOk] at h
  show decode32 _ = _
  rw [op_0x28 _ (fOp_encA ..)]
  simp only [decEnq, fD_encA, fA_encA, fB_encA, fF_encA, fG_encA, part_5_3_0, part_5_3_1]
  simp [chk, h, Nat.not_lt]
theorem enqs e a b g : Statement (.enqs e a b g) := by
  intro h
  simp [WellFormed, engCodeOk] at h
  show decode32 _ = _
  rw [op_0x29 _ (fOp_encA ..)]
  simp only [decEnqs, fD_encA, fA_encA, fB_encA, fF_encA, fG_encA]
  simp [h, Nat.not_lt]
theorem ebusy e p g : Statement (.ebusy e p g) := by
  intro h
  simp [WellFormed, engCodeOk] at h
  show decode32 _ = _
  rw [op_0x2A _ (fOp_encA ..)]
  simp only [decEngCtl, predOk, fD_encA, fA_encA, fB_encA, fF_encA, fG_encA, part_2_3_0, part_2_3_1]
  simp [chk, h, Nat.not_lt]
theorem efence e g : Statement (.efence e g) := by
  intro h
  simp [WellFormed, engCodeOk] at h
  show decode32 _ = _
  rw [op_0x2A _ (fOp_encA ..)]
  simp only [decEngCtl, predOk, fD_encA, fA_encA, fB_encA, fF_encA, fG_encA]
  simp [chk, h, Nat.not_lt]
theorem estat e d g : Statement (.estat e d g) := by
  intro h
  simp [WellFormed, engCodeOk] at h
  show decode32 _ = _
  rw [op_0x2A _ (fOp_encA ..)]
  simp only [decEngCtl, predOk, fD_encA, fA_encA, fB_encA, fF_encA, fG_encA]
  simp [chk, h, Nat.not_lt]
theorem lease g : Statement (.lease g) := by
  intro _
  show decode32 _ = _
  rw [op_0x2A _ (fOp_encA ..)]
  simp [decEngCtl, fD_encA, fA_encA, fB_encA, fF_encA, fG_encA, chk]
theorem lrel g : Statement (.lrel g) := by
  intro _
  show decode32 _ = _
  rw [op_0x2A _ (fOp_encA ..)]
  simp [decEngCtl, fD_encA, fA_encA, fB_encA, fF_encA, fG_encA, chk]
theorem kwait a k g : Statement (.kwait a k g) := by
  intro _
  show decode32 _ = _
  rw [op_0x2B _ (fOp_encA ..)]
  simp [decSem, fD_encA, fA_encA, fB_encA, fF_encA, fG_encA, chk]
theorem ksig a k g : Statement (.ksig a k g) := by
  intro _
  show decode32 _ = _
  rw [op_0x2B _ (fOp_encA ..)]
  simp [decSem, fD_encA, fA_encA, fB_encA, fF_encA, fG_encA, chk]
theorem kset a k g : Statement (.kset a k g) := by
  intro _
  show decode32 _ = _
  rw [op_0x2B _ (fOp_encA ..)]
  simp [decSem, fD_encA, fA_encA, fB_encA, fF_encA, fG_encA, chk]
theorem kread d k g : Statement (.kread d k g) := by
  intro _
  show decode32 _ = _
  rw [op_0x2B _ (fOp_encA ..)]
  simp [decSem, fD_encA, fA_encA, fB_encA, fF_encA, fG_encA, chk]
theorem chins p a b q g : Statement (.chins p a b q g) := by
  intro _
  show decode32 _ = _
  rw [op_0x2C _ (fOp_encA ..)]
  simp only [decChurn, fD_encA, fA_encA, fB_encA, fF_encA, fG_encA, part_2_6_0, part_2_6_1, part_1_1_3_2, fPD_eq, bit_1_1_3_hi, bit_1_1_3_lo]
  simp [chk]
theorem chinsw p a b q g : Statement (.chinsw p a b q g) := by
  intro _
  show decode32 _ = _
  rw [op_0x2C _ (fOp_encA ..)]
  simp only [decChurn, fD_encA, fA_encA, fB_encA, fF_encA, fG_encA, part_2_6_0, part_2_6_1, part_1_1_3_2, fPD_eq, bit_1_1_3_hi, bit_1_1_3_lo]
  simp [chk]
theorem chtake d a q g : Statement (.chtake d a q g) := by
  intro _
  show decode32 _ = _
  rw [op_0x2C _ (fOp_encA ..)]
  simp only [decChurn, fD_encA, fA_encA, fB_encA, fF_encA, fG_encA, part_2_6_0, part_2_6_1, fPD_eq]
  simp [chk]
theorem chdone a q g : Statement (.chdone a q g) := by
  intro _
  show decode32 _ = _
  rw [op_0x2C _ (fOp_encA ..)]
  simp only [decChurn, fD_encA, fA_encA, fB_encA, fF_encA, fG_encA, part_2_6_0, part_2_6_1, fPD_eq]
  simp [chk]
theorem chcfg d a b q g : Statement (.chcfg d a b q g) := by
  intro _
  show decode32 _ = _
  rw [op_0x2C _ (fOp_encA ..)]
  simp only [decChurn, fD_encA, fA_encA, fB_encA, fF_encA, fG_encA, part_2_6_0, part_2_6_1, fPD_eq]
  simp
theorem labegin d a g : Statement (.labegin d a g) := by
  intro _
  show decode32 _ = _
  rw [op_0x2D _ (fOp_encA ..)]
  simp [decLa, fD_encA, fA_encA, fB_encA, fF_encA, fG_encA, chk]
theorem lastep d a b g : Statement (.lastep d a b g) := by
  intro _
  show decode32 _ = _
  rw [op_0x2D _ (fOp_encA ..)]
  simp [decLa, fD_encA, fA_encA, fB_encA, fF_encA, fG_encA]
theorem laend d g : Statement (.laend d g) := by
  intro _
  show decode32 _ = _
  rw [op_0x2D _ (fOp_encA ..)]
  simp [decLa, fD_encA, fA_encA, fB_encA, fF_encA, fG_encA, chk]
theorem laabort d g : Statement (.laabort d g) := by
  intro _
  show decode32 _ = _
  rw [op_0x2D _ (fOp_encA ..)]
  simp [decLa, fD_encA, fA_encA, fB_encA, fF_encA, fG_encA, chk]
theorem lactl d a b g : Statement (.lactl d a b g) := by
  intro _
  show decode32 _ = _
  rw [op_0x2D _ (fOp_encA ..)]
  simp [decLa, fD_encA, fA_encA, fB_encA, fF_encA, fG_encA]
theorem laq d a g : Statement (.laq d a g) := by
  intro _
  show decode32 _ = _
  rw [op_0x2D _ (fOp_encA ..)]
  simp [decLa, fD_encA, fA_encA, fB_encA, fF_encA, fG_encA, chk]
theorem pacq l g : Statement (.pacq l g) := by
  intro h
  simp [WellFormed] at h
  show decode32 _ = _
  rw [op_0x2E _ (fOp_encI ..)]
  simp only [decPower, fD_encI, fA_encI, fI13_encI, fG_encI, part_2_3_8_0, part_2_3_8_1, part_2_3_8_2]
  simp [chk, h]
theorem prel g : Statement (.prel g) := by
  intro _
  show decode32 _ = _
  rw [op_0x2E _ (fOp_encI ..)]
  simp only [decPower, fD_encI, fA_encI, fI13_encI, fG_encI, part_2_3_8_0, part_2_3_8_1, part_2_3_8_2]
  simp [chk]
theorem crr d r g : Statement (.crr d r g) := by
  intro h
  simp [WellFormed] at h
  show decode32 _ = _
  rw [op_0x30 _ (fOp_encI ..)]
  simp only [decCr, fD_encI, fA_encI, fI13_encI, fG_encI, part_2_11_0, part_2_11_1]
  simp [chk, h]
theorem crw d a r g : Statement (.crw d a r g) := by
  intro h
  simp [WellFormed] at h
  show decode32 _ = _
  rw [op_0x30 _ (fOp_encI ..)]
  simp only [decCr, fD_encI, fA_encI, fI13_encI, fG_encI, part_2_11_0, part_2_11_1]
  simp [h]
theorem crs d a r g : Statement (.crs d a r g) := by
  intro h
  simp [WellFormed] at h
  show decode32 _ = _
  rw [op_0x30 _ (fOp_encI ..)]
  simp only [decCr, fD_encI, fA_encI, fI13_encI, fG_encI, part_2_11_0, part_2_11_1]
  simp [h]
theorem crc d a r g : Statement (.crc d a r g) := by
  intro h
  simp [WellFormed] at h
  show decode32 _ = _
  rw [op_0x30 _ (fOp_encI ..)]
  simp only [decCr, fD_encI, fA_encI, fI13_encI, fG_encI, part_2_11_0, part_2_11_1]
  simp [h]
theorem trap c g : Statement (.trap c g) := by
  intro _
  show decode32 _ = _
  rw [op_0x31 _ (fOp_encI ..)]
  simp only [decSys, fD_encI, fA_encI, fI13_encI, fG_encI, part_3_10_0, part_3_10_1]
  simp [chk]
theorem tret g : Statement (.tret g) := by
  intro _
  show decode32 _ = _
  rw [op_0x31 _ (fOp_encI ..)]
  simp only [decSys, fD_encI, fA_encI, fI13_encI, fG_encI, part_3_10_0, part_3_10_1]
  simp [chk]
theorem yield g : Statement (.yield g) := by
  intro _
  show decode32 _ = _
  rw [op_0x31 _ (fOp_encI ..)]
  simp only [decSys, fD_encI, fA_encI, fI13_encI, fG_encI, part_3_10_0, part_3_10_1]
  simp [chk]
theorem wfe g : Statement (.wfe g) := by
  intro _
  show decode32 _ = _
  rw [op_0x31 _ (fOp_encI ..)]
  simp only [decSys, fD_encI, fA_encI, fI13_encI, fG_encI, part_3_10_0, part_3_10_1]
  simp [chk]
theorem cancel a l g : Statement (.cancel a l g) := by
  intro _
  show decode32 _ = _
  rw [op_0x31 _ (fOp_encI ..)]
  simp only [decSys, fD_encI, fA_encI, fI13_encI, fG_encI, part_8_2_0, part_8_2_1, part_3_8_2_0, lo_3_8_2]
  simp [chk]
theorem lit i : Statement (.lit i) := by
  exact fun _ e _ => dec_lit e i
theorem ext i : Statement (.ext i) := by
  exact fun _ e _ => dec_ext e i
theorem nop : Statement (.nop) := by
  exact fun _ e _ => by cases e <;> rfl
theorem dup : Statement (.dup) := by
  exact fun _ e _ => by cases e <;> rfl
theorem drop : Statement (.drop) := by
  exact fun _ e _ => by cases e <;> rfl
theorem swap : Statement (.swap) := by
  exact fun _ e _ => by cases e <;> rfl
theorem overW : Statement (.overW) := by
  exact fun _ e _ => by cases e <;> rfl
theorem rot : Statement (.rot) := by
  exact fun _ e _ => by cases e <;> rfl
theorem waitk k : Statement (.waitk k) := by
  intro _ e _
  show decode16 e _ = _
  rw [dec_ctl]
  simp only [decControl, part_5_5_0, part_5_5_1, part_2_4_10_1, part_2_4_10_2]
  simp [chk]
theorem sigk k : Statement (.sigk k) := by
  intro _ e _
  show decode16 e _ = _
  rw [dec_ctl]
  simp only [decControl, part_5_5_0, part_5_5_1, part_2_4_10_1, part_2_4_10_2]
  simp [chk]
theorem pred : Statement (.pred) := by
  exact fun _ e _ => by cases e <;> rfl
theorem atSlot : Statement (.atSlot) := by
  exact fun _ e _ => by cases e <;> rfl
theorem nsel u v : Statement (.nsel u v) := by
  intro h e _
  show decode16 e _ = _
  rw [dec_ctl]
  simp only [decControl, part_3_3_4_0, part_3_3_4_1, part_3_3_4_2, part_2_4_10_1, part_2_4_10_2]
  simp [WellFormed] at h
  simp [chk, h]
theorem mark m : Statement (.mark m) := by
  intro _ e _
  show decode16 e _ = _
  rw [dec_ctl]
  simp only [decControl, part_2_4_10_1, part_2_4_10_2]
  rfl
theorem ldT f : Statement (.ldT f) := by
  intro _ e he
  cases e <;> first | exact absurd he Bool.false_ne_true | exact dec_ld _ f
theorem ldG f : Statement (.ldG f) := by
  intro _ e he
  cases e <;> first | exact absurd he Bool.false_ne_true | exact dec_ld _ f
theorem ldM f : Statement (.ldM f) := by
  intro _ e he
  cases e <;> first | exact absurd he Bool.false_ne_true | exact dec_ld _ f
theorem ldS f : Statement (.ldS f) := by
  intro _ e he
  cases e <;> first | exact absurd he Bool.false_ne_true | exact dec_ld _ f
theorem ldR f : Statement (.ldR f) := by
  intro _ e he
  cases e <;> first | exact absurd he Bool.false_ne_true | exact dec_ld _ f
theorem pf f : Statement (.pf f) := by
  intro _ e he
  cases e <;> first | exact absurd he Bool.false_ne_true | exact dec_ld _ f
theorem stT f : Statement (.stT f) := by
  intro _ e he
  cases e <;> first | exact absurd he Bool.false_ne_true | exact dec_st _ f
theorem stS f : Statement (.stS f) := by
  intro _ e he
  cases e <;> first | exact absurd he Bool.false_ne_true | exact dec_st _ f
theorem stCv f : Statement (.stCv f) := by
  intro _ e he
  cases e <;> first | exact absurd he Bool.false_ne_true | exact dec_st _ f
theorem stZ f : Statement (.stZ f) := by
  intro _ e he
  cases e <;> first | exact absurd he Bool.false_ne_true | exact dec_st _ f
theorem mma f : Statement (.mma f) := by
  intro _ e he
  cases e <;> first | exact absurd he Bool.false_ne_true | exact dec_mx _ f
theorem mzero f : Statement (.mzero f) := by
  intro _ e he
  cases e <;> first | exact absurd he Bool.false_ne_true | exact dec_mx _ f
theorem mloadc f : Statement (.mloadc f) := by
  intro _ e he
  cases e <;> first | exact absurd he Bool.false_ne_true | exact dec_mx _ f
theorem mdrain f : Statement (.mdrain f) := by
  intro _ e he
  cases e <;> first | exact absurd he Bool.false_ne_true | exact dec_mx _ f
theorem mpark f : Statement (.mpark f) := by
  intro _ e he
  cases e <;> first | exact absurd he Bool.false_ne_true | exact dec_mx _ f
theorem munpark f : Statement (.munpark f) := by
  intro _ e he
  cases e <;> first | exact absurd he Bool.false_ne_true | exact dec_mx _ f
theorem msyrk f : Statement (.msyrk f) := by
  intro _ e he
  cases e <;> first | exact absurd he Bool.false_ne_true | exact dec_mx _ f
theorem mflags f : Statement (.mflags f) := by
  intro _ e he
  cases e <;> first | exact absurd he Bool.false_ne_true | exact dec_mx _ f
theorem mchol f : Statement (.mchol f) := by
  intro _ e he
  cases e <;> first | exact absurd he Bool.false_ne_true | exact dec_mx _ f
theorem mlu f : Statement (.mlu f) := by
  intro _ e he
  cases e <;> first | exact absurd he Bool.false_ne_true | exact dec_mx _ f
theorem mtrsm f : Statement (.mtrsm f) := by
  intro _ e he
  cases e <;> first | exact absurd he Bool.false_ne_true | exact dec_mx _ f
theorem mtrinv f : Statement (.mtrinv f) := by
  intro _ e he
  cases e <;> first | exact absurd he Bool.false_ne_true | exact dec_mx _ f
theorem mgqr f : Statement (.mgqr f) := by
  intro _ e he
  cases e <;> first | exact absurd he Bool.false_ne_true | exact dec_mx _ f
theorem mqapply f : Statement (.mqapply f) := by
  intro _ e he
  cases e <;> first | exact absurd he Bool.false_ne_true | exact dec_mx _ f
theorem mperm f : Statement (.mperm f) := by
  intro _ e he
  cases e <;> first | exact absurd he Bool.false_ne_true | exact dec_mx _ f
theorem mdiag f : Statement (.mdiag f) := by
  intro _ e he
  cases e <;> first | exact absurd he Bool.false_ne_true | exact dec_mx _ f
theorem vld f : Statement (.vld f) := by
  intro _ e he
  cases e <;> first | exact absurd he Bool.false_ne_true | exact dec_vx _ f
theorem vst f : Statement (.vst f) := by
  intro _ e he
  cases e <;> first | exact absurd he Bool.false_ne_true | exact dec_vx _ f
theorem vldrb f : Statement (.vldrb f) := by
  intro _ e he
  cases e <;> first | exact absurd he Bool.false_ne_true | exact dec_vx _ f
theorem vshp f : Statement (.vshp f) := by
  intro _ e he
  cases e <;> first | exact absurd he Bool.false_ne_true | exact dec_vx _ f
theorem vadd f : Statement (.vadd f) := by
  intro _ e he
  cases e <;> first | exact absurd he Bool.false_ne_true | exact dec_vx _ f
theorem vsub f : Statement (.vsub f) := by
  intro _ e he
  cases e <;> first | exact absurd he Bool.false_ne_true | exact dec_vx _ f
theorem vmul f : Statement (.vmul f) := by
  intro _ e he
  cases e <;> first | exact absurd he Bool.false_ne_true | exact dec_vx _ f
theorem vfma f : Statement (.vfma f) := by
  intro _ e he
  cases e <;> first | exact absurd he Bool.false_ne_true | exact dec_vx _ f
theorem vdiv f : Statement (.vdiv f) := by
  intro _ e he
  cases e <;> first | exact absurd he Bool.false_ne_true | exact dec_vx _ f
theorem vmin f : Statement (.vmin f) := by
  intro _ e he
  cases e <;> first | exact absurd he Bool.false_ne_true | exact dec_vx _ f
theorem vmax f : Statement (.vmax f) := by
  intro _ e he
  cases e <;> first | exact absurd he Bool.false_ne_true | exact dec_vx _ f
theorem vabs f : Statement (.vabs f) := by
  intro _ e he
  cases e <;> first | exact absurd he Bool.false_ne_true | exact dec_vx _ f
theorem vneg f : Statement (.vneg f) := by
  intro _ e he
  cases e <;> first | exact absurd he Bool.false_ne_true | exact dec_vx _ f
theorem vcmp f : Statement (.vcmp f) := by
  intro _ e he
  cases e <;> first | exact absurd he Bool.false_ne_true | exact dec_vx _ f
theorem vsel f : Statement (.vsel f) := by
  intro _ e he
  cases e <;> first | exact absurd he Bool.false_ne_true | exact dec_vx _ f
theorem vcvt f : Statement (.vcvt f) := by
  intro _ e he
  cases e <;> first | exact absurd he Bool.false_ne_true | exact dec_vx _ f
theorem vred f : Statement (.vred f) := by
  intro _ e he
  cases e <;> first | exact absurd he Bool.false_ne_true | exact dec_vx _ f
theorem vbcast f : Statement (.vbcast f) := by
  intro _ e he
  cases e <;> first | exact absurd he Bool.false_ne_true | exact dec_vx _ f
theorem vtrans f : Statement (.vtrans f) := by
  intro _ e he
  cases e <;> first | exact absurd he Bool.false_ne_true | exact dec_vx _ f
theorem vand f : Statement (.vand f) := by
  intro _ e he
  cases e <;> first | exact absurd he Bool.false_ne_true | exact dec_vx _ f
theorem vor f : Statement (.vor f) := by
  intro _ e he
  cases e <;> first | exact absurd he Bool.false_ne_true | exact dec_vx _ f
theorem vxor f : Statement (.vxor f) := by
  intro _ e he
  cases e <;> first | exact absurd he Bool.false_ne_true | exact dec_vx _ f
theorem vshl f : Statement (.vshl f) := by
  intro _ e he
  cases e <;> first | exact absurd he Bool.false_ne_true | exact dec_vx _ f
theorem vshr f : Statement (.vshr f) := by
  intro _ e he
  cases e <;> first | exact absurd he Bool.false_ne_true | exact dec_vx _ f
theorem vexp f : Statement (.vexp f) := by
  intro _ e he
  cases e <;> first | exact absurd he Bool.false_ne_true | exact dec_vx _ f
theorem vrcp f : Statement (.vrcp f) := by
  intro _ e he
  cases e <;> first | exact absurd he Bool.false_ne_true | exact dec_vx _ f
theorem vrsq f : Statement (.vrsq f) := by
  intro _ e he
  cases e <;> first | exact absurd he Bool.false_ne_true | exact dec_vx _ f
theorem viota f : Statement (.viota f) := by
  intro _ e he
  cases e <;> first | exact absurd he Bool.false_ne_true | exact dec_vx _ f
theorem vclip f : Statement (.vclip f) := by
  intro _ e he
  cases e <;> first | exact absurd he Bool.false_ne_true | exact dec_vx _ f
theorem vscale f : Statement (.vscale f) := by
  intro _ e he
  cases e <;> first | exact absurd he Bool.false_ne_true | exact dec_vx _ f
theorem vpoisq f : Statement (.vpoisq f) := by
  intro _ e he
  cases e <;> first | exact absurd he Bool.false_ne_true | exact dec_vx _ f
theorem vmovs f : Statement (.vmovs f) := by
  intro _ e he
  cases e <;> first | exact absurd he Bool.false_ne_true | exact dec_vx _ f
theorem rmax f : Statement (.rmax f) := by
  intro _ e he
  cases e <;> first | exact absurd he Bool.false_ne_true | exact dec_rw _ f
theorem rexpsum f : Statement (.rexpsum f) := by
  intro _ e he
  cases e <;> first | exact absurd he Bool.false_ne_true | exact dec_rw _ f
theorem rscale f : Statement (.rscale f) := by
  intro _ e he
  cases e <;> first | exact absurd he Bool.false_ne_true | exact dec_rw _ f
theorem rmean f : Statement (.rmean f) := by
  intro _ e he
  cases e <;> first | exact absurd he Bool.false_ne_true | exact dec_rw _ f
theorem rvar f : Statement (.rvar f) := by
  intro _ e he
  cases e <;> first | exact absurd he Bool.false_ne_true | exact dec_rw _ f
theorem rnorm f : Statement (.rnorm f) := by
  intro _ e he
  cases e <;> first | exact absurd he Bool.false_ne_true | exact dec_rw _ f
theorem rmask f : Statement (.rmask f) := by
  intro _ e he
  cases e <;> first | exact absurd he Bool.false_ne_true | exact dec_rw _ f
theorem rttab f : Statement (.rttab f) := by
  intro _ e he
  cases e <;> first | exact absurd he Bool.false_ne_true | exact dec_rw _ f
theorem cpy f : Statement (.cpy f) := by
  intro _ e he
  cases e <;> first | exact absurd he Bool.false_ne_true | exact dec_cp _ f
theorem cpy2 f : Statement (.cpy2 f) := by
  intro _ e he
  cases e <;> first | exact absurd he Bool.false_ne_true | exact dec_cp _ f
theorem cpyt f : Statement (.cpyt f) := by
  intro _ e he
  cases e <;> first | exact absurd he Bool.false_ne_true | exact dec_cp _ f
theorem gath f : Statement (.gath f) := by
  intro _ e he
  cases e <;> first | exact absurd he Bool.false_ne_true | exact dec_cp _ f
theorem scat f : Statement (.scat f) := by
  intro _ e he
  cases e <;> first | exact absurd he Bool.false_ne_true | exact dec_cp _ f
theorem cconv f : Statement (.cconv f) := by
  intro _ e he
  cases e <;> first | exact absurd he Bool.false_ne_true | exact dec_cp _ f
theorem mcast f : Statement (.mcast f) := by
  intro _ e he
  cases e <;> first | exact absurd he Bool.false_ne_true | exact dec_cp _ f
theorem rsts f : Statement (.rsts f) := by
  intro _ e he
  cases e <;> first | exact absurd he Bool.false_ne_true | exact dec_cp _ f
theorem cred f : Statement (.cred f) := by
  intro _ e he
  cases e <;> first | exact absurd he Bool.false_ne_true | exact dec_cp _ f
theorem cfill f : Statement (.cfill f) := by
  intro _ e he
  cases e <;> first | exact absurd he Bool.false_ne_true | exact dec_cp _ f
theorem cchk f : Statement (.cchk f) := by
  intro _ e he
  cases e <;> first | exact absurd he Bool.false_ne_true | exact dec_cp _ f
theorem cchins f : Statement (.cchins f) := by
  intro _ e he
  cases e <;> first | exact absurd he Bool.false_ne_true | exact dec_cp _ f
theorem cwake f : Statement (.cwake f) := by
  intro _ e he
  cases e <;> first | exact absurd he Bool.false_ne_true | exact dec_cp _ f
theorem entryCompletion x0 x1 : Statement (.entryCompletion x0 x1) := fun _ => trivial
theorem interrupt x0 : Statement (.interrupt x0) := fun _ => trivial
theorem engineTrapDelivery x0 : Statement (.engineTrapDelivery x0) := fun _ => trivial
theorem ringSendComplete x0 : Statement (.ringSendComplete x0) := fun _ => trivial
theorem ringReceiveComplete x0 : Statement (.ringReceiveComplete x0) := fun _ => trivial
theorem kwaitRelease x0 : Statement (.kwaitRelease x0) := fun _ => trivial
theorem cwaitRelease x0 : Statement (.cwaitRelease x0) := fun _ => trivial
theorem twaitRelease x0 : Statement (.twaitRelease x0) := fun _ => trivial
theorem waitvRetest x0 : Statement (.waitvRetest x0) := fun _ => trivial
theorem futureWaitRelease x0 : Statement (.futureWaitRelease x0) := fun _ => trivial
theorem fenceComplete x0 : Statement (.fenceComplete x0) := fun _ => trivial
theorem enqSpaceAvailable x0 : Statement (.enqSpaceAvailable x0) := fun _ => trivial
theorem efenceComplete x0 : Statement (.efenceComplete x0) := fun _ => trivial
theorem leaseGrant x0 : Statement (.leaseGrant x0) := fun _ => trivial
theorem lrelComplete x0 : Statement (.lrelComplete x0) := fun _ => trivial
theorem leaseExhaustion x0 : Statement (.leaseExhaustion x0) := fun _ => trivial
theorem leaseRevocation x0 : Statement (.leaseRevocation x0) := fun _ => trivial
theorem pacqGrant x0 : Statement (.pacqGrant x0) := fun _ => trivial
theorem wfeWake x0 : Statement (.wfeWake x0) := fun _ => trivial
theorem chinswRetry x0 : Statement (.chinswRetry x0) := fun _ => trivial
theorem chargeWaitStart x0 x1 : Statement (.chargeWaitStart x0 x1) := fun _ => trivial
theorem bucketRampTick x0 : Statement (.bucketRampTick x0) := fun _ => trivial
theorem wthreshExpiry x0 : Statement (.wthreshExpiry x0) := fun _ => trivial
theorem budgetExpiry x0 : Statement (.budgetExpiry x0) := fun _ => trivial
theorem sliceEnd x0 : Statement (.sliceEnd x0) := fun _ => trivial
theorem preemptionRequest x0 : Statement (.preemptionRequest x0) := fun _ => trivial
theorem preemptionForceStop x0 : Statement (.preemptionForceStop x0) := fun _ => trivial
theorem preemptionHang x0 : Statement (.preemptionHang x0) := fun _ => trivial
theorem teamSaveComplete x0 : Statement (.teamSaveComplete x0) := fun _ => trivial
theorem unitRetire x0 : Statement (.unitRetire x0) := fun _ => trivial
theorem bindStage x0 x1 x2 : Statement (.bindStage x0 x1 x2) := fun _ => trivial
theorem bindUnbind x0 x1 : Statement (.bindUnbind x0 x1) := fun _ => trivial
theorem slotStart x0 : Statement (.slotStart x0) := fun _ => trivial
theorem graphLoad x0 x1 x2 : Statement (.graphLoad x0 x1 x2) := fun _ => trivial
theorem churnBoundDispatch x0 x1 : Statement (.churnBoundDispatch x0 x1) := fun _ => trivial
theorem compensationStart x0 x1 : Statement (.compensationStart x0 x1) := fun _ => trivial
theorem compensationEnd x0 : Statement (.compensationEnd x0) := fun _ => trivial
theorem removalRequest x0 : Statement (.removalRequest x0) := fun _ => trivial
theorem removalRelease x0 : Statement (.removalRelease x0) := fun _ => trivial
theorem checkerMismatch x0 x1 : Statement (.checkerMismatch x0 x1) := fun _ => trivial
theorem eccCorrectable x0 : Statement (.eccCorrectable x0) := fun _ => trivial
theorem eccUncorrectable x0 x1 : Statement (.eccUncorrectable x0 x1) := fun _ => trivial
theorem arrayVerdict x0 x1 x2 : Statement (.arrayVerdict x0 x1 x2) := fun _ => trivial
theorem selfTest x0 x1 x2 : Statement (.selfTest x0 x1 x2) := fun _ => trivial
theorem rpctlRecoveryPoint x0 : Statement (.rpctlRecoveryPoint x0) := fun _ => trivial
theorem rpctlRollback x0 : Statement (.rpctlRollback x0) := fun _ => trivial
theorem rpctlSeal x0 : Statement (.rpctlSeal x0) := fun _ => trivial
theorem recoveryRequestEnd x0 : Statement (.recoveryRequestEnd x0) := fun _ => trivial
theorem escapedLogThreshold x0 : Statement (.escapedLogThreshold x0) := fun _ => trivial
theorem tlbiPage x0 x1 : Statement (.tlbiPage x0 x1) := fun _ => trivial
theorem tlbiAsid x0 x1 : Statement (.tlbiAsid x0 x1) := fun _ => trivial
theorem tlbiAll x0 : Statement (.tlbiAll x0) := fun _ => trivial
theorem tlbiDone x0 : Statement (.tlbiDone x0) := fun _ => trivial
theorem clintWrite x0 x1 : Statement (.clintWrite x0 x1) := fun _ => trivial
theorem clpctlQuiesce x0 : Statement (.clpctlQuiesce x0) := fun _ => trivial
theorem clpctlRetain x0 : Statement (.clpctlRetain x0) := fun _ => trivial
theorem clpctlOff x0 : Statement (.clpctlOff x0) := fun _ => trivial
theorem clpctlRun x0 : Statement (.clpctlRun x0) := fun _ => trivial
theorem quiescedReached x0 : Statement (.quiescedReached x0) := fun _ => trivial
theorem retainedReached x0 : Statement (.retainedReached x0) := fun _ => trivial
theorem clretsvSave x0 : Statement (.clretsvSave x0) := fun _ => trivial
theorem clretsvRestore x0 : Statement (.clretsvRestore x0) := fun _ => trivial
theorem retentionSaveDone x0 : Statement (.retentionSaveDone x0) := fun _ => trivial
theorem clgateWrite x0 x1 : Statement (.clgateWrite x0 x1) := fun _ => trivial
theorem clwakeWrite x0 x1 : Statement (.clwakeWrite x0 x1) := fun _ => trivial
theorem wakeComplete x0 : Statement (.wakeComplete x0) := fun _ => trivial
theorem clbktWrite x0 x1 : Statement (.clbktWrite x0 x1) := fun _ => trivial
theorem pcapWrite x0 : Statement (.pcapWrite x0) := fun _ => trivial
theorem ecntWrap x0 x1 : Statement (.ecntWrap x0 x1) := fun _ => trivial
theorem registerWrite x0 x1 x2 : Statement (.registerWrite x0 x1 x2) := fun _ => trivial
theorem submissionDoorbell x0 : Statement (.submissionDoorbell x0) := fun _ => trivial
theorem completionRingTail x0 x1 : Statement (.completionRingTail x0 x1) := fun _ => trivial
theorem partitionTableWrite x0 x1 x2 x3 x4 : Statement (.partitionTableWrite x0 x1 x2 x3 x4) := fun _ => trivial
theorem safeTierWrite x0 x1 x2 x3 : Statement (.safeTierWrite x0 x1 x2 x3) := fun _ => trivial
theorem readRequest x0 x1 x2 x3 : Statement (.readRequest x0 x1 x2 x3) := fun _ => trivial
theorem readCompletion x0 x1 x2 x3 x4 : Statement (.readCompletion x0 x1 x2 x3 x4) := fun _ => trivial
theorem postedWrite x0 x1 x2 x3 : Statement (.postedWrite x0 x1 x2 x3) := fun _ => trivial
theorem interruptMessage  : Statement (.interruptMessage ) := fun _ => trivial
theorem durableWrite x0 x1 x2 x3 x4 : Statement (.durableWrite x0 x1 x2 x3 x4) := fun _ => trivial
theorem durableAcknowledgement x0 x1 x2 : Statement (.durableAcknowledgement x0 x1 x2) := fun _ => trivial
theorem linkRetry x0 : Statement (.linkRetry x0) := fun _ => trivial
theorem dieLinkReroute x0 x1 : Statement (.dieLinkReroute x0 x1) := fun _ => trivial
theorem peerWriteArrival x0 x1 x2 x3 : Statement (.peerWriteArrival x0 x1 x2 x3) := fun _ => trivial
theorem powerOnReset  : Statement (.powerOnReset ) := fun _ => trivial
theorem bootImageVerify x0 x1 x2 : Statement (.bootImageVerify x0 x1 x2) := fun _ => trivial
theorem crierTakeover  : Statement (.crierTakeover ) := fun _ => trivial
theorem attestationRequest x0 : Statement (.attestationRequest x0) := fun _ => trivial
theorem teamRestoreComplete x0 : Statement (.teamRestoreComplete x0) := fun _ => trivial
theorem retentionRestoreDone x0 : Statement (.retentionRestoreDone x0) := fun _ => trivial
theorem firmwareMeasurement x0 x1 x2 : Statement (.firmwareMeasurement x0 x1 x2) := fun _ => trivial
end RoundTrip
end Sys2Proof.Laws
end

