-- ==== Sys2Proof/Certificates/Slice0/Obligations.lean ====
section
/-!
DEFINITION. The statements for the provers, with the vocabulary they are written in.
-/
namespace Sys2Proof.Claims
open Sys2Proof Sys2Proof.Machine

/-! The vocabulary of the scalar statements. -/

/-- The running context without what its own instruction may change (x and p registers, loop counters, PC,
wait, run state, R206's ENQS count, the stop of R335) and without what a wrapping event counter sets (R422). -/
def ctxKept (c : Ctx) : Ctx :=
  { c with x := [], p := 0, pdep := 0, lc := [], pc := 0, wait := none, run := .off, enqsCount := 0,
           enqsAddr := none, held := false, intp := 0, intpAt := 0, latch := false }
/-- A context without what a wrapping event counter sets (R422). -/
def ctxQuiet (c : Ctx) : Ctx := { c with intp := 0, intpAt := 0, latch := false }
/-- A core without its contexts and its event counters. -/
def coreKept (c : Core) : Core := { c with ctxL := {}, ctxX := {}, ctxS := {}, ecnt := [], esel := [], bundleAt := 0 }

/-- The machine without its cores, and without the saved images: a counter that wraps at a core without a unit reaches
the image of the team that is away (R24). -/
def shell (y : State) : State := { y with cores := [], pkg := { y.pkg with saved := [] } }
/-- The saved images stay where the core has a unit. -/
def KeepsSaved (s t : State) : Prop := (curCore s).unit.isSome = true → t.pkg.saved = s.pkg.saved

/-- THE FRAME: what stays. Every byte of memory; every field of the machine but the cores, up to `ms`; every
other core; the current core but its contexts and counters, up to `mk`; every other context; the running one up
to `mc`. -/
def Kept (ms : State → State) (mk : Core → Core) (mc : Ctx → Ctx) (s t : State) : Prop :=
  ms (shell t) = ms (shell s) ∧ KeepsSaved s t ∧
  (∀ id : CoreId, coreKey id ≠ coreKey s.cur.core → coreKept (coreOf t id) = coreKept (coreOf s id)) ∧
  mk (coreKept (coreOf t s.cur.core)) = mk (coreKept (coreOf s s.cur.core)) ∧
  (∀ (id : CoreId) (k : CtxKind), (coreKey id ≠ coreKey s.cur.core ∨ k ≠ s.cur.kind) →
    ctxQuiet (ctxIn k (coreOf t id)) = ctxQuiet (ctxIn k (coreOf s id))) ∧
  mc (ctxKept (curCtx t)) = mc (ctxKept (curCtx s))

/-- Every byte of memory reads as before. -/
def SameBytes (s t : State) : Prop := ∀ a, physBytes t a 1 = physBytes s a 1 ∧ physMark t a 1 = physMark s a 1

/-- The frame of an instruction that writes registers only. -/
def KeptAll (s t : State) : Prop := SameBytes s t ∧ Kept id id id s t

/-! Accesses through the caches. -/

/-- A dirty byte of the core, in its L1, in its mapped stash or in the write buffer of its cluster, stands for the memory byte at
a. -/
def Unwritten (s : State) (a : Nat) : Prop :=
  (∃ e ∈ (curCore s).l1, ∃ d ∈ e.2.dirty, d.1 = a) ∨ (∃ e ∈ (curClus s).wbuf, ∃ d ∈ e.2.dirty, d.1 = a) ∨
  ∃ m ∈ (curCore s).maps, ∃ d ∈ m.dirty, (mget {} m.filled (d.1 / 128)).pa + d.1 % 128 = a
/-- The 4-byte word of the memory byte at a. -/
def wordAt (a k : Nat) : Nat := a / 4 * 4 + k
/-- MEMORY: a byte with no dirty copy, outside the bytes that are stored to, reads as before, and so does the mark of a word of
such bytes. -/
def Untouched (stored : Nat → Prop) (s t : State) : Prop :=
  (∀ a, ¬ Unwritten s a → ¬ stored a → physBytes t a 1 = physBytes s a 1) ∧
  ∀ a, (∀ k, k < 4 → ¬ Unwritten s (wordAt a k) ∧ ¬ stored (wordAt a k)) → physMark t a 1 = physMark s a 1
/-- The bytes of a store, and those of the page entry whose D bit it sets (R158). -/
def InStore (pa n entry a : Nat) : Prop := (pa ≤ a ∧ a < pa + n) ∨ (entry ≤ a ∧ a < entry + 8)
/-- Every dirty byte of the core is one of HBM, and none waits for the host or a peer. -/
def Near (s : State) : Prop := ∀ a, Unwritten s a → paKind a = .hbm

/-- What an access through the caches leaves of the machine: all but the copies and their logical times, the translations cached,
the accounts of the traffic and the free values taken. -/
def cacheShell (y : State) : State :=
  let p := y.pkg
  { y with
    cores := []
    clusters := []
    dies := []
    mem := []
    memPoison := []
    tick := 0
    pkg := { p with saved := [], home := [], mts := [], pubs := [], dirty64k := [], link := {}, tiers := [], stores := [], wraps := []
                    far := [], farMarks := [] } }
def cacheClus (c : Cluster) : Cluster := { c with tlb := [], wbuf := [] }
def cacheDie (d : Die) : Die := { d with walks := [], accounts := [], ecnt := [], esel := [] }
def cacheCore (c : Core) : Core := { coreKept c with l1 := [], tlb := [] }
/-- The same of a core whose mapped stash is accessed as well. -/
def mapsCore (c : Core) : Core := { c with maps := [], stash := [], stashPoison := [], stashPts := 0 }

/-- The raw stash, which no filled line of a map entry stands in, keeps its bytes and its marks. -/
def RawKept (s t : State) : Prop :=
  ∀ a, (∀ m ∈ (curCore s).maps, ∀ e ∈ m.filled, e.1 ≠ a / 128) →
    stashBytes (coreOf t s.cur.core) a 1 = stashBytes (curCore s) a 1 ∧
    mget false (coreOf t s.cur.core).stashPoison (a / 4) = mget false (curCore s).stashPoison (a / 4)

/-- THE FRAME OF AN ACCESS THROUGH THE CACHES, up to `ms`, `mk` and `mc`; the host and the peers see nothing where what the
core holds, and the access, are of HBM. -/
def MemKept (ms : State → State) (mk : Core → Core) (mc : Ctx → Ctx) (pa : Nat) (s t : State) : Prop :=
  ms (cacheShell t) = ms (cacheShell s) ∧ KeepsSaved s t ∧
  (Near s → paKind pa = .hbm → t.pkg.link = s.pkg.link ∧ t.pkg.tiers = s.pkg.tiers ∧ t.pkg.stores = s.pkg.stores ∧
    t.pkg.far = s.pkg.far ∧ t.pkg.farMarks = s.pkg.farMarks) ∧
  (∀ c, clusKey c ≠ clusKey (CoreId.cl s.cur.core) → clusOf t c = clusOf s c) ∧
  cacheClus (clusOf t (CoreId.cl s.cur.core)) = cacheClus (curClus s) ∧
  (∀ d, cacheDie (dieOf t d) = cacheDie (dieOf s d)) ∧
  (∀ id : CoreId, coreKey id ≠ coreKey s.cur.core → coreKept (coreOf t id) = coreKept (coreOf s id)) ∧
  mk (cacheCore (coreOf t s.cur.core)) = mk (cacheCore (coreOf s s.cur.core)) ∧
  (∀ (id : CoreId) (k : CtxKind), (coreKey id ≠ coreKey s.cur.core ∨ k ≠ s.cur.kind) →
    ctxQuiet (ctxIn k (coreOf t id)) = ctxQuiet (ctxIn k (coreOf s id))) ∧
  mc { ctxKept (curCtx t) with pts := 0 } = mc { ctxKept (curCtx s) with pts := 0 } ∧ (curCtx s).pts ≤ (curCtx t).pts

/-- No copy of the line at `pa` stands in the core's L1, in its mapped stash or in the write buffer, the line is one of HBM,
and the n bytes lie within it: a load takes them from memory. -/
def FromMemory (s : State) (pa n : Nat) : Prop :=
  paKind (128 * (pa / 128)) = .hbm ∧ pa % 128 + n ≤ 128 ∧
  l1Of s s.cur.core (pa / 128) = {} ∧ mappedAt (curCore s) (pa / 128) = [] ∧
  ∀ a, pa / 4 * 4 ≤ a → a ≤ (pa + n - 1) / 4 * 4 + 3 → ¬ Unwritten s a

/-- x registers: D takes v (x0 takes nothing), every other keeps its value. -/
def WritesX (s t : State) (d : BitVec 5) (v : XReg) : Prop :=
  readX (curCtx t) d = (if d = 0 then {} else v) ∧ ∀ n, n ≠ d → readX (curCtx t) n = readX (curCtx s) n
def KeepsX (s t : State) : Prop := ∀ n, readX (curCtx t) n = readX (curCtx s) n

/-- No armed loop ends at this address (R107). -/
def NoLoopEnd (s : State) (npc : Word) : Prop :=
  ∀ k, k < 4 → ¬ ((readLc (curCtx s) k).active = true ∧ (readLc (curCtx s) k).stop = npc)

/-- The context goes on at `npc` (a target keeps bits [63:56] and [1:0] at 0, R8); an address of 0 ends it
(R142). Where an armed loop ends there, the loop's own rule decides (R107). -/
def GoesOn (s t : State) (npc : Word) : Prop :=
  (curCtx t).wait = none ∧
  (NoLoopEnd s npc → (curCtx t).pc = maskPc npc ∧
    (curCtx t).run = (if maskPc npc = 0 then .ended else (curCtx s).run) ∧
    ∀ k, readLc (curCtx t) k = readLc (curCtx s) k)
/-- Predicates as before, but for one that takes a value (a write to p0 is discarded). -/
def KeepsP (s t : State) (npc : Word) : Prop := NoLoopEnd s npc → ∀ n, readP (curCtx t) n = readP (curCtx s) n
def WritesP (s t : State) (npc : Word) (d : BitVec 3) (v : Bool) : Prop :=
  NoLoopEnd s npc → readP (curCtx t) d = (d = 0 || v) ∧ ∀ n, n ≠ d → readP (curCtx t) n = readP (curCtx s) n

/-- The address of the next instruction in line. -/
def nextPc (s : State) : Word := (curCtx s).pc + 4
/-- The guard of the instruction reads 1. -/
def Guard (s : State) (g : BitVec 3) : Prop := readP (curCtx s) g = true
/-- A register of the running context and its value. -/
def xr (s : State) (n : BitVec 5) : XReg := readX (curCtx s) n
def xv (s : State) (n : BitVec 5) : Word := (xr s n).val
def Clean (s : State) (n : BitVec 5) : Prop := (xr s n).poison = false

/-- R91, R363: a result from sources: the OR of their poison bits, the origin of the first poisoned one, the
q.xl tag of R128. -/
def from1 (v : Word) (a : XReg) : XReg :=
  { val := v, poison := a.poison, origin := if a.poison then a.origin else 0, ostash := a.poison && a.ostash, dep := a.dep }
def from2 (v : Word) (a b : XReg) : XReg :=
  { val := v, poison := a.poison || b.poison,
    origin := if a.poison then a.origin else if b.poison then b.origin else 0,
    ostash := if a.poison then a.ostash else b.poison && b.ostash, dep := a.dep || b.dep }
def un (a : BitVec 5) (f : Word → Word) (s : State) : XReg := from1 (f (xv s a)) (xr s a)
def bin (a b : BitVec 5) (f : Word → Word → Word) (s : State) : XReg := from2 (f (xv s a) (xv s b)) (xr s a) (xr s b)

/-- R92: counts of leading and trailing zero bits and of 1 bits. -/
def leadingZeros (v : Word) : Nat := ((List.range 64).takeWhile fun k => !v.getLsbD (63 - k)).length
def trailingZeros (v : Word) : Nat := ((List.range 64).takeWhile fun k => !v.getLsbD k).length
def ones (v : Word) : Nat := ((List.range 64).filter fun k => v.getLsbD k).length
/-- R92: bits [5:0] of a count. -/
def sh (y : Word) : Nat := y.toNat % 64

/-- R92-R96, R100: the guard, the destination and the result of the integer instructions. -/
def intForm : Instr → Option (BitVec 3 × BitVec 5 × (State → XReg))
  | .add d a b g => some (g, d, bin a b fun x y => x + y)
  | .sub d a b g => some (g, d, bin a b fun x y => x - y)
  | .and d a b g => some (g, d, bin a b fun x y => x &&& y)
  | .or d a b g => some (g, d, bin a b fun x y => x ||| y)
  | .xor d a b g => some (g, d, bin a b fun x y => x ^^^ y)
  | .andn d a b g => some (g, d, bin a b fun x y => x &&& ~~~y)
  | .shl d a b g => some (g, d, bin a b fun x y => BitVec.ofNat 64 (x.toNat * 2 ^ sh y))
  | .shr d a b g => some (g, d, bin a b fun x y => BitVec.ofNat 64 (x.toNat / 2 ^ sh y))
  | .sar d a b g => some (g, d, bin a b fun x y => BitVec.ofInt 64 (x.toInt / 2 ^ sh y))
  | .rol d a b g => some (g, d, bin a b fun x y => x <<< sh y ||| x >>> (64 - sh y))
  | .min d a b g => some (g, d, bin a b fun x y => if x.toInt < y.toInt then x else y)
  | .max d a b g => some (g, d, bin a b fun x y => if x.toInt < y.toInt then y else x)
  | .minu d a b g => some (g, d, bin a b fun x y => if x.toNat < y.toNat then x else y)
  | .maxu d a b g => some (g, d, bin a b fun x y => if x.toNat < y.toNat then y else x)
  | .clz d a g => some (g, d, un a fun x => BitVec.ofNat 64 (leadingZeros x))
  | .ctz d a g => some (g, d, un a fun x => BitVec.ofNat 64 (trailingZeros x))
  | .popc d a g => some (g, d, un a fun x => BitVec.ofNat 64 (ones x))
  | .sextB d a g => some (g, d, un a fun x => (x.setWidth 8).signExtend 64)
  | .sextH d a g => some (g, d, un a fun x => (x.setWidth 16).signExtend 64)
  | .sextW d a g => some (g, d, un a fun x => (x.setWidth 32).signExtend 64)
  | .zextB d a g => some (g, d, un a fun x => x &&& 0xFF)
  | .zextH d a g => some (g, d, un a fun x => x &&& 0xFFFF)
  | .zextW d a g => some (g, d, un a fun x => x &&& 0xFFFFFFFF)
  | .shadd1 d a b g => some (g, d, bin a b fun x y => 2 * x + y)
  | .shadd2 d a b g => some (g, d, bin a b fun x y => 4 * x + y)
  | .shadd3 d a b g => some (g, d, bin a b fun x y => 8 * x + y)
  | .shadd4 d a b g => some (g, d, bin a b fun x y => 16 * x + y)
  | .addi d a i g => some (g, d, un a fun x => x + i.signExtend 64)
  | .andi d a i g => some (g, d, un a fun x => x &&& i.signExtend 64)
  | .ori d a i g => some (g, d, un a fun x => x ||| i.signExtend 64)
  | .xori d a i g => some (g, d, un a fun x => x ^^^ i.signExtend 64)
  | .shli d a k g => some (g, d, un a fun x => x <<< k.toNat)
  | .shri d a k g => some (g, d, un a fun x => x >>> k.toNat)
  | .sari d a k g => some (g, d, un a fun x => x.sshiftRight k.toNat)
  | .li d i g => some (g, d, fun _ => { val := i.signExtend 64 })
  | .lih d i g => some (g, d, un d fun x => x <<< 18 ||| i.setWidth 64)
  | .mul d a b g => some (g, d, bin a b fun x y => x * y)
  | .mulh d a b g => some (g, d, bin a b fun x y => BitVec.ofInt 64 (x.toInt * y.toInt / 2 ^ 64))
  | .mulhu d a b g => some (g, d, bin a b fun x y => BitVec.ofNat 64 (x.toNat * y.toNat / 2 ^ 64))
  | .div d a b g => some (g, d, bin a b fun x y =>
      if y = 0 then BitVec.allOnes 64 else BitVec.ofInt 64 (x.toInt.tdiv y.toInt))
  | .divu d a b g => some (g, d, bin a b fun x y =>
      if y = 0 then BitVec.allOnes 64 else BitVec.ofNat 64 (x.toNat / y.toNat))
  | .rem d a b g => some (g, d, bin a b fun x y => if y = 0 then x else BitVec.ofInt 64 (x.toInt.tmod y.toInt))
  | .remu d a b g => some (g, d, bin a b fun x y => if y = 0 then x else BitVec.ofNat 64 (x.toNat % y.toNat))
  | .sel d a b n g => some (g, d, fun s =>
      let r := if readP (curCtx s) n then xr s a else xr s b
      { from1 r.val r with dep := r.dep || readPDep (curCtx s) n })
  | _ => none

/-- R112, R115: the FP instructions that work on bits, set no flag and never trap: FSGN, with the canonical NaN
for a NaN in X[A], and FCLASS, one bit of ten. -/
def isNan32 (x : BitVec 32) : Bool := x &&& 0x7F800000 = 0x7F800000 && x &&& 0x7FFFFF ≠ 0
def withSign (neg : Bool) (x : BitVec 32) : Word :=
  if isNan32 x then 0x7FC00000
  else ((x &&& 0x7FFFFFFF) ||| (if neg then 0x80000000 else 0)).setWidth 64
def fpBitsForm : Instr → Option (BitVec 3 × BitVec 5 × (State → XReg))
  | .fsgnJ d a b g => some (g, d, bin a b fun x y => withSign (y.getLsbD 31) (x.setWidth 32))
  | .fsgnN d a b g => some (g, d, bin a b fun x y => withSign (!y.getLsbD 31) (x.setWidth 32))
  | .fsgnX d a b g => some (g, d, bin a b fun x y => withSign (x.getLsbD 31 != y.getLsbD 31) (x.setWidth 32))
  | .fclass d a g => some (g, d, un a fun x => fclass32 (x.setWidth 32))
  | _ => none

/-- An instruction completes: D takes v, the context goes on in line, and nothing else changes. -/
def PutsX (i : Instr) (s : State) (d : BitVec 5) (v : XReg) : Prop :=
  ∃ t, exec i s = .next t ∧ WritesX s t d v ∧ GoesOn s t (nextPc s) ∧ KeepsP s t (nextPc s) ∧ KeptAll s t

end Sys2Proof.Claims

open Sys2Proof Sys2Proof.Machine Sys2Proof.Claims in
/-- R92-R96, R100, R112, R115: every integer instruction, FSGN and FCLASS complete with their result in X[D], and nothing else
changes. -/
def Obligations.IntegerResults : Prop :=
  ∀ i g d v s, (intForm i = some (g, d, v) ∨ fpBitsForm i = some (g, d, v)) → Guard s g → PutsX i s d (v s)

namespace Sys2Proof.Claims
open Sys2Proof Sys2Proof.Machine

/-! Endings of a scalar instruction. -/

/-- The running context goes on at `npc` with its predicates as they were. -/
def Moves (s t : State) (npc : Word) : Prop := GoesOn s t npc ∧ KeepsP s t npc

/-- The instruction completes at `npc`; the frame up to `ms`, `mk`, `mc`; and `extra`. -/
def Ends (i : Instr) (s : State) (npc : Word) (ms : State → State) (mk : Core → Core) (mc : Ctx → Ctx)
    (extra : State → Prop) : Prop :=
  ∃ t, exec i s = .next t ∧ Moves s t npc ∧ Kept ms mk mc s t ∧ extra t

/-- The instruction completes at the next address and leaves everything as the state `u` has it. -/
def EndsAs (i : Instr) (s u : State) : Prop :=
  ∃ t, exec i s = .next t ∧ Moves u t (nextPc s) ∧ KeepsX u t ∧ KeptAll u t

/-- The instruction completes at the next address; what else is so stands in the state `u` up to `ms`, `mk`, `mc`; and `extra`. -/
def EndsFrom (i : Instr) (s u : State) (ms : State → State) (mk : Core → Core) (mc : Ctx → Ctx) (extra : State → Prop) : Prop :=
  ∃ t, exec i s = .next t ∧ Moves u t (nextPc s) ∧ SameBytes u t ∧ Kept ms mk mc u t ∧ extra t

/-- The instruction completes at the next address with v in D, and everything else as the state `u` has it. -/
def PutsAs (i : Instr) (s u : State) (d : BitVec 5) (v : XReg) : Prop :=
  ∃ t, exec i s = .next t ∧ Moves u t (nextPc s) ∧ WritesX u t d v ∧ KeptAll u t

/-- R422: the state with the issue of the instruction counted. -/
abbrev issued (s : State) : State := countIssue s

/-- R184: the state after the releases with which an instruction begins. -/
def released (s : State) (scopes : List Nat) : State := release (issued s) scopes
/-- What an ACQUIRE changes of its context: the logical clock (R182). -/
def mcPts (c : Ctx) : Ctx := { c with pts := 0 }

/-- R27, R329: the running context has entered its handler with a cause and a value: the status is saved and
becomes INH = 1, mode 1, PPM the old mode, PIE the old IE, IE = 0, CAUSE; TEPC is the address of the
instruction; PC is TVEC + 64 * cause. Its registers, and everything else up to `ms` and `mk`, stay. -/
def EntersTrap (ms : State → State) (mk : Core → Core) (s t : State) (cause : BitVec 8) (tval : Word) : Prop :=
  let c := curCtx s
  let d := curCtx t
  d.tsave = c.tstat ∧
  tsInh d.tstat = true ∧ tsPm d.tstat = 1 ∧ tsPpm d.tstat = tsPm c.tstat ∧ tsIe d.tstat = false ∧
  tsPie d.tstat = tsIe c.tstat ∧ tsCause d.tstat = cause ∧
  d.tepc = c.pc ∧ d.tval = tval ∧ d.pc = maskPc (c.tvec + cause.setWidth 64 * 64) ∧ d.run = .running ∧
  d.wait = none ∧ d.stopped = none ∧
  KeepsX s t ∧ d.p = c.p ∧ d.lc = c.lc ∧
  Kept ms mk (fun c => { c with tsave := 0, tstat := 0, tepc := 0, tval := 0, stopped := none, entryCycle := 0, crdep := [] }) s t

/-- An instruction whose effect is a trap with nothing else changed (R21). -/
def Traps (i : Instr) (s : State) (cause : BitVec 8) (tval : Word) : Prop :=
  ∃ t, exec i s = .next t ∧ SameBytes s t ∧ EntersTrap id id s t cause tval

/-- R167: the same where the access that traps was looked up first, which counts misses and reads page entries at their home slices. -/
def TrapsAt (i : Instr) (s : State) (cause : BitVec 8) (ea : Word) : Prop :=
  ∃ t, exec i s = .next t ∧ SameBytes s t ∧ EntersTrap id id (faultAt s cause ea) t cause ea

/-- The 32 bits of a scalar instruction, zero-extended: TVAL of ILLOP and of PRIV (R329). -/
def wordVal (i : Instr) : Word :=
  match encode i with
  | .w32 w => w.setWidth 64
  | _ => 0

/-- The running context is in its program and not inside a handler. -/
def NotInTrap (s : State) : Prop := tsInh (curCtx s).tstat = false
def Super (s : State) : Prop := tsPm (curCtx s).tstat = 1
def fctlOf (s : State) : Word := (curCtx s).fctl

/-- R91, R363: a result of a list of sources. -/
def fromL (v : Word) (l : List XReg) : XReg :=
  l.foldr (fun a r =>
    { r with poison := a.poison || r.poison, origin := if a.poison then a.origin else r.origin,
             ostash := if a.poison then a.ostash else r.ostash, dep := a.dep || r.dep }) { val := v }

/-! FP32 (R110-R114): inputs decoded under FTZ, one rounding in FCTL.RM (SR as RNE), the flags of both. -/
def fin (s : State) (n : BitVec 5) : Machine.Num := dec32 (fctlFtz (fctlOf s)) ((xv s n).setWidth 32)
def frm (s : State) : BitVec 3 := if fctlRm (fctlOf s) = 4 then 0 else fctlRm (fctlOf s)
def fout (s : State) (v : Machine.Num × Word) : Word × Word :=
  let r := rnd32 (frm s) (fctlFtz (fctlOf s)) v.1
  (r.1.setWidth 64, v.2 ||| r.2)

def fpForm : Instr → Option (BitVec 3 × BitVec 5 × List (BitVec 5) × (State → Word × Word))
  | .fadd d a b g => some (g, d, [a, b], fun s => fout s (numAdd (frm s) (fin s a) (fin s b)))
  | .fsub d a b g => some (g, d, [a, b], fun s => fout s (numAdd (frm s) (fin s a) (numNeg (fin s b))))
  | .fmul d a b g => some (g, d, [a, b], fun s => fout s (numMul (fin s a) (fin s b)))
  | .ffma d a b g => some (g, d, [a, b, d], fun s => fout s (numFma (frm s) (fin s a) (fin s b) (fin s d)))
  | .fdiv d a b g => some (g, d, [a, b], fun s => fout s (numDiv (fin s a) (fin s b)))
  | .fsqrt d a g => some (g, d, [a], fun s => fout s (numSqrt (fin s a)))
  | .fmin d a b g => some (g, d, [a, b], fun s => fout s (numMin (fin s a) (fin s b), 0))
  | .fmax d a b g => some (g, d, [a, b], fun s => fout s (numMax (fin s a) (fin s b), 0))
  | .fcvtFI d a g => some (g, d, [a], fun s => fout s (numOfInt false (xv s a).toInt 0, 0))
  | .fcvtFIu d a g => some (g, d, [a], fun s => fout s (numOfInt false ((xv s a).toNat : Int) 0, 0))
  | .fcvtIF d a g => some (g, d, [a], fun s =>
      let r := numToInt (frm s) 0 (-(2 ^ 63 : Int)) (2 ^ 63 - 1) (fin s a)
      (BitVec.ofInt 64 r.1, r.2))
  | .fcvtIuF d a g => some (g, d, [a], fun s =>
      let r := numToInt (frm s) 0 0 (2 ^ 64 - 1) (fin s a)
      (BitVec.ofInt 64 r.1, r.2))
  | .fcvtFB d a g => some (g, d, [a], fun s => fout s (ffDecode bf16 (fctlFtz (fctlOf s)) ((xv s a).toNat % 2 ^ 16), 0))
  | .fcvtBF d a g => some (g, d, [a], fun s =>
      let r := ffRound bf16 (frm s) 0 (fctlFtz (fctlOf s)) (fin s a)
      (BitVec.ofNat 64 r.1, r.2))
  | _ => none

/-- R97, R113: the six tests of two 64-bit values. -/
def ccHolds (cc : Nat) (x y : Word) : Bool :=
  match cc with
  | 0 => decide (x = y)
  | 1 => decide (x ≠ y)
  | 2 => decide (x.toInt < y.toInt)
  | 3 => decide (y.toInt ≤ x.toInt)
  | 4 => decide (x.toNat < y.toNat)
  | _ => decide (y.toNat ≤ x.toNat)

/-- R97-R99, R130, R207: the instructions that write a predicate: guard, destination, when, the value. -/
def predForm : Instr → Option (BitVec 3 × BitVec 3 × (State → Prop) × (State → Bool))
  | .cmp d a b cc g => if cc.toNat < 6 then
      some (g, d, fun s => Clean s a ∧ Clean s b, fun s => ccHolds cc.toNat (xv s a) (xv s b)) else none
  | .cmpi d a cc i g => if cc.toNat < 6 then
      some (g, d, fun s => Clean s a, fun s => ccHolds cc.toNat (xv s a) (i.signExtend 64)) else none
  | .plog d a b tt g => some (g, d, fun _ => True, fun s =>
      tt.getLsbD (2 * (readP (curCtx s) a).toNat + (readP (curCtx s) b).toNat))
  | .pset d a g => some (g, d, fun s => Clean s a, fun s => decide (xv s a ≠ 0))
  | .rpoll d r g => some (g, d, fun s => s.cur.kind = ringSender r ∨ s.cur.kind = ringReceiver r, fun s =>
      let n := (ringOf s s.cur.core r).length
      if s.cur.kind = ringSender r then decide (n < 64) else decide (0 < n))
  | .ebusy e d g => some (g, d, fun s => (fedEng s e).isSome = true, fun s =>
      match fedEng s e with
      | some q => decide (248 < (queueOf s s.cur.core q).words.length)
      | none => false)
  | _ => none

/-- R113: FP compares: guard, destination, sources, the truth value and the flag. -/
def fcmpForm : Instr → Option (BitVec 3 × BitVec 3 × List (BitVec 5) × (State → Bool × Word))
  | .fcmpEq d a b g => some (g, d, [a, b], fun s => numTest 0 (fin s a) (fin s b))
  | .fcmpNe d a b g => some (g, d, [a, b], fun s => numTest 1 (fin s a) (fin s b))
  | .fcmpLt d a b g => some (g, d, [a, b], fun s => numTest 2 (fin s a) (fin s b))
  | .fcmpGe d a b g => some (g, d, [a, b], fun s => numTest 3 (fin s a) (fin s b))
  | _ => none

/-- R175, R134, R209, R388: the instructions that only read something into X[D]: guard, destination,
when, the value. -/
def readForm : Instr → Option (BitVec 3 × BitVec 5 × (State → Prop) × (State → Word))
  | .ttq d n g => some (g, d, fun _ => True, fun s =>
      match (tileOf s s.cur.core n).st with | .empty => 0 | .filling => 1 | .ready => 2 | .draining => 3)
  | .tdesc d sel n g => some (g, d, fun _ => True, fun s =>
      let v := tileOf s s.cur.core n
      if v.bound = false then 0
      else if sel = 1 then v.pitch.setWidth 64 <<< 32 ||| v.fmt.setWidth 64 <<< 14 ||| v.cols.setWidth 64 <<< 7 ||| v.rows.setWidth 64
      else v.base.setWidth 64)
  | .kread d k g => some (g, d, fun _ => True, fun s =>
      let m := semOf s s.cur.core k
      m.count.setWidth 64 ||| (if m.ovf then 0x10000 else 0))
  | .estat e d g => some (g, d, fun s => (fedEng s e).isSome = true, fun s =>
      match fedEng s e with
      | some q => statusWord (queueOf s s.cur.core q) (q = .mx && (curCore s).revk)
      | none => 0)
  | .laq d a g => some (g, d, fun s => Clean s a, fun s =>
      match (if xv s a = 0 then openAct s s.cur.core else actOf s (xv s a)) with
      | some act => if some act.job = jobAt s s.cur.core then stateWord act else 0
      | none => 0)
  | _ => none

/-- R116: X[A] + sext(OFF10) * size. -/
def addrOf (s : State) (a : BitVec 5) (o : BitVec 10) (n : Nat) : Word := xv s a + o.signExtend 64 * BitVec.ofNat 64 n

/-- Instructions that only go on: guard, when. KWAIT, TWAIT and EFENCE acquire: the logical clock may rise. -/
def stillForm : Instr → Option (BitVec 3 × (State → Prop))
  | .pref l a o g => some (g, fun s => l.toNat ≤ 1 ∧ Clean s a ∧
      ∃ e, Machine.translate s s.cur.core (isSuper (curCtx s)) .load (addrOf s a o 8).toNat = .error e)
  | .kwait a k g => some (g, fun s => Clean s a ∧ (xv s a).toNat ≤ 0xFFFF ∧ (xv s a).toNat ≤ (semOf s s.cur.core k).count.toNat)
  | .twait w n g => some (g, fun s => (tileOf s s.cur.core n).st = if w = 1 then .ready else .empty)
  | .efence e g => some (g, fun s => ∃ q, fedEng s e = some q ∧ queueIdle (queueOf s s.cur.core q) = true)
  | .br _ p n g => some (g, fun s => readP (curCtx s) p = decide (n = 1))
  | .brl _ p n g => some (g, fun s => readP (curCtx s) p = decide (n = 1))
  | .fenceAcq c g => some (g, fun _ => c = 0)
  | .fenceRel c g => some (g, fun _ => c = 0)
  | .fenceFull c g => some (g, fun _ => c = 0)
  | .fencePub c g => some (g, fun _ => c = 0)
  | .lbrk n g => some (g, fun s => (readLc (curCtx s) n.toNat).active = false)
  | _ => none

/-- R118, R196: instructions that only bring a line nearer: a prefetch that translates, WAITV whose word is there already: guard,
when, the address of the line. -/
def lineForm : Instr → Option (BitVec 3 × (State → Prop) × (State → Nat → Prop))
  | .pref l a o g => some (g, fun s => l.toNat ≤ 1 ∧ Clean s a, fun s pa => ∃ x,
      Machine.translate s s.cur.core (isSuper (curCtx s)) .load (addrOf s a o 8).toNat = .ok x ∧ pa = x.pa)
  | .waitv d a g => some (g, fun s => Clean s a ∧ Clean s d, fun s pa => ∃ x,
      cohXl s (isSuper (curCtx s)) false (xv s a) 8 = .ok x ∧ pa = x.pa ∧ physMark s x.pa 8 = false ∧
      (xv s d).toNat ≤ physNat s x.pa 8)
  | _ => none

/-- R116: loads: guard, destination, base, offset, size, extension. -/
def loadForm : Instr → Option (BitVec 3 × BitVec 5 × BitVec 5 × BitVec 10 × Nat × (Nat → Word))
  | .ld d a w o g => some (g, d, a, o, 2 ^ w.toNat, fun v => (BitVec.ofInt 64 (Int.bmod v (2 ^ (8 * 2 ^ w.toNat)))))
  | .lduB d a o g => some (g, d, a, o, 1, BitVec.ofNat 64)
  | .lduH d a o g => some (g, d, a, o, 2, BitVec.ofNat 64)
  | .lduW d a o g => some (g, d, a, o, 4, BitVec.ofNat 64)
  | _ => none
/-- R423: the window of the system page. -/
def InSysWin (ea : Word) : Prop := ea.toNat < 2 ^ 56 ∧ ea.toNat / 2 ^ 48 = 0xFF

/-- The bytes of a number stand at an address, the lowest first. -/
def Holds (t : State) (pa n : Nat) (v : Nat) : Prop :=
  ∀ k, k < n → physBytes t (pa + k) 1 = [BitVec.ofNat 8 (v / 256 ^ k)]

/-- What a store changes of its context: the blocks it reached (R183). -/
def mcStore (c : Ctx) : Ctx := { c with stored := [] }

/-- R191-R194: the read-modify-writes: guard, destination, address, consumed registers, size; from the old value
the new one, the result and the flags. -/
def sx32 (v : Nat) : Word := (BitVec.ofNat 32 v).signExtend 64
def amo (op : Nat) (d a b : BitVec 5) (z : BitVec 1) (g : BitVec 3) :
    BitVec 3 × BitVec 5 × BitVec 5 × List (BitVec 5) × Nat × (State → Nat → Nat × Word × Word) :=
  if z = 1 then (g, d, a, [a, b], 8, fun s old => ((amoNew op (BitVec.ofNat 64 old) (xv s b)).toNat, BitVec.ofNat 64 old, 0))
  else (g, d, a, [a, b], 4, fun s old => ((amoNew op (BitVec.ofNat 32 old) ((xv s b).setWidth 32)).toNat, sx32 old, 0))
def faddTo (fmt : FFmt) (n : Nat) (rm : BitVec 3) (d a b : BitVec 5) (g : BitVec 3) :
    BitVec 3 × BitVec 5 × BitVec 5 × List (BitVec 5) × Nat × (State → Nat → Nat × Word × Word) :=
  (g, d, a, [a, b], n, fun s old =>
    let sum := numAdd rm (ffDecode fmt (fctlFtz (fctlOf s)) old) (fin s b)
    let z := stampZ (seedOf s s.cur.core (curCtx s)) ((xv s a).setWidth 32) ((xv s b).extractLsb' 32 16)
    let r := ffRound fmt rm z (fctlFtz (fctlOf s)) sum.1
    (r.1, BitVec.ofNat 64 old, sum.2 ||| r.2))
def rmwForm : Instr → Option (BitVec 3 × BitVec 5 × BitVec 5 × List (BitVec 5) × Nat × (State → Nat → Nat × Word × Word))
  | .amoAdd d a b z g => some (amo 0 d a b z g)
  | .amoAnd d a b z g => some (amo 1 d a b z g)
  | .amoOr d a b z g => some (amo 2 d a b z g)
  | .amoXor d a b z g => some (amo 3 d a b z g)
  | .amoMin d a b z g => some (amo 4 d a b z g)
  | .amoMax d a b z g => some (amo 5 d a b z g)
  | .amoMinu d a b z g => some (amo 6 d a b z g)
  | .amoMaxu d a b z g => some (amo 7 d a b z g)
  | .amoSwap d a b z g => some (amo 8 d a b z g)
  | .cas d a b z g =>
    if z = 1 then some (g, d, a, [a, b, d], 8, fun s old =>
      (if old = (xv s d).toNat then (xv s b).toNat else old, BitVec.ofNat 64 old, 0))
    else some (g, d, a, [a, b, d], 4, fun s old =>
      (if old = (xv s d).toNat % 2 ^ 32 then (xv s b).toNat % 2 ^ 32 else old, sx32 old, 0))
  | .afadd d a b g => some (faddTo fp32 4 0 d a b g)
  | .abfadd d a b g => some (faddTo bf16 2 0 d a b g)
  | .abfsr d a b g => some (faddTo bf16 2 4 d a b g)
  | _ => none

/-- R195: the tag of an operation of the running context: its number and the value returned. -/
def TaggedCtx (s t : State) (v : Word) : Prop :=
  (curCtx t).opSeq = (curCtx s).opSeq + 1 ∧
  t.pkg.opTags.getLast? = some ⟨ctxSource s.cur, (curCtx s).opSeq, v⟩
def msTag (x : State) : State := { x with pkg := { x.pkg with opTags := [] } }
def mcTag (c : Ctx) : Ctx := { c with stored := [], opSeq := 0, fctl := 0, crdep := [] }

/-- R91: registers consumed before anything else, in their order. -/
def consumed : Instr → Option (BitVec 3 × List (BitVec 5))
  | .cmp _ a b _ g => some (g, [a, b])
  | .cmpi _ a _ _ g => some (g, [a])
  | .pset _ a g => some (g, [a])
  | .fcmpEq _ a b g => some (g, [a, b])
  | .fcmpNe _ a b g => some (g, [a, b])
  | .fcmpLt _ a b g => some (g, [a, b])
  | .fcmpGe _ a b g => some (g, [a, b])
  | .ld _ a _ _ g => some (g, [a])
  | .lduB _ a _ g => some (g, [a])
  | .lduH _ a _ g => some (g, [a])
  | .lduW _ a _ g => some (g, [a])
  | .st _ a _ _ g => some (g, [a])
  | .lds _ a _ _ g => some (g, [a])
  | .sts _ a _ _ g => some (g, [a])
  | .smap d a b g => some (g, [a, b, d])
  | .sunmap a g => some (g, [a])
  | .sflush a b g => some (g, [a, b])
  | .sinv a b g => some (g, [a, b])
  | .ttset _ a b _ g => some (g, [a, b])
  | .amoAdd _ a b _ g => some (g, [a, b])
  | .amoSwap _ a b _ g => some (g, [a, b])
  | .cas d a b _ g => some (g, [a, b, d])
  | .afadd _ a b g => some (g, [a, b])
  | .fsetv a b g => some (g, [a, b])
  | .fsetvR a b g => some (g, [a, b])
  | .fgetv _ a g => some (g, [a])
  | .ftake _ a g => some (g, [a])
  | .waitv d a g => some (g, [a, d])
  | .kwait a _ g => some (g, [a])
  | .ksig a _ g => some (g, [a])
  | .kset a _ g => some (g, [a])
  | .pbrr _ a g => some (g, [a])
  | .loop _ _ a g => some (g, [a])
  | .loopSwp _ _ a _ g => some (g, [a])
  | .chins _ a b _ g => some (g, [a, b])
  | .chinsw _ a b _ g => some (g, [a, b])
  | .chtake _ a _ g => some (g, [a])
  | .chdone a _ g => some (g, [a])
  | .labegin _ a g => some (g, [a])
  | .lastep _ a b g => some (g, [a, b])
  | .laq _ a g => some (g, [a])
  | .cancel a _ g => some (g, [a])
  | _ => none

/-- R67: the checks on an encoding that come before the guard. -/
def encodingOk (s : State) : Instr → Prop
  | .enq e _ _ _ _ => (fedEng s e).isSome = true
  | .enqs e _ _ _ => (fedEng s e).isSome = true
  | .ebusy e _ _ => (fedEng s e).isSome = true
  | .efence e _ => (fedEng s e).isSome = true
  | .estat e _ _ => (fedEng s e).isSome = true
  | .lease _ => s.cur.kind = .exec
  | .lrel _ => s.cur.kind = .exec
  | .pref l _ _ _ => l.toNat ≤ 1
  | .crr _ r _ => crAssigned r = true
  | .crw _ _ r _ => crAssigned r = true
  | .crs _ _ r _ => crAssigned r = true
  | .crc _ _ r _ => crAssigned r = true
  | _ => True

/-- What makes an instruction wait (R130, R134, R137, R175, R196, R198, R204, R208, R221, R124): guard, when, the wait. -/
def waitForm : Instr → Option (BitVec 3 × (State → Prop) × Wait)
  | .rsend a r g => some (g, fun s => s.cur.kind = ringSender r ∧ 64 ≤ ringLevel s s.cur.core r ∧
      (ctxOf s ⟨s.cur.core, ringReceiver r⟩).run ≠ .ended, .rsend r a)
  | .rrecv d r g => some (g, fun s => s.cur.kind = ringReceiver r ∧ ringOf s s.cur.core r = [] ∧
      (ctxOf s ⟨s.cur.core, ringSender r⟩).run ≠ .ended, .rrecv r d)
  | .kwait a k g => some (g, fun s => Clean s a ∧ (xv s a).toNat ≤ 0xFFFF ∧
      (semOf s s.cur.core k).count.toNat < (xv s a).toNat, .kwait k a)
  | .cwait n g => some (g, fun s =>
      let b : Barrier := mget {} (curClus s).barriers n.toNat
      2 ^ 31 ≤ (b.g - mget 0 b.t s.cur.core.rank).toNat, .cwait n)
  | .twait w n g => some (g, fun s => (tileOf s s.cur.core n).st ≠ (if w = 1 then .ready else .empty), .twait (w = 1) n)
  | .enq e a b n g => some (g, fun s => ∃ q, fedEng s e = some q ∧ Clean s a ∧ (3 < n.toNat → Clean s b) ∧
      256 ≤ (queueOf s s.cur.core q).words.length + n.toNat, .enq e a b n)
  | .efence e g => some (g, fun s => ∃ q, fedEng s e = some q ∧ queueIdle (queueOf s s.cur.core q) = false, .efence e)
  | .wfe g => some (g, fun s => (curCtx s).latch = false ∧ (curCtx (issued s)).latch = false, .wfe)
  | _ => none

end Sys2Proof.Claims

open Sys2Proof Sys2Proof.Machine Sys2Proof.Claims in
/-- R22: an instruction whose guard reads 0, its encoding being good (R67), changes PC only. -/
def Obligations.NullifiedOnlyAdvances : Prop :=
  ∀ i w s, encode i = .w32 w → encodingOk s i → readP (curCtx s) (w.setWidth 3) = false →
    Ends i s (nextPc s) id id id fun t => KeepsX s t ∧ SameBytes s t

open Sys2Proof Sys2Proof.Machine Sys2Proof.Claims in
/-- R110-R114, R14, R91: an FP32 instruction completes with its rounded result and its flags, and with a
poisoned source with a poisoned result and no flag. -/
def Obligations.FpResults : Prop :=
  ∀ i g d srcs r s, fpForm i = some (g, d, srcs, r) → Guard s g →
    ((∃ n ∈ srcs, ¬ Clean s n) ∨ (fctlOf s >>> 16) &&& 0x1F00 &&& (r s).2 = 0) →
    Ends i s (nextPc s) id id (fun c => { c with fctl := 0, crdep := [] }) fun t =>
      SameBytes s t ∧ WritesX s t d (fromL (r s).1 (srcs.map (xr s))) ∧
      ((∃ n ∈ srcs, ¬ Clean s n) → fctlOf t = fctlOf s) ∧
      ((∀ n ∈ srcs, Clean s n) → fctlOf t = fctlOf s ||| (r s).2)

open Sys2Proof Sys2Proof.Machine Sys2Proof.Claims in
/-- R97-R99, R130, R207: compares and predicate instructions complete with their truth value in P[D]. -/
def Obligations.PredicateResults : Prop :=
  ∀ i g d when v s, predForm i = some (g, d, when, v) → Guard s g → when s →
    ∃ t, exec i s = .next t ∧ GoesOn s t (nextPc s) ∧ WritesP s t (nextPc s) d (v s) ∧ KeepsX s t ∧ KeptAll s t

open Sys2Proof Sys2Proof.Machine Sys2Proof.Claims in
/-- R113: an FP compare of clean sources completes with its truth value in P[D] and its flag; with the flag's
trap enabled it raises FPE and writes nothing, and so does an FP32 instruction (R14). -/
def Obligations.FpComparesAndFpe : Prop :=
  (∀ i g d srcs r s, fcmpForm i = some (g, d, srcs, r) → Guard s g → (∀ n ∈ srcs, Clean s n) →
    (fctlOf s >>> 16) &&& 0x1F00 &&& (r s).2 = 0 →
    ∃ t, exec i s = .next t ∧ GoesOn s t (nextPc s) ∧ WritesP s t (nextPc s) d (r s).1 ∧ KeepsX s t ∧ SameBytes s t ∧
      fctlOf t = fctlOf s ||| (r s).2 ∧ Kept id id (fun c => { c with fctl := 0, crdep := [] }) s t) ∧
  (∀ i g d srcs r s, fcmpForm i = some (g, d, srcs, r) → Guard s g → (∀ n ∈ srcs, Clean s n) → NotInTrap s →
    (fctlOf s >>> 16) &&& 0x1F00 &&& (r s).2 ≠ 0 → Traps i s 0x0C (r s).2) ∧
  (∀ i g d srcs r s, fpForm i = some (g, d, srcs, r) → Guard s g → (∀ n ∈ srcs, Clean s n) → NotInTrap s →
    (fctlOf s >>> 16) &&& 0x1F00 &&& (r s).2 ≠ 0 → Traps i s 0x0C (r s).2)

open Sys2Proof Sys2Proof.Machine Sys2Proof.Claims in
/-- R175, R134, R209, R120, R388: TTQ, TDESC, KREAD, ESTAT, CRR and LAQ complete with what they read, clean; CRR with the q.xl tag
of what was written to the control register (R128). -/
def Obligations.StateReads : Prop :=
  (∀ i g d when v s, readForm i = some (g, d, when, v) → Guard s g → when s → PutsX i s d { val := v s }) ∧
  ∀ d r g s, Guard s g → crAssigned r = true → (crPriv r = true → Super s) →
    PutsX (.crr d r g) s d { val := readCr s (curCtx s) r, dep := mget false (curCtx s).crdep r.toNat }

open Sys2Proof Sys2Proof.Machine Sys2Proof.Claims in
/-- R118, R134, R175, R208, R103, R182, R109: a prefetch that does not translate, a wait that holds already, a branch not taken, a
fence at scope ctx and LBRK of an idle counter change PC only, and an acquire the logical clock. R118, R196: a prefetch that
translates, and WAITV whose word is there already, change PC and the copies of lines only. -/
def Obligations.OnlyAdvance : Prop :=
  (∀ i g when s, stillForm i = some (g, when) → Guard s g → when s →
    Ends i s (nextPc s) id id mcPts fun t => KeepsX s t ∧ SameBytes s t ∧ (curCtx s).pts ≤ (curCtx t).pts) ∧
  ∀ i g when at_ s pa, lineForm i = some (g, when, at_) → Guard s g → when s → at_ s pa →
    ∃ t, exec i s = .next t ∧ Moves s t (nextPc s) ∧ KeepsX s t ∧ MemKept id id id pa s t ∧ Untouched (fun _ => False) s t

open Sys2Proof Sys2Proof.Machine Sys2Proof.Claims in
/-- R101-R103: PBR and PBRR write B[T]; BR and BRL that are taken go to B[T], BRL with the link in x1. -/
def Obligations.Branches : Prop :=
  let mcB : Ctx → Ctx := fun c => { c with b := [], bdep := 0 }
  let WritesB (s t : State) (n : BitVec 3) (v : Word) : Prop :=
    readB (curCtx t) n = v ∧ ∀ k, k ≠ n → readB (curCtx t) k = readB (curCtx s) k
  (∀ (n : BitVec 3) (i : BitVec 20) g s, Guard s g →
    Ends (.pbr n i g) s (nextPc s) id id mcB fun t =>
      KeepsX s t ∧ SameBytes s t ∧ WritesB s t n (maskPc ((curCtx s).pc + i.signExtend 64 * 4))) ∧
  (∀ (n : BitVec 3) a g s, Guard s g → Clean s a → (xv s a).toNat < 2 ^ 56 → (xv s a).toNat % 4 = 0 →
    Ends (.pbrr n a g) s (nextPc s) id id mcB fun t => KeepsX s t ∧ SameBytes s t ∧ WritesB s t n (xv s a)) ∧
  (∀ (n p : BitVec 3) (neg : BitVec 1) g s, Guard s g → readP (curCtx s) p ≠ decide (neg = 1) →
    Ends (.br n p neg g) s (readB (curCtx s) n) id id id fun t => KeepsX s t ∧ SameBytes s t) ∧
  (∀ (n p : BitVec 3) (neg : BitVec 1) g s, Guard s g → readP (curCtx s) p ≠ decide (neg = 1) →
    Ends (.brl n p neg g) s (readB (curCtx s) n) id id id fun t =>
      SameBytes s t ∧ WritesX s t 1 { val := nextPc s })

open Sys2Proof Sys2Proof.Machine Sys2Proof.Claims in
/-- R105, R106, R108, R109: LOOP and LOOP.swp arm a counter (LC is N, or N plus the stages less one); a count of 0
goes to the end address; LOOP.swp sets p4 and clears the other stage predicates; LBRK clears a counter. R107: an
instruction that reaches the end of the one loop that ends there, no pre-emption being asked for: with LC above 1 the
context goes on at START with LC less one; with LC = 1 the loop is over. -/
def Obligations.Loops : Prop :=
  (let Same (s t : State) : Prop := KeepsX s t ∧ SameBytes s t ∧ Kept id id (fun c => { c with armedCount := 0 }) s t ∧
    (curCtx t).wait = none
  let Armed (s t : State) (n : BitVec 2) (a : BitVec 5) (lc : BitVec 32) (swp : Bool) (st : BitVec 2) (stop : Word) : Prop :=
    Same s t ∧ (NoLoopEnd s (nextPc s) →
      (curCtx t).pc = maskPc (nextPc s) ∧
      readLc (curCtx t) n.toNat =
        { lc := lc, start := nextPc s, stop := stop, n := (xv s a).setWidth 32, iter := 0, active := true, swp := swp, stg := st,
          armed := (curCtx s).armedCount, dep := (xr s a).dep } ∧
      ∀ k, k ≠ n.toNat → readLc (curCtx t) k = readLc (curCtx s) k)
  (∀ b n a g s, Guard s g → Clean s a → (curCtx s).pc.toNat + 4 < (readB (curCtx s) b).toNat → (xv s a).toNat % 2 ^ 32 ≠ 0 →
    ∃ t, exec (.loop b n a g) s = .next t ∧
      Armed s t n a ((xv s a).setWidth 32) false 0 (readB (curCtx s) b) ∧ KeepsP s t (nextPc s)) ∧
  (∀ b n a st g s, Guard s g → Clean s a → (curCtx s).pc.toNat + 4 < (readB (curCtx s) b).toNat → (xv s a).toNat % 2 ^ 32 ≠ 0 →
    (xv s a).toNat % 2 ^ 32 + st.toNat < 2 ^ 32 →
    (∀ k, k < 4 → ¬ ((readLc (curCtx s) k).active = true ∧ (readLc (curCtx s) k).swp = true)) →
    ∃ t, exec (.loopSwp b n a st g) s = .next t ∧
      Armed s t n a ((xv s a).setWidth 32 + st.setWidth 32) true st (readB (curCtx s) b) ∧
      (NoLoopEnd s (nextPc s) → ∀ k : BitVec 3, readP (curCtx t) k =
        if k.toNat = 4 then true else if 4 < k.toNat ∧ k.toNat ≤ 4 + st.toNat then false else readP (curCtx s) k)) ∧
  (∀ b n a g s, Guard s g → Clean s a → (curCtx s).pc.toNat + 4 < (readB (curCtx s) b).toNat → (xv s a).toNat % 2 ^ 32 = 0 →
    Ends (.loop b n a g) s (readB (curCtx s) b) id id id fun t => KeepsX s t ∧ SameBytes s t) ∧
  (∀ n g s, Guard s g → (readLc (curCtx s) n.toNat).active = true →
    ∃ t, exec (.lbrk n g) s = .next t ∧ Same s t ∧ (NoLoopEnd s (nextPc s) →
      (curCtx t).pc = maskPc (nextPc s) ∧
      readLc (curCtx t) n.toNat = { readLc (curCtx s) n.toNat with active := false, lc := 0 } ∧
      ∀ k, k ≠ n.toNat → readLc (curCtx t) k = readLc (curCtx s) k))) ∧
  (∀ i g d v s k, intForm i = some (g, d, v) → Guard s g → k < 4 → preempting s s.cur.core = false →
    (readLc (curCtx s) k).active = true → (readLc (curCtx s) k).stop = nextPc s → (readLc (curCtx s) k).pree = false →
    (∀ j, j < 4 → j ≠ k → ¬ ((readLc (curCtx s) j).active = true ∧ (readLc (curCtx s) j).stop = nextPc s)) →
    ∃ t, exec i s = .next t ∧
      (1 < (readLc (curCtx s) k).lc.toNat →
        (curCtx t).pc = maskPc (readLc (curCtx s) k).start ∧
        readLc (curCtx t) k = { readLc (curCtx s) k with
          lc := (readLc (curCtx s) k).lc - 1, iter := (readLc (curCtx s) k).iter + 1 }) ∧
      ((readLc (curCtx s) k).lc = 1 →
        (curCtx t).pc = maskPc (nextPc s) ∧ (readLc (curCtx t) k).active = false ∧ (readLc (curCtx t) k).lc = 0))

open Sys2Proof Sys2Proof.Machine Sys2Proof.Claims in
/-- R116, R17, R162, R166, R363: a load through a translation that allows it completes with the bytes that the core's copy of the
line has, extended, and the poison of the words it touches. Where the core holds no copy these are the bytes of memory; a copy
that may serve the access (in its lease, for a coherent line) serves it. The line is then in the L1. -/
def Obligations.Loads : Prop :=
  ∀ i g d a o n ext s x, loadForm i = some (g, d, a, o, n, ext) → Guard s g → Clean s a → ¬ InSysWin (addrOf s a o n) →
    plainXl s (isSuper (curCtx s)) .load (addrOf s a o n) n = .ok x →
    let w := wordsOf x.pa n
    let Gets (t : State) (bytes : List Byte) (marks : SMap Bool) : Prop := WritesX s t d
      { val := ext (leNat bytes), poison := anyMark marks w.1 w.2,
        origin := if anyMark marks w.1 w.2 then poisonOrigin marks (addrOf s a o n).toNat x.pa n else 0 }
    ∃ t bytes marks, exec i s = .next t ∧ Moves s t (nextPc s) ∧ Gets t bytes marks ∧
      MemKept id id id x.pa s t ∧ Untouched (fun _ => False) s t ∧
      ((l1Of t s.cur.core (x.pa / 128)).held = true ∧ getBytes (l1Of t s.cur.core (x.pa / 128)).bytes x.pa n = bytes) ∧
      (l1Hit (l1Of s s.cur.core (x.pa / 128)) x.leaf.cls (curCtx s).pts = true →
        bytes = getBytes (l1Of s s.cur.core (x.pa / 128)).bytes x.pa n ∧ marks = (l1Of s s.cur.core (x.pa / 128)).poison) ∧
      (FromMemory s x.pa n → bytes = physBytes s x.pa n ∧ anyMark marks w.1 w.2 = physMark s x.pa n)

open Sys2Proof Sys2Proof.Machine Sys2Proof.Claims in
/-- R117, R158, R162, R166: a store through a translation that allows it completes. In a coherent page of HBM the low bytes of
X[D] stand in memory; in any other page they stand in the L1, dirty, in the name of the context. A poisoned X[D] marks each
word touched, a clean one clears the words written whole; the D bit of the page is set; nothing else changes but the caches, their
logical times and the mapped stash: the raw stash stays. -/
def Obligations.Stores : Prop :=
  ∀ d a (w : BitVec 2) o g s x, Guard s g → Clean s a →
    let n := 2 ^ w.toNat
    ¬ InSysWin (addrOf s a o n) → plainXl s (isSuper (curCtx s)) .store (addrOf s a o n) n = .ok x → x.pa % n = 0 →
    ∃ t, exec (.st d a w o g) s = .next t ∧ Moves s t (nextPc s) ∧ KeepsX s t ∧
      MemKept id mapsCore mcStore x.pa s t ∧ RawKept s t ∧ Untouched (InStore x.pa (if x.leaf.cls = 2 then n else 0) x.leaf.entry) s t ∧
      ((∀ k, k < 8 → ¬ Unwritten s (x.leaf.entry + k)) → (x.leaf.cls ≠ 2 ∨ x.pa + n ≤ x.leaf.entry ∨ x.leaf.entry + 8 ≤ x.pa) →
        natBit (physNat t x.leaf.entry 8) 8 = true ∨ natBit x.leaf.w0 8 = true) ∧
      (x.leaf.cls = 2 → paKind x.pa = .hbm →
        Holds t x.pa n (xv s d).toNat ∧ (Clean s d → 4 ≤ n → physMark t x.pa n = false) ∧
        (¬ Clean s d → ∀ k, k < n → mget false t.memPoison ((x.pa + k) / 4) = true)) ∧
      (x.leaf.cls ≠ 2 →
        let l := l1Of t s.cur.core (x.pa / 128)
        let u := wordsOf x.pa n
        l.held = true ∧ getBytes l.bytes x.pa n = leBytes n (xv s d).toNat ∧
        (∀ k, k < n → mget 0 l.dirty (x.pa + k) = 1 + ctxCode s.cur.kind) ∧
        (Clean s d → 4 ≤ n → anyMark l.poison u.1 u.2 = false) ∧ (¬ Clean s d → ∀ k, k < n → mget false l.poison ((x.pa + k) / 4) = true))

open Sys2Proof Sys2Proof.Machine Sys2Proof.Claims in
/-- R423: LD.d of the system window completes with the register read, ST.d with the register written where the page
lets the mode write it, a poisoned X[D] by its bits, clean (DESIGN CHOICE, log 134); a forbidden access raises PROT, and one that is not 8
aligned bytes ALIGN, which LDU always is. -/
def Obligations.SystemWindow : Prop :=
  ∀ d a (w : BitVec 2) o g s, Guard s g → Clean s a →
    let ea := addrOf s a o (2 ^ w.toNat)
    let sup := isSuper (curCtx s)
    let ldu : Instr := if w = 0 then .lduB d a o g else if w = 1 then .lduH d a o g else .lduW d a o g
    InSysWin ea →
    (winForbidden sup false ea = false → w = 3 → ea.toNat % 8 = 0 →
      PutsX (.ld d a w o g) s d { val := sysRead (issued s) (winDie ea) (winOff ea) }) ∧
    (winForbidden sup true ea = false → w = 3 → ea.toNat % 8 = 0 → pageUse (winDie ea) (winOff ea) = .rw →
      EndsAs (.st d a w o g) s (sharedWrite (issued s) (winDie ea) (winOff ea) (xv s d))) ∧
    (winForbidden sup true ea = false → w = 3 → ea.toNat % 8 = 0 → pageUse (winDie ea) (winOff ea) ≠ .rw →
      EndsAs (.st d a w o g) s s) ∧
    (NotInTrap s → winForbidden sup false ea = true → Traps (.ld d a w o g) s 0x05 ea) ∧
    (NotInTrap s → winForbidden sup false ea = false → ¬ (w = 3 ∧ ea.toNat % 8 = 0) → Traps (.ld d a w o g) s 0x03 ea) ∧
    (NotInTrap s → winForbidden sup true ea = true → Traps (.st d a w o g) s 0x05 ea) ∧
    (NotInTrap s → winForbidden sup true ea = false → ¬ (w = 3 ∧ ea.toNat % 8 = 0) → Traps (.st d a w o g) s 0x03 ea) ∧
    (w ≠ 3 → NotInTrap s → winForbidden sup false ea = true → Traps ldu s 0x05 ea) ∧
    (w ≠ 3 → NotInTrap s → winForbidden sup false ea = false → Traps ldu s 0x03 ea)

open Sys2Proof Sys2Proof.Machine Sys2Proof.Claims in
/-- R171, R153, R117: LDS and STS at a stash address that the checks allow complete: LDS with the sign-extended
bytes and their poison, whose origin is the stash address of the word; STS with the low bytes of X[D] in the stash. An
aligned address of the core's own stash with no map entry always passes. -/
def Obligations.StashAccess : Prop :=
  ∀ d a (w : BitVec 2) o g s, Guard s g → Clean s a →
    let n := 2 ^ w.toNat
    let ea := addrOf s a o n
    let sup := isSuper (curCtx s)
    (∀ id off s1, stashXl (issued s) sup false ea n = .ok (id, off, s1) →
      let p := stashMark (coreOf s1 id) off n
      PutsAs (.lds d a w o g) s s1 d
        { val := BitVec.ofInt 64 (Int.bmod (leNat (stashBytes (coreOf s1 id) off n)) (2 ^ (8 * n))), poison := p,
          origin := stashOrigin (coreOf s1 id) ea off n, ostash := p }) ∧
    (∀ id off s1, stashXl (issued s) sup true ea n = .ok (id, off, s1) →
      let u := stashPutAs (1 + ctxCode s.cur.kind) s1 id off (leBytes n (xv s d).toNat) (xr s d).poison
      EndsAs (.sts d a w o g) s (landAgain u) ∧
      (mapAt (coreOf s1 id) off = none → stashBytes (coreOf u id) off n = leBytes n (xv s d).toNat)) ∧
    (∀ st, ea.toNat < 2 ^ 23 → ea.toNat % n = 0 → ea.toNat / 2 ^ 21 = s.cur.core.rank → (curCore s).maps = [] →
      stashXl (issued s) sup st ea n = .ok (s.cur.core, ea.toNat % 2 ^ 21, issued s))

open Sys2Proof Sys2Proof.Machine Sys2Proof.Claims in
/-- R170: SMAP adds a map entry, SUNMAP writes its dirty bytes back and removes it, SFLUSH writes back the dirty bytes
of whole lines, SINV drops the lines of a range. -/
def Obligations.StashMaps : Prop :=
  ∀ a b d g s, Guard s g → Clean s a →
    let me := s.cur.core
    let va := (xv s a).toNat
    let n := (xv s b).toNat
    let off := (xv s d).toNat
    (Clean s b → Clean s d → off < 2 ^ 21 → va < 2 ^ 56 → off % 4096 = 0 → va % 4096 = 0 → n % 4096 = 0 → n ≠ 0 →
      off + n ≤ 2 ^ 21 → (∀ m ∈ (curCore s).maps, m.off + m.len ≤ off ∨ off + n ≤ m.off) → (curCore s).maps.length < 8 →
      EndsAs (.smap d a b g) s (modCore s me fun c => { c with maps := c.maps ++ [{ off := off, va := xv s a, len := n }] })) ∧
    (∀ m, (curCore s).maps.find? (fun m => m.off = va) = some m →
      EndsAs (.sunmap a g) s (modCore (flushEntry (flushBuf (issued s) me) me m.off m.off m.len) me fun c =>
        { c with maps := c.maps.filter (fun e => e.off ≠ m.off)
                 stashWritten := (List.range (m.len / 4096)).foldl
                   (fun w k => mset false w (m.off / 4096 + k) true) c.stashWritten })) ∧
    (Clean s b → EndsAs (.sflush a b g) s (flushRange (flushBuf (issued s) me) me va n)) ∧
    (Clean s b → va % 128 = 0 → n % 128 = 0 →
      EndsAs (.sinv a b g) s (modCore (flushBuf (issued s) me) me fun c => { c with maps := c.maps.map fun m =>
        { m with filled := mclear m.filled (va / 128) (n / 128), dirty := mclear m.dirty va n } }))

open Sys2Proof Sys2Proof.Machine Sys2Proof.Claims in
/-- R175, R172: TTSET answers 1 and changes nothing for a tile that is not EMPTY; else it clears the entry for CLR and
binds it for a valid pair of words, answering 0, and answers 2 otherwise. -/
def Obligations.TileBinding : Prop :=
  ∀ d a b (n : BitVec 6) g s, Guard s g → Clean s a → Clean s b →
    let old := tileOf s s.cur.core n
    let clr : Prop := (xv s a).toNat < 2 ^ 21 ∧ xv s b = 0x8000000000000000#64
    let Gives (code : Word) (v : Tile) : Prop :=
      Ends (.ttset d a b n g) s (nextPc s) id (fun c => { c with tiles := [] }) id fun t =>
        SameBytes s t ∧ WritesX s t d { val := code } ∧ tileOf t s.cur.core n = v ∧
        ∀ k : BitVec 6, k ≠ n → tileOf t s.cur.core k = tileOf s s.cur.core k
    (old.st ≠ .empty → Gives 1 old) ∧
    (old.st = .empty → clr → Gives 0 {}) ∧
    (old.st = .empty → ¬ clr → bindingOk (xv s a) (xv s b) = true → Gives 0
      { base := (xv s a).setWidth 21, pitch := (xv s b).extractLsb' 32 16, fmt := (xv s b).extractLsb' 14 4,
        cols := (xv s b).extractLsb' 7 7, rows := (xv s b).extractLsb' 0 7, bound := true, st := .empty }) ∧
    (old.st = .empty → ¬ clr → bindingOk (xv s a) (xv s b) = false → Gives 2 old)

open Sys2Proof Sys2Proof.Machine Sys2Proof.Claims in
/-- R191-R195: an atomic at a coherent, writable, aligned address whose word is clean completes: the new value stands
in memory, X[D] takes the old one, FCTL its flags, and the operation its tag. -/
def Obligations.Atomics : Prop :=
  ∀ i g d a regs n f s x, rmwForm i = some (g, d, a, regs, n, f) → Guard s g → (∀ r ∈ regs, Clean s r) →
    cohXl s (isSuper (curCtx s)) true (xv s a) n = .ok x → paKind x.pa = .hbm → x.pa % n = 0 → physMark s x.pa n = false →
    (∀ k, k < 4 → ¬ Unwritten s (wordAt x.pa k)) →
    let r := f s (physNat s x.pa n)
    ∃ t, exec i s = .next t ∧ Moves s t (nextPc s) ∧ MemKept msTag mapsCore mcTag x.pa s t ∧ RawKept s t ∧
      Holds t x.pa n r.1 ∧ Untouched (InStore x.pa n x.leaf.entry) s t ∧ physMark t x.pa n = false ∧
      WritesX s t d { val := r.2.1 } ∧ fctlOf t = fctlOf s ||| r.2.2 ∧ TaggedCtx s t r.2.1

open Sys2Proof Sys2Proof.Machine Sys2Proof.Claims in
/-- R197, R198: FSETV sets a future that is not set, FSETV.r sets one or marks it re-set, FGETV reads a set future,
FTAKE takes it and leaves it not set. A cell that holds its own page entry, or whose bytes are dirty in a copy, is left out. -/
def Obligations.Futures : Prop :=
  ∀ a b d g s x, Guard s g → Clean s a → cohXl s (isSuper (curCtx s)) true (xv s a) 16 = .ok x → paKind x.pa = .hbm →
    paKind (x.pa + 8) = .hbm →
    (x.leaf.entry + 8 ≤ x.pa ∨ x.pa + 16 ≤ x.leaf.entry) → physMark s (x.pa + 8) 8 = false →
    (∀ k, k < 16 → ¬ Unwritten s (x.pa + k)) →
    let w := physNat s (x.pa + 8) 8
    let Does (i : Instr) (n : Nat) (extra : State → Prop) : Prop :=
      ∃ t, exec i s = .next t ∧ Moves s t (nextPc s) ∧ MemKept msTag mapsCore mcTag x.pa s t ∧ fctlOf t = fctlOf s ∧
        Untouched (fun k => n ≠ 0 ∧ InStore (x.pa + 16 - n) n x.leaf.entry k) s t ∧ extra t
    let Sets (i : Instr) (w' : Nat) : Prop := Does i 16 fun t =>
      KeepsX s t ∧ Holds t x.pa 8 (xv s b).toNat ∧ Holds t (x.pa + 8) 8 w' ∧ TaggedCtx s t 0
    let v : XReg := { val := BitVec.ofNat 64 (physNat s x.pa 8), poison := physMark s x.pa 8,
                      origin := if physMark s x.pa 8 then poisonOrigin s.memPoison (xv s a).toNat x.pa 8 else 0 }
    (Clean s b → w = 0 → Sets (.fsetv a b g) 1) ∧
    (Clean s b → w = 256 → Sets (.fsetv a b g) 257) ∧
    (Clean s b → w = 0 ∨ w = 256 → Sets (.fsetvR a b g) (w + 1)) ∧
    (Clean s b → w = 1 ∨ w = 257 → Sets (.fsetvR a b g) 257) ∧
    (w = 1 ∨ w = 257 → Does (.fgetv d a g) 0 fun t => SameBytes s t ∧ WritesX s t d v ∧ TaggedCtx s t v.val) ∧
    (w = 1 ∨ w = 257 →
      earlierTake (issued s) x.pa (match (curCtx s).wait with | some q => q.ticket | none => s.ticket) = false →
      Does (.ftake d a g) 8 fun t => Holds t (x.pa + 8) 8 (w - 1) ∧ WritesX s t d v ∧ TaggedCtx s t v.val)

open Sys2Proof Sys2Proof.Machine Sys2Proof.Claims in
/-- R129, R130, R128, R184: RSEND of the ring's sender, after its releases, appends X[A] with its poison while the fill level that
it sees is below 64; RRECV of the receiver takes the oldest entry. -/
def Obligations.Rings : Prop :=
  let mkR : Core → Core := fun c => { c with rings := [], ringTook := [] }
  let RingIs (s t : State) (r : BitVec 3) (l : List RingEntry) : Prop :=
    ringOf t s.cur.core r = l ∧ ∀ k, k ≠ r → ringOf t s.cur.core k = ringOf s s.cur.core k
  (∀ a r g s, Guard s g → s.cur.kind = ringSender r → ringLevel s s.cur.core r < 64 →
    EndsFrom (.rsend a r g) s (released s [1, 10]) id mkR id fun t => KeepsX s t ∧ RingIs s t r (ringOf s s.cur.core r ++ [⟨xv s a, (xr s a).poison⟩])) ∧
  (∀ d r g s e l, Guard s g → s.cur.kind = ringReceiver r → ringOf s s.cur.core r = e :: l →
    Ends (.rrecv d r g) s (nextPc s) id mkR mcPts fun t =>
      SameBytes s t ∧ RingIs s t r l ∧ WritesX s t d { val := e.val, poison := e.poison, dep := r = 2 })

open Sys2Proof Sys2Proof.Machine Sys2Proof.Claims in
/-- R133, R134, R124, R184: KSIG, after its releases, adds to a semaphore, saturating at 0xFFFF with OVF, and sets the event latches of the
core; KSET writes it and clears OVF. -/
def Obligations.Semaphores : Prop :=
  ∀ a k g s, Guard s g → Clean s a → (xv s a).toNat ≤ 0xFFFF →
    let old := semOf s s.cur.core k
    let sum := old.count.toNat + (xv s a).toNat
    let Sets (i : Instr) (u : State) (v : Sem) (extra : State → Prop) : Prop :=
      EndsFrom i s u id (fun c => { c with sems := [], sigPts := 0 }) id fun t =>
        KeepsX s t ∧ semOf t s.cur.core k = v ∧
        (∀ j : BitVec 5, j ≠ k → semOf t s.cur.core j = semOf s s.cur.core j) ∧ extra t
    Sets (.ksig a k g) (released s [1, 10]) (if sum ≤ 0xFFFF then { count := BitVec.ofNat 16 sum, ovf := old.ovf } else { count := 0xFFFF, ovf := true })
      (fun t => (∀ kind, (ctxOf t ⟨s.cur.core, kind⟩).latch = true) ∧ (curCtx s).pts ≤ (curCore t).sigPts) ∧
    Sets (.kset a k g) s { count := (xv s a).setWidth 16, ovf := false } fun _ => True

open Sys2Proof Sys2Proof.Machine Sys2Proof.Claims in
/-- R136, R137: CARRIVE publishes to the cluster, takes the target G + 1 and, with the last of the team, steps G and
clears A; CWAIT whose target is reached acquires from the cluster. -/
def Obligations.Barriers : Prop :=
  (∀ (n : BitVec 3) g s, Guard s g → s.cur.core.rank < 4 →
    (mget ({} : Barrier) (curClus s).barriers n.toNat).a.getLsbD s.cur.core.rank = false →
    let u := released s [2]
    let b : Barrier := mget {} (curClus u).barriers n.toNat
    let last : Prop := ∀ r, r < teamSize s s.cur.core → r ≠ s.cur.core.rank →
      b.a.getLsbD r = true ∨ (coreOf u (coreAt (CoreId.cl s.cur.core) r)).unit = none
    ∃ t, exec (.carrive n g) s = .next t ∧ Moves u t (nextPc s) ∧ KeepsX u t ∧ SameBytes u t ∧
      Kept (fun y => { y with clusters := [] }) id id u t ∧
      (let b' : Barrier := mget {} (curClus t).barriers n.toNat
       mget 0 b'.t s.cur.core.rank = b.g + 1 ∧
       (last → b'.g = b.g + 1 ∧ b'.a = 0) ∧
       (¬ last → b'.g = b.g ∧ ∀ r, r < 4 → b'.a.getLsbD r = (b.a.getLsbD r || decide (r = s.cur.core.rank)))) ∧
      (∀ k, k ≠ n.toNat → mget ({} : Barrier) (curClus t).barriers k = mget {} (curClus u).barriers k) ∧
      ∀ c, clusKey c ≠ clusKey (CoreId.cl s.cur.core) → clusOf t c = clusOf u c) ∧
  (∀ (n : BitVec 3) g s, Guard s g →
    (let b : Barrier := mget {} (curClus s).barriers n.toNat
     (b.g - mget 0 b.t s.cur.core.rank).toNat < 2 ^ 31) →
    EndsAs (.cwait n g) s (acquires (issued s) [2]))

open Sys2Proof Sys2Proof.Machine Sys2Proof.Claims in
/-- R182, R183: a fence above scope ctx does its work and waits; considered again it completes, unless writes it covers are held
at the egress (R405) or unacknowledged (R179). PUBLISH above scope clus makes every dirty read-shared byte that the context wrote stand in
memory, here where the line is of HBM and neither a map entry nor the write buffer holds bytes; ACQUIRE from clus on leaves no clean
read-shared line in the L1 or the mapped stash and takes over the time published. They change copies, their logical times and the memory
bytes that dirty copies stand for, and no other register, byte of memory or byte of the raw stash. FENCE.pers without a safe tier raises
PROT with TVAL 0. -/
def Obligations.Fences : Prop :=
  let form : Instr → State → Option (BitVec 3 × BitVec 3 × BitVec 4 × State) := fun i s =>
    let c := countFence (issued s) (curCtx (issued s))
    match i with
    | .fenceAcq sc g => some (g, 0, sc, acquires c [sc.toNat])
    | .fenceRel sc g => some (g, 1, sc, c)
    | .fenceFull sc g => some (g, 2, sc, acquires (release c [sc.toNat]) [sc.toNat])
    | .fencePub sc g => some (g, 3, sc, release c [sc.toNat])
    | .fencePers g => if (mget ({} : Tier) s.pkg.tiers (partOf s s.cur.core)).v then some (g, 4, 11, persist (release c [6])) else none
    | _ => none
  (∀ i g kind sc s u, form i s = some (g, kind, sc, u) → Guard s g → sc ≠ 0 →
    ((curCtx s).wait = none → ∃ t, exec i s = .next t ∧ KeepsX u t ∧ SameBytes u t ∧ (curCtx t).pc = (curCtx u).pc ∧
      ((curCtx u).wait = none → (curCtx t).wait = some ⟨.fence kind sc, u.cyc.toNat, u.ticket⟩) ∧
      Kept (fun y => { y with ticket := 0 }) id id u t) ∧
    ((curCtx s).wait ≠ none → (kind = 0 ∨ writesHeld s sc.toNat = false) →
      Ends i s (nextPc s) id id id fun t => KeepsX s t ∧ SameBytes s t)) ∧
  (∀ l s,
    (MemKept id mapsCore id 0 s (release s l) ∧ RawKept s (release s l) ∧ Untouched (fun _ => False) s (release s l)) ∧
    (MemKept id mapsCore id 0 s (acquires s l) ∧ RawKept s (acquires s l) ∧ SameBytes s (acquires s l))) ∧
  (∀ k s line, 3 ≤ k → k ≤ 10 → mwf {} (curCore s).l1 = true → (∀ e ∈ (curCore s).l1, ∀ d ∈ e.2.dirty, d.1 / 128 = e.1) →
    (curCore s).maps = [] → (curClus s).wbuf = [] → paKind (128 * line) = .hbm →
    let l := l1Of s s.cur.core line
    let t := release s [k]
    l.cls = 1 → ∀ a, mget 0 l.dirty a = 1 + ctxCode s.cur.kind →
      physBytes t a 1 = [mget 0 l.bytes a] ∧ mget 0 (l1Of t s.cur.core line).dirty a = 0) ∧
  (∀ k s, 2 ≤ k → k ≤ 9 →
    let t := acquires s [k]
    (∀ e ∈ (curCore t).l1, e.2.cls = 1 → e.2.dirty ≠ []) ∧
    (∀ m ∈ (curCore t).maps, ∀ e ∈ m.filled, e.2.cls = 1 → mslice m.dirty (e.1 * 128) 128 ≠ []) ∧
    (curCtx t).pts = Nat.max (curCtx s).pts (acquireTime s s.cur.core k)) ∧
  ∀ g s, Guard s g → NotInTrap s → (curCtx s).wait = none → (mget ({} : Tier) s.pkg.tiers (partOf s s.cur.core)).v = false →
    Traps (.fencePers g) s 0x05 0

open Sys2Proof Sys2Proof.Machine Sys2Proof.Claims in
/-- R201, R204, R205, R217, R184: ENQ with room, after its release to the engines, appends its words in order, each launch word with
the modes of the context and the next entry index; ENQS with room appends the words of the script. -/
def Obligations.Feeding : Prop :=
  (∀ e a b (n : BitVec 3) g s q, Guard s g → fedEng s e = some q → Clean s a → (3 < n.toNat → Clean s b) →
    (queueOf s s.cur.core q).words.length + n.toNat < 256 →
    let old := queueOf s s.cur.core q
    let word (k : Nat) : BitVec 16 :=
      if k < 4 then (xv s a).extractLsb' (16 * k) 16 else (xv s b).extractLsb' (16 * (k - 4)) 16
    let new : List QWord := (List.range (n.toNat + 1)).map fun k =>
      { w := word k, modes := if (word k).extractLsb' 14 2 = 1 then captureModes s (curCtx s) else {}, came := s.cyc.toNat }
    EndsFrom (.enq e a b n g) s (released s [10]) id
      (fun c => { c with qLd := {}, qSt := {}, qMx := {}, qVx := {}, qRw := {}, qCp := {} }) id fun t =>
      KeepsX s t ∧
      queueOf t s.cur.core q = { old with
        words := old.words ++ new
        enqIdx := old.enqIdx + BitVec.ofNat 16 (new.filter fun w => w.w.extractLsb' 14 2 = 1).length
        headSince := if old.words.any (fun w => w.w.extractLsb' 14 2 = 1) then old.headSince else s.cyc.toNat
        pts := Nat.max old.pts (curCtx s).pts } ∧
      ∀ k, k ≠ q → queueOf t s.cur.core k = queueOf s s.cur.core k) ∧
  (∀ e a b g s q, Guard s g → fedEng s e = some q → Clean s a → Clean s b →
    let va := (xv s a).toNat
    let n := (xv s b).toNat
    va < 2 ^ 56 → va % 2 = 0 → n ≤ 4096 →
    scanRange s (isSuper (curCtx s)) (va + 2 * n) 4 va = none → (curCtx s).wait = none → (curCtx s).enqsAddr ≠ some (curCtx s).pc →
    (curCtx s).enqsAt.1 ≠ s.cyc.toNat → n ≤ 16 → (queueOf s s.cur.core q).words.length + n ≤ 256 →
    let r := scriptWords (isSuper (curCtx s)) (captureModes s (curCtx s)) n (released s [10]) va
    EndsAs (.enqs e a b g) s (modCtx (feed r.2 q r.1) s.cur fun c => { c with enqsAt := (s.cyc.toNat, n) })) ∧
  (∀ e a b g s q, Guard s g → fedEng s e = some q → Clean s a → Clean s b →
    let va := (xv s a).toNat
    let n := (xv s b).toNat
    va < 2 ^ 56 → va % 2 = 0 → n ≤ 4096 →
    scanRange s (isSuper (curCtx s)) (va + 2 * n) 4 va = none → (curCtx s).wait = none → (curCtx s).enqsAddr ≠ some (curCtx s).pc →
    (curCtx s).enqsAt.1 ≠ s.cyc.toNat → 16 < n → (queueOf s s.cur.core q).words.length + 16 ≤ 256 → preempting s s.cur.core = false →
    ∃ t, exec (.enqs e a b g) s = .next t ∧ (curCtx t).pc = (curCtx s).pc ∧ KeepsX s t ∧
      (curCtx t).wait.map (·.what) = some (.enqs e a b 16) ∧
      (queueOf t s.cur.core q).words.length = (queueOf s s.cur.core q).words.length + 16)

open Sys2Proof Sys2Proof.Machine Sys2Proof.Claims in
/-- R221, R222, R431: LEASE completes for the holder and otherwise asks and waits; LREL without a lease does nothing,
with MXQ idle ends the lease and leaves the array as at unit start, and with a dirty bank parks the array first
and raises LEASE with subcause 1. -/
def Obligations.LeaseInstructions : Prop :=
  ∀ g s, Guard s g → s.cur.kind = .exec →
    let me := s.cur.core
    let cl := CoreId.cl me
    (holdsLease s me = true → EndsAs (.lease g) s
      (modClus s cl fun c => { c with leaseReqs := c.leaseReqs.filter fun r => r ≠ me.rank })) ∧
    (holdsLease s me = false → preempting s me = false → ∃ t, exec (.lease g) s = .next t ∧ (curCtx t).pc = (curCtx s).pc ∧ KeepsX s t ∧ SameBytes s t ∧
      me.rank ∈ (curClus t).leaseReqs ∧ Kept (fun y => { y with clusters := [], ticket := 0 }) id id s t) ∧
    (holdsLease s me = false → Ends (.lrel g) s (nextPc s) id id id fun t => KeepsX s t ∧ SameBytes s t) ∧
    (holdsLease s me = true → queueIdle (curCore s).qMx = true → arrayDirty (curClus s) = false →
      EndsAs (.lrel g) s (endLease (issued s) cl) ∧
      (clusOf (endLease (issued s) cl) cl).leaseHolder = none ∧ (clusOf (endLease (issued s) cl) cl).array = {} ∧
      (clusOf (endLease (issued s) cl) cl).lastHolder = me.rank) ∧
    (holdsLease s me = true → queueIdle (curCore s).qMx = true → arrayDirty (curClus s) = true → NotInTrap s →
      ∃ t, exec (.lrel g) s = .next t ∧ SameBytes s t ∧ (curCore t).park = (curClus s).array ∧
        (curClus t).leaseHolder = none ∧ (curClus t).array = {} ∧
        EntersTrap (fun y => { y with clusters := [] }) (fun c => { c with park := {}, qMx := {}, qVx := {}, qRw := {} }) s t 0x10 1)

open Sys2Proof Sys2Proof.Machine Sys2Proof.Claims in
/-- R416: PACQ whose grant fits the cluster's charge rate with nobody waiting takes the level; PREL gives it back. R66: a level of 0 or above 116 raises ILLOP. -/
def Obligations.PowerRegions : Prop :=
  let mkP : Core → Core := fun c => { c with plevel := 0, pdecl := 0 }
  let OnlyRsv (s t : State) (v : Byte) : Prop :=
    curClus t = { curClus s with rsv := v } ∧
    ∀ c, clusKey c ≠ clusKey (CoreId.cl s.cur.core) → clusOf t c = clusOf s c
  (∀ (l : Byte) g s, l.toNat = 0 ∨ 116 < l.toNat → NotInTrap s → Traps (.pacq l g) s 0x01 (wordVal (.pacq l g))) ∧
  (∀ (l : Byte) g s, Guard s g → 1 ≤ l.toNat → l.toNat ≤ 116 → (curClus s).pacq = [] →
    (curClus s).rsv.toNat + l.toNat ≤ (curClus s).rate.toNat + (curCore s).plevel.toNat →
    Ends (.pacq l g) s (nextPc s) (fun y => { y with clusters := [] }) mkP id fun t =>
      KeepsX s t ∧ SameBytes s t ∧ (curCore t).plevel = l ∧ (curCore t).pdecl = l ∧
      OnlyRsv s t ((curClus s).rsv - (curCore s).plevel + l)) ∧
  (∀ g s, Guard s g → (curCore s).plevel = 0 → Ends (.prel g) s (nextPc s) id id id fun t => KeepsX s t ∧ SameBytes s t) ∧
  (∀ g s, Guard s g → (curCore s).plevel ≠ 0 →
    Ends (.prel g) s (nextPc s) (fun y => { y with clusters := [] }) mkP id fun t =>
      KeepsX s t ∧ SameBytes s t ∧ (curCore t).plevel = 0 ∧ (curCore t).pdecl = 0 ∧
      OnlyRsv s t ((curClus s).rsv - (curCore s).plevel))

open Sys2Proof Sys2Proof.Machine Sys2Proof.Claims in
/-- R316-R322: an insert with room or a match takes place and answers 1, a CHINS without answers 0 and counts; CHTAKE
claims the oldest waiting record, stores its key and payload and answers its header, or 0 for none; CHDONE retires a
claimed record; CHCFG answers the old status and configures an empty queue. -/
def Obligations.ChurnInstructions : Prop :=
  let msC : State → State := fun y => { msTag y with pkg := { (msTag y).pkg with churn := [] } }
  let QueueIs (s t : State) (q : BitVec 6) (v : Churn) : Prop :=
    churnOf t q.toNat = v ∧ ∀ k, k ≠ q.toNat → churnOf t k = churnOf s k
  let Inserts (i : Instr) (s : State) (p : BitVec 3) (q : BitVec 6) (v : Churn) (ok : Bool) : Prop :=
    ∃ t, exec i s = .next t ∧ GoesOn s t (nextPc s) ∧ WritesP s t (nextPc s) p ok ∧ KeepsX s t ∧ SameBytes s t ∧
      Kept msC id mcTag s t ∧ fctlOf t = fctlOf s ∧ QueueIs s t q v ∧ TaggedCtx s t (if ok then 1 else 0)
  (∀ p a b (q : BitVec 6) g s, Guard s g → Clean s a → Clean s b → insertCheck s s.cur.core q.toNat true (xv s a) = none →
    let ch := churnOf s q.toNat
    let new := churnInsert ch (xv s a) (leBytes 8 (xv s b).toNat)
    (churnCan ch (xv s a) = true → Inserts (.chins p a b q g) s p q new true) ∧
    (churnCan ch (xv s a) = false →
      Inserts (.chins p a b q g) s p q { ch with rej := if ch.rej = 0xFFFF then 0xFFFF else ch.rej + 1 } false) ∧
    (churnCan ch (xv s a) = true →
      earlierInsert (issued s) q.toNat (match (curCtx s).wait with | some w => w.ticket | none => s.ticket) ch = false →
      Inserts (.chinsw p a b q g) s p q new true)) ∧
  (∀ d a (q : BitVec 6) g s, Guard s g → Clean s a → churnOwns s s.cur.core q.toNat = true →
    let ch := churnOf s q.toNat
    let ea := (xv s a).toNat
    ch.en = true → ch.bind = false → ea < 2 ^ 56 → ea % 8 = 0 →
    storeRange s (isSuper (curCtx s)) ea (ch.psz + 2) = .ok () →
    (churnOldest ch = none → PutsAs (.chtake d a q g) s (tagCtx (issued s) 0) d {}) ∧
    (∀ k, churnOldest ch = some k →
      let h := churnHeader ch q.toNat k
      let r : ChurnRec := mget {} ch.recs k
      PutsAs (.chtake d a q g) s
        (storeWords (isSuper (curCtx s)) ea (r.key.toNat :: cutFields 8 (ch.psz + 1) r.payload)
          (modChurn (tagCtx (issued s) h) q.toNat fun c => churnClaim c k)) d { val := h })) ∧
  (∀ a (q : BitVec 6) g s, Guard s g → Clean s a → churnOwns s s.cur.core q.toNat = true →
    let k := bitsAt (xv s a) 0 10
    let r : ChurnRec := mget {} (churnOf s q.toNat).recs k
    r.st = .claimed → r.gen.toNat = bitsAt (xv s a) 48 15 →
    Ends (.chdone a q g) s (nextPc s) msC id mcTag fun t =>
      KeepsX s t ∧ SameBytes s t ∧ fctlOf t = fctlOf s ∧ TaggedCtx s t 0 ∧ (∀ j, j ≠ q.toNat → churnOf t j = churnOf s j) ∧
      mget {} (churnOf t q.toNat).recs k = ({ gen := r.gen } : ChurnRec) ∧
      ∀ j, j ≠ k → mget ({} : ChurnRec) (churnOf t q.toNat).recs j = mget {} (churnOf s q.toNat).recs j) ∧
  (∀ d a b (q : BitVec 6) g s, Guard s g → Clean s a → Clean s b → churnOwns s s.cur.core q.toNat = true →
    (xv s a).getLsbD 63 = false →
    churnCfgOk (xv s a) (readDesc s (rootOf s s.cur.core) (xv s b)) = true → churnUsed (churnOf s q.toNat) = 0 →
    Ends (.chcfg d a b q g) s (nextPc s) msC id mcTag fun t =>
      SameBytes s t ∧ fctlOf t = fctlOf s ∧ WritesX s t d { val := churnStatus (churnOf s q.toNat) } ∧
      TaggedCtx s t (churnStatus (churnOf s q.toNat)) ∧
      QueueIs s t q { churnOf s q.toNat with
        en := (xv s a).getLsbD 0, kw := (xv s a).getLsbD 1, psz := bitsAt (xv s a) 3 3, opr := (xv s a).extractLsb' 8 4,
        cap := bitsAt (xv s a) 16 11, bind := (xv s a).getLsbD 28, conc := bitsAt (xv s a) 29 3,
        templ := if (xv s a).getLsbD 28 then xv s b else 0, rej := 0, drops := 0, recs := [] })

open Sys2Proof Sys2Proof.Machine Sys2Proof.Claims in
/-- R380, R384-R389: the instructions of long activities release to the package first; LABEGIN opens an activity under
the next number, LASTEP pushes a compensation record, LAEND commits, LAABORT abandons, LACTL acts on a frozen
activity of the job; each answers its status in X[D]. -/
def Obligations.LongActivities : Prop :=
  ∀ d a b g s, Guard s g →
    let me := s.cur.core
    let r := laRelease (issued s) (curCtx (issued s))
    (Clean s a → ∀ x, cohXl s (isSuper (curCtx s)) true (xv s a) 16 = .ok x →
      (openAct r me ≠ none → PutsAs (.labegin d a g) s r d { val := 0x8000000000000001 }) ∧
      (openAct r me = none → 4096 ≤ r.pkg.acts.length → PutsAs (.labegin d a g) s r d { val := 0x8000000000000002 }) ∧
      (openAct r me = none → r.pkg.acts.length < 4096 →
        let u := ((curCore s).unit).getD {}
        let act : Activity := { laid := r.pkg.seq, sw := xv s a, swPa := x.pa, swKey := homeKey x.leaf x.pa, job := (jobAt s me).getD 0,
                                lid := u.lid, lcid := u.lcid, uid := u.uid }
        PutsAs (.labegin d a g) s
          (afterStep (writeStateWord (modPkg (setLeafDirty (modPkg r fun p => { p with seq := p.seq + 1 }) me x.leaf)
            fun p => { p with acts := p.acts ++ [act] }) act)) d { val := r.pkg.seq })) ∧
    (Clean s a → Clean s b → (xv s a).toNat < 2 ^ 56 → checkArgs s (isSuper (curCtx s)) 6 (xv s b) = .ok () →
      (openAct r me = none → PutsAs (.lastep d a b g) s r d { val := 1 }) ∧
      (∀ act, openAct r me = some act → act.steps ≠ 65535 → (dieOf r me.die).las.length < lasSize (dieOf r me.die) →
        let q := readArgs (argXls s (isSuper (curCtx s)) 6 (xv s b)) r
        let z := toSeq q.2
        let rec' : LaRec := { slot := freeSlot (dieOf z me.die).las, seq := z.pkg.seq, laid := act.laid, entry := xv s a,
                              args := q.1, step := act.steps + 1, job := act.job,
                              lcid := act.lcid, sw := act.sw }
        PutsAs (.lastep d a b g) s
          (afterStep (modAct (writeRec (modDie (modPkg z fun p => { p with seq := p.seq + 1 }) me.die
            fun di => { di with las := di.las ++ [rec'] }) me.die rec') act.laid fun k => { k with steps := k.steps + 1 })) d {})) ∧
    (openAct r me = none → PutsAs (.laend d g) s r d { val := 1 } ∧ PutsAs (.laabort d g) s r d { val := 1 }) ∧
    (∀ act, openAct r me = some act →
      PutsAs (.laend d g) s (afterStep (endAct r act.laid .committed)) d {} ∧
      PutsAs (.laabort d g) s (retireJob (afterStep (abandonUnit r me)) act.job) d {}) ∧
    (Super s → Clean s a → Clean s b → ∀ act, actOf r (xv s a) = some act → some act.job = jobAt s me → act.phase = .frozen →
      (xv s b).toNat ≤ 2 → PutsAs (.lactl d a b g) s (retireJob (afterStep (lactlAct r (xv s a) (xv s b).toNat)) act.job) d {})

open Sys2Proof Sys2Proof.Machine Sys2Proof.Claims in
/-- R120, R13, R18: CRW, CRS and CRC answer the old value in X[D] and write X[A], the OR with X[A] or the AND with its
complement, and the count of their own issue reaches a counter after the write; a register that is read-only in the mode is not written; a value the register refuses raises ILLOP.
R16: in supervisor mode CRW of TSTAT writes PIE, IE and PPM and leaves INH, PM and CAUSE; a reserved bit or a PPM
above 1 raises ILLOP. -/
def Obligations.ControlRegisterWrites : Prop :=
  (let form : Instr → Option (BitVec 5 × BitVec 5 × BitVec 11 × BitVec 3 × Bool × (Word → Word → Word)) := fun i => match i with
    | .crw d a r g => some (d, a, r, g, false, fun _ v => v)
    | .crs d a r g => some (d, a, r, g, true, fun old v => old ||| v)
    | .crc d a r g => some (d, a, r, g, true, fun old v => old &&& ~~~v)
    | _ => none
  ∀ i d a r g both f s, form i = some (d, a, r, g, both, f) → Guard s g → crAssigned r = true → (crPriv r = true → Super s) → Clean s a →
    let old := readCr s (curCtx s) r
    let v := crX s (curCtx s) r
    let tag := (xr s a).dep || (both && v.dep)
    v.val = old ∧ v.poison = false ∧
    (crReadOnly r (isSuper (curCtx s)) = true → PutsX i s d v) ∧
    (∀ w, crReadOnly r (isSuper (curCtx s)) = false → writeCr s r (f old (xv s a)) = some w →
      PutsAs i s (tagCr (countIssueBy s w) r tag) d v) ∧
    (crReadOnly r (isSuper (curCtx s)) = false → writeCr s r (f old (xv s a)) = none → NotInTrap s → Traps i s 0x01 (wordVal i))) ∧
  (∀ d a g s, Guard s g → Super s → Clean s a →
    let v := xv s a
    let good : Prop := (v &&& 0xFFFFFFFFFF00FF80) = 0 ∧ (v >>> 3) &&& 3 ≤ 1
    (good → Ends (.crw d a 0x010 g) s (nextPc s) id id (fun c => { c with tstat := 0, crdep := [] }) fun t =>
      SameBytes s t ∧ WritesX s t d { val := (curCtx s).tstat, dep := mget false (curCtx s).crdep 0x10 } ∧
      tsInh (curCtx t).tstat = tsInh (curCtx s).tstat ∧ tsPm (curCtx t).tstat = tsPm (curCtx s).tstat ∧
      tsCause (curCtx t).tstat = tsCause (curCtx s).tstat ∧ tsPpm (curCtx t).tstat = tsPpm v ∧
      tsIe (curCtx t).tstat = tsIe v ∧ tsPie (curCtx t).tstat = tsPie v) ∧
    (¬ good → NotInTrap s → Traps (.crw d a 0x010 g) s 0x01 (wordVal (.crw d a 0x010 g))))

open Sys2Proof Sys2Proof.Machine Sys2Proof.Claims in
/-- R121, R330: TRAP enters the handler with cause TRAPI and CODE as TVAL; within a handler it removes the unit. A load
inside a handler that finds no page enters the handler again, the outer trap's registers being kept in the second
level; a second one removes the unit. -/
def Obligations.TrapsAndNesting : Prop :=
  (∀ (n : BitVec 10) g s, Guard s g → NotInTrap s → Traps (.trap n g) s 0x0D (n.setWidth 64)) ∧
  (∀ (n : BitVec 10) g s, Guard s g → ¬ NotInTrap s → (curCore s).unit ≠ none → (curCore s).removal = none →
    ∃ t, exec (.trap n g) s = .next t ∧ (curCore t).removal ≠ none) ∧
  (∀ i g d a o n ext s, loadForm i = some (g, d, a, o, n, ext) → Guard s g → Clean s a → ¬ NotInTrap s →
    ¬ InSysWin (addrOf s a o n) → plainXl s (isSuper (curCtx s)) .load (addrOf s a o n) n = .error 0x04 →
    ((curCtx s).nest = false → ∃ t, exec i s = .next t ∧
      (let c := curCtx s
       let k := curCtx t
       k.nest = true ∧
       k.save2 = { tsave := c.tsave, tepc := c.tepc, tval := c.tval, tentry := c.tentry, cause := tsCause c.tstat,
                   stopped := c.stopped, entryCycle := c.entryCycle, crdep := c.crdep } ∧
       k.tsave = c.tstat ∧ k.tepc = c.pc ∧ k.tval = addrOf s a o n ∧ tsCause k.tstat = 0x04 ∧ tsInh k.tstat = true ∧
       k.pc = maskPc (c.tvec + 0x100)) ∧ KeepsX s t ∧ SameBytes s t) ∧
    ((curCtx s).nest = true → (curCore s).unit ≠ none → (curCore s).removal = none →
      ∃ t, exec i s = .next t ∧ (curCore t).removal ≠ none))

open Sys2Proof Sys2Proof.Machine Sys2Proof.Claims in
/-- R122, R331, R332: TRET in a handler restores INH, PM, PPM, IE and PIE from TSAVE, leaves CAUSE, and goes to TEPC;
from the second level it brings the outer trap's registers back; after an engine trap it resolves the queue: the entry's
own index resumes it, another than the next one flushes it. Outside a handler it raises ILLOP. -/
def Obligations.TrapReturn : Prop :=
  ∀ g s, Guard s g →
    let c := curCtx s
    (NotInTrap s → Traps (.tret g) s 0x01 (wordVal (.tret g))) ∧
    (¬ NotInTrap s → Super s → c.tsave &&& 0xFFFFFFFFFF00FF80 = 0 → (tsPm c.tsave).toNat ≤ 1 → (tsPpm c.tsave).toNat ≤ 1 →
      (c.stopped = none → ∃ t, exec (.tret g) s = .next t ∧
        (let k := curCtx t
         tsInh k.tstat = tsInh c.tsave ∧ tsPm k.tstat = tsPm c.tsave ∧ tsPpm k.tstat = tsPpm c.tsave ∧
         tsIe k.tstat = tsIe c.tsave ∧ tsPie k.tstat = tsPie c.tsave ∧
         tsCause k.tstat = (if c.nest then c.save2.cause else tsCause c.tstat) ∧
         k.pc = c.tepc ∧ k.run = (if c.tepc = 0 then .ended else .running) ∧ k.nest = false ∧
         k.tsave = (if c.nest then c.save2.tsave else c.tsave) ∧ k.tepc = (if c.nest then c.save2.tepc else c.tepc) ∧
         k.tval = (if c.nest then c.save2.tval else c.tval) ∧ k.tentry = (if c.nest then c.save2.tentry else c.tentry) ∧
         k.p = c.p ∧ k.lc = c.lc) ∧
        KeepsX s t ∧ SameBytes s t ∧
        Kept id id (fun k => { k with tstat := 0, tsave := 0, tepc := 0, tval := 0, tentry := 0, nest := false, stopped := none, entryCycle := 0, crdep := [] }) s t) ∧
      (∀ i, c.stopped = some i → bitsAt c.tentry 16 5 = engCode i.eng → ∃ t, exec (.tret g) s = .next t ∧ (curCtx t).pc = c.tepc ∧
        (c.tentry.setWidth 16 = i.index →
          (queueOf t s.cur.core i.eng).stop = none ∧ (queueOf t s.cur.core i.eng).words = (queueOf s s.cur.core i.eng).words) ∧
        (c.tentry.setWidth 16 ≠ i.index → c.tentry.setWidth 16 ≠ i.index + 1 →
          (queueOf t s.cur.core i.eng).words = [] ∧ (queueOf t s.cur.core i.eng).headIdx = (queueOf s s.cur.core i.eng).enqIdx)))

open Sys2Proof Sys2Proof.Machine Sys2Proof.Claims in
/-- R123-R125, R376: YIELD renews the team's budget and lets another staged team run; WFE with the event latch set clears
it and goes on; CANCEL of supervisor mode, or of the unit's own launch, cancels what X[A] names. -/
def Obligations.YieldWfeCancel : Prop :=
  (∀ g s, Guard s g →
    let cl := CoreId.cl s.cur.core
    EndsAs (.yield g) s (decideSlot (modTeam (issued s) cl fun t => { t with rem := t.bud }) cl true)) ∧
  (∀ g s, Guard s g → (curCtx s).latch = true → Ends (.wfe g) s (nextPc s) id id id fun t =>
    KeepsX s t ∧ SameBytes s t ∧ (curCtx t).latch = false) ∧
  (∀ a (l : BitVec 2) g s, Guard s g → Clean s a →
    (Super s ∨ (l = 0 ∧ ∃ u, (curCore s).unit = some u ∧ xv s a = u.lid.setWidth 64)) →
    EndsAs (.cancel a l g) s (cancelNamed (issued s) l (xv s a)))

open Sys2Proof Sys2Proof.Machine Sys2Proof.Claims in
/-- R116, R117, R151, R154, R158: a load or store of an address above 2^56 raises PROT, of a misaligned one ALIGN, of one
without a page PAGE, of one whose page does not allow it PROT, TVAL being the address; nothing else changes. -/
def Obligations.AccessTraps : Prop :=
  let form : Instr → Option (BitVec 3 × BitVec 5 × BitVec 10 × Nat × Acc) := fun i => match i with
    | .ld _ a w o g => some (g, a, o, 2 ^ w.toNat, .load)
    | .lduB _ a o g => some (g, a, o, 1, .load)
    | .lduH _ a o g => some (g, a, o, 2, .load)
    | .lduW _ a o g => some (g, a, o, 4, .load)
    | .st _ a w o g => some (g, a, o, 2 ^ w.toNat, .store)
    | _ => none
  ∀ i g a o n k s, form i = some (g, a, o, n, k) → Guard s g → Clean s a → NotInTrap s →
    let ea := addrOf s a o n
    (2 ^ 56 ≤ ea.toNat → Traps i s 0x05 ea) ∧
    (ea.toNat < 2 ^ 56 → ¬ InSysWin ea →
      (ea.toNat % n ≠ 0 → Traps i s 0x03 ea) ∧
      (ea.toNat % n = 0 → walk s s.cur.core ea.toNat = none → TrapsAt i s 0x04 ea) ∧
      (ea.toNat % n = 0 → ∀ l, walk s s.cur.core ea.toNat = some l →
        (leafPermits l k (isSuper (curCtx s)) = false ∨ paAllowed s s.cur.core l.cls (l.pa + (ea.toNat - l.va)) = false) →
        TrapsAt i s 0x05 ea))

open Sys2Proof Sys2Proof.Machine Sys2Proof.Claims in
/-- R66, R67, R18, R389: an encoding that the context may not issue raises ILLOP whatever its guard; LACTL and the
supervisor's control registers raise PRIV in user mode. TVAL is the word. -/
def Obligations.IllegalAndPrivileged : Prop :=
  (∀ i s, ¬ encodingOk s i → NotInTrap s → Traps i s 0x01 (wordVal i)) ∧
  (∀ d a b g s, Guard s g → ¬ Super s → NotInTrap s → Traps (.lactl d a b g) s 0x02 (wordVal (.lactl d a b g))) ∧
  (∀ d a r g s, Guard s g → ¬ Super s → NotInTrap s → 0x10 ≤ r.toNat → r.toNat ≤ 0x17 →
    Traps (.crr d r g) s 0x02 (wordVal (.crr d r g)) ∧ Traps (.crw d a r g) s 0x02 (wordVal (.crw d a r g)) ∧
    Traps (.crs d a r g) s 0x02 (wordVal (.crs d a r g)) ∧ Traps (.crc d a r g) s 0x02 (wordVal (.crc d a r g)))

open Sys2Proof Sys2Proof.Machine Sys2Proof.Claims in
/-- R91, R349: an instruction that consumes a poisoned register raises POISON with the register's number, the first in
its order, and writes no register. -/
def Obligations.PoisonedSources : Prop :=
  ∀ i g regs r s, consumed i = some (g, regs) → Guard s g → NotInTrap s →
    regs.find? (fun n => (xr s n).poison) = some r →
    ∃ t, exec i s = .next t ∧ EntersTrap (fun _ => {}) id s t 0x06 (r.setWidth 64)

open Sys2Proof Sys2Proof.Machine Sys2Proof.Claims in
/-- R130, R134, R137, R175, R196, R204, R208, R124: an instruction that cannot go on waits: the context records the wait
with its cycle and arrival number, and nothing else changes. WAITV, which reads its word, changes the copies of lines as well. -/
def Obligations.Waiting : Prop :=
  let Waits (i : Instr) (s : State) (w : Wait) (extra : State → Prop) : Prop :=
    ∃ t, exec i s = .next t ∧ (curCtx t).wait = some ⟨w, s.cyc.toNat, s.ticket⟩ ∧ t.ticket = s.ticket + 1 ∧
      (curCtx t).pc = (curCtx s).pc ∧ (curCtx t).run = (curCtx s).run ∧ (curCtx t).p = (curCtx s).p ∧
      (curCtx t).lc = (curCtx s).lc ∧ KeepsX s t ∧ SameBytes s t ∧ extra t
  (∀ i g when w s, waitForm i = some (g, when, w) → Guard s g → when s → (curCtx s).wait = none →
    preempting s s.cur.core = false → Waits i s w fun t => Kept (fun y => { y with ticket := 0 }) id id s t) ∧
  ∀ d a g s x, Guard s g → Clean s a → Clean s d → cohXl s (isSuper (curCtx s)) false (xv s a) 8 = .ok x →
    physMark s x.pa 8 = false → physNat s x.pa 8 < (xv s d).toNat → (curCtx s).wait = none → preempting s s.cur.core = false →
    Waits (.waitv d a g) s (.waitv d a) fun t => MemKept (fun y => { y with ticket := 0 }) id id x.pa s t

namespace Sys2Proof.Claims
open Sys2Proof Sys2Proof.Machine

/-! The engines. -/

/-- The queue of the moving engine, at the first word of an entry with nothing gathered yet (R212). -/
def headQueue (s : State) (e : Eng) : Queue :=
  let q := queueOf s s.cur.core e
  if q.pos = 0 then { q with set0 := q.set, waitks := [], sigks := [], slot := none } else q

def setStack (q : Queue) (l : List Word) : Queue := { q with set := { q.set with stack := l } }
/-- The k-th value from the top of the parameter stack. -/
def top (q : Queue) (k : Nat) : Word := q.set.stack.getD k 0

/-- R63, R64, R210, R215: the words that are not launch words: the values they need on the stack, whether they push,
and the queue after. -/
def controlForm : Instr → Option (Nat × Bool × (Queue → Queue))
  | .lit v => some (0, true, fun q => setStack q (v.setWidth 64 :: q.set.stack))
  | .ext v => some (1, false, fun q => setStack q ((top q 0 <<< 14 ||| v.setWidth 64) :: q.set.stack.drop 1))
  | .nop => some (0, false, fun q => q)
  | .dup => some (1, true, fun q => setStack q (top q 0 :: q.set.stack))
  | .drop => some (1, false, fun q => setStack q (q.set.stack.drop 1))
  | .swap => some (2, false, fun q => setStack q (top q 1 :: top q 0 :: q.set.stack.drop 2))
  | .overW => some (2, true, fun q => setStack q (top q 1 :: q.set.stack))
  | .rot => some (3, false, fun q => setStack q (top q 2 :: top q 0 :: top q 1 :: q.set.stack.drop 3))
  | .waitk k => some (1, false, fun q => { setStack q (q.set.stack.drop 1) with waitks := q.waitks ++ [(k, top q 0)] })
  | .sigk k => some (0, false, fun q => { q with sigks := q.sigks ++ [k] })
  | .pred => some (1, false, fun q => { q with set := { q.set with stack := q.set.stack.drop 1, latch := decide (top q 0 ≠ 0) } })
  | .atSlot => some (1, false, fun q => { setStack q (q.set.stack.drop 1) with slot := some (top q 0) })
  | .nsel u v => some (0, false, fun q => { q with set := { q.set with up := u, down := v } })
  | .mark m => some (0, false, fun q => { q with set := { q.set with mark := m } })
  | _ => none

/-- The operands of a launch, the deepest first, and its neighbours (R63, R215). -/
def opsOf (s : State) (L : WordSpec) : List Word := ((headQueue s L.eng).set.stack.take L.pops).reverse
def takesFrom (s : State) (L : WordSpec) (f : BitVec 6) : List Eng :=
  neighbours (headQueue s L.eng).set (f.getLsbD 5) (f.getLsbD 4)

/-- The entry at the head as it starts (R212, R217). -/
def entryAt (s : State) (L : WordSpec) (f : BitVec 6) : Entry :=
  let q := headQueue s L.eng
  { opc := BitVec.ofNat 7 L.opc, lf := f, nullified := f.getLsbD 1 && !q.set.latch, ops := opsOf s L, prog := 0, flags := 0,
    modes := ((q.words[q.pos]?).map (·.modes)).getD {}, index := q.headIdx, startAt := s.cyc.toNat, pos := q.pos,
    arrived := ((q.words[q.pos]?).map (·.came)).getD 0, after := q.lastStart, stack0 := q.set0.stack, marks0 := q.set0.marks
    weight := L.weight (setQueue s s.cur.core L.eng q) s.cur.core (opsOf s L) }

/-- The state in which the launch word is considered. -/
def considered (s : State) (L : WordSpec) : State := setQueue s s.cur.core L.eng (headQueue s L.eng)

/-- R212, R221, R243, R414, R417: a launch word without a slot may start now: its operands are there, clean, every WAITK holds with no
context before it, every token is there, its tiles are ready, its engine is free and has run no other word in this cycle, MX has the
lease, and the charge or the level of the core allows its weight. -/
structure CanStart (s : State) (L : WordSpec) (f : BitVec 6) : Prop where
  running : (queueOf s s.cur.core L.eng).stop = none ∧ (queueOf s s.cur.core L.eng).entry = none ∧
    (queueOf s s.cur.core L.eng).mismatch = false
  depth : L.pops ≤ (headQueue s L.eng).set.stack.length
  clean : marked (headQueue s L.eng) L.pops = false
  words : (headQueue s L.eng).pos = 0 ∨ (headQueue s L.eng).wordAt.1 < s.cyc.toNat
  noSlot : (headQueue s L.eng).slot = none
  waitks : (∀ w ∈ (headQueue s L.eng).waitks, w.2.toNat ≤ (semOf s s.cur.core w.1).count.toNat) ∧
    semAhead (considered s L) s.cur.core (headQueue s L.eng) = false
  tokens : ∀ a ∈ takesFrom s L f, ((takesFrom s L f).filter fun b => b = a).length ≤ fifoOf s s.cur.core a L.eng
  tiles : L.conds (considered s L) s.cur.core (opsOf s L) = true
  lastEnd : (headQueue s L.eng).lastEnd ≤ s.cyc.toNat
  held : completionHeld (considered s L) s.cur.core L.eng (headQueue s L.eng) = false
  free : L.eng ≠ .mx → ∀ r ∈ (headQueue s L.eng).running, r.completeAt ≤ s.cyc.toNat
  array : L.eng = .mx → (headQueue s L.eng).running.length < 4 ∧
    (∀ r ∈ (headQueue s L.eng).running, r.doneAt ≤ s.cyc.toNat ∧ verdictHeld s s.cur.core r = false) ∧
    holdsLease s s.cur.core = true ∧ leaseSpent s s.cur.core = false ∧ (curCore s).unpark = false ∧ (curCore s).leaseDue = false
  power : ((curCore s).plevel = 0 ∧ (64 * (L.weight (considered s L) s.cur.core (opsOf s L)) : Nat) ≤ (curClus s).level ∧
      chargeAhead (considered s L) s.cur.core L.eng
        (match (headQueue s L.eng).charge with | some c => c.1 | none => s.cyc.toNat) = false) ∨
    ((curCore s).plevel ≠ 0 ∧ runningWeight (considered s L) s.cur.core + L.weight (considered s L) s.cur.core (opsOf s L) ≤ (curCore s).plevel.toNat)

/-- The entry with the tiles it moves, and the state in which its effect begins (R173, R212, R219). -/
def entryRun (s : State) (L : WordSpec) (f : BitVec 6) : Entry :=
  { entryAt s L f with tiles := L.acts (considered s L) s.cur.core (opsOf s L) }
def begun (s : State) (L : WordSpec) (f : BitVec 6) : State :=
  startLaunch (considered s L) s.cur.core L f (takesFrom s L f) (entryRun s L f) none

/-- The launch is over but for its completion (R212): in its queue the entry runs, to complete `dur` and `tail` cycles
after its start; everything else is as the effect left it, in `u`. -/
def Launched (s u t : State) (L : WordSpec) (f : BitVec 6) (en : Entry) (flags : Word) (b : State) : Prop :=
  let id := s.cur.core
  let q := queueOf u id L.eng
  let doneAt := s.cyc.toNat + L.dur b id (opsOf s L)
  { t with cores := [] } = { u with cores := [] } ∧
  (∀ k, coreKey k ≠ coreKey id → coreOf t k = coreOf u k) ∧
  coreOf t id = setQueueIn L.eng (coreOf u id) (queueOf t id L.eng) ∧
  (let r : Running :=
    { index := (headQueue s L.eng).headIdx, opc := BitVec.ofNat 7 L.opc, startAt := s.cyc.toNat, doneAt := doneAt
      completeAt := doneAt + L.tail b id (opsOf s L), weight := en.weight, flags := flags
      pushes := neighbours q.set (f.getLsbD 3) (f.getLsbD 2), sigks := q.sigks, tiles := en.tiles
      banks := if en.nullified then [] else L.banks (opsOf s L)
      draws := if en.nullified then [] else L.draws u id (opsOf s L)
      late := if en.nullified then none else L.late u id en }
  queueOf t id L.eng =
    { q with entry := none, waiting := false, lastEnd := doneAt, sigks := [], waitks := [], slot := none,
             running := q.running ++ [r] })

/-- A launch word that may start, is not nullified and passes its checks. -/
structure Starts (s : State) (L : WordSpec) (f : BitVec 6) : Prop where
  can : CanStart s L f
  live : (entryAt s L f).nullified = false
  ok : L.check (considered s L) s.cur.core (entryAt s L f) = none

/-- THE LAUNCH COMPLETES: its effect runs to its end, and the machine goes on with the launch over. -/
def Completes (i : Instr) (s : State) (L : WordSpec) (f : BitVec 6) : Prop :=
  ∃ u fl t, L.run (begun s L f) s.cur.core (entryRun s L f) = .done u fl ∧ exec i s = .next t ∧
    Launched s u t L f (entryRun s L f) fl (begun s L f)

/-- The launch has started and its entry is in progress, with the cycle of its start. -/
def InProgress (i : Instr) (s : State) (L : WordSpec) (en : Entry) : Prop :=
  ∃ t, exec i s = .next t ∧ (queueOf t s.cur.core L.eng).entry = some en ∧ (queueOf t s.cur.core L.eng).stop = none ∧
    en.opc = BitVec.ofNat 7 L.opc ∧ en.ops = opsOf s L ∧ en.startAt = s.cyc.toNat ∧ en.nullified = false

/-- An entry of a word is in progress at a queue that runs; the array's under its lease (R221). -/
structure InHand (s : State) (L : WordSpec) (en : Entry) : Prop where
  entry : (queueOf s s.cur.core L.eng).entry = some en
  running : (queueOf s s.cur.core L.eng).stop = none ∧ (queueOf s s.cur.core L.eng).mismatch = false
  word : en.opc.toNat = L.opc ∧ en.nullified = false
  array : L.eng = .mx → holdsLease s s.cur.core = true ∧ (curCore s).unpark = false

/-- THE ENTRY IN PROGRESS COMPLETES: what is left of its effect runs to its end. -/
def Continues (i : Instr) (s : State) (L : WordSpec) (en : Entry) : Prop :=
  ∃ u fl, L.run s s.cur.core en = .done u fl ∧
    exec i s = .next (toRunning u s.cur.core L en (en.flags ||| fl) (L.dur s s.cur.core en.ops) (L.tail s s.cur.core en.ops))

/-! What the accesses of an engine need in order not to fault. -/

/-- No core has a map entry: its stash is raw (R169). -/
def NoMaps (s : State) : Prop := ∀ c : CoreId, (coreOf s c).maps = []
/-- No dirty byte stands in the L1 of the core or in the write buffer of its cluster. -/
def NoDirty (s : State) : Prop := (∀ e ∈ (curCore s).l1, e.2.dirty = []) ∧ ∀ e ∈ (curClus s).wbuf, e.2.dirty = []

/-- u is s later in an entry: what a translation depends on is as in s, but for the free values and the bytes of `out`. -/
structure Later (out : Nat → Prop) (s u : State) : Prop where
  cur : u.cur = s.cur ∧ u.curEng = s.curEng
  cores : ∀ c, (coreOf u c).tlb = (coreOf s c).tlb
  clusters : ∀ c, (clusOf u c).team = (clusOf s c).team ∧ (clusOf u c).tlb = (clusOf s c).tlb
  dies : ∀ d, (dieOf u d).walks = (dieOf s d).walks ∧ (dieOf u d).channelsOff = (dieOf s d).channelsOff
  las : ∀ a, inLas u a = inLas s a
  pkg : u.pkg.parts = s.pkg.parts ∧ u.pkg.graphs = s.pkg.graphs ∧ u.pkg.pages = s.pkg.pages ∧ ∀ a, inTier u a = inTier s a
  mem : ∀ a, (∀ k, k < 8 → ¬ out (a + k)) → physNat u a 8 = physNat s a 8

/-- R159: a leaf stands in the cluster's TLB, and for the load and store engines in the core's. -/
def Cached (s : State) (l : Leaf) : Prop :=
  (engL1 s = true → (⟨asidOf s s.cur.core, l⟩ : TlbEnt) ∈ (curCore s).tlb) ∧ (⟨asidOf s s.cur.core, l⟩ : TlbEnt) ∈ (curClus s).tlb

/-- R151-R159: an access of an engine at an address goes through one leaf, a cached one, whatever the bytes of `out` become; a store
through one whose D is set. -/
def PageOk (out : Nat → Prop) (s : State) (sup : Bool) (k : Acc) (fmt : BitVec 4) (va : Nat) : Prop :=
  ∃ x, (∀ u, Later out s u → engXl u s.cur.core sup k fmt va = .ok x) ∧ Cached s x.leaf ∧ (k = .store → natBit x.leaf.w0 8 = true)
def RangeOk (out : Nat → Prop) (s : State) (sup : Bool) (k : Acc) (fmt : BitVec 4) (va n : Nat) : Prop :=
  ∀ a, va ≤ a → a < va + n → PageOk out s sup k fmt a
/-- R152, R157: the same of a block row of a scaled region. -/
def BlockOk (out : Nat → Prop) (s : State) (sup : Bool) (k : Acc) (r : Region) (i : Nat) : Prop :=
  ∃ y, (∀ u, Later out s u → blockXl u s.cur.core sup k r i = .ok y) ∧ Cached s y.1.leaf ∧ (k = .store → natBit y.1.leaf.w0 8 = true)
def RegionOk (out : Nat → Prop) (s : State) (sup : Bool) (k : Acc) (r : Region) : Prop :=
  ∀ i, i < r.rows → if isBlocked r.fmt then i % blkRows r.fmt = 0 → BlockOk out s sup k r i
    else RangeOk out s sup k r.fmt (r.va + i * r.pitch) (regionRow r)

/-- Memory bytes that a store to a range, or to a region with its scales, may write. -/
def rangeOut (s : State) (sup : Bool) (fmt : BitVec 4) (va n a : Nat) : Prop :=
  ∃ b x, va ≤ b ∧ b < va + n ∧ engXl s s.cur.core sup .store fmt b = .ok x ∧ x.pa ≤ a ∧ a < x.pa + n
def blockOut (s : State) (sup : Bool) (r : Region) (a : Nat) : Prop :=
  ∃ i x b, i < r.rows ∧ blockXl s s.cur.core sup .store r i = .ok (x, b) ∧
    ((∃ k, k < blkRows r.fmt ∧ x.pa + k * r.pitch ≤ a ∧ a < x.pa + k * r.pitch + regionRow r) ∨
     (scalePa x.leaf b (regionBlock x (r.va + i * r.pitch)).2 ≤ a ∧
      a < scalePa x.leaf b (regionBlock x (r.va + i * r.pitch)).2 + scaBytes r))
def regionOut (s : State) (sup : Bool) (r : Region) (a : Nat) : Prop :=
  if isBlocked r.fmt then blockOut s sup r a else ∃ i, i < r.rows ∧ rangeOut s sup r.fmt (r.va + i * r.pitch) (regionRow r) a
/-- The same of a side of a copy (R301): rows of n bytes, each where `at'` says; the stash is none of memory. -/
def sideOut (s : State) (sup : Bool) (spc rows : Nat) (at' : Nat → Nat) (n a : Nat) : Prop :=
  spc ≠ 1 ∧ ∃ k, k < rows ∧ rangeOut s sup 15 (at' k) n a
def SideOk (out : Nat → Prop) (s : State) (sup : Bool) (k : Acc) (spc rows : Nat) (at' : Nat → Nat) (n : Nat) : Prop :=
  spc = 1 ∨ ∀ j, j < rows → RangeOk out s sup k 15 (at' j) n
/-- No byte is written. -/
def noOut (_ : Nat) : Prop := False

/-- R229: entry k of an index array, and that no entry of it is marked. -/
def indexCore (s : State) (idx : Nat) : Core := coreOf s (coreAt (CoreId.cl s.cur.core) (stashRank idx))
def indexAt (s : State) (idx k : Nat) : Nat := leNat (stashBytes (indexCore s idx) (stashOff idx + 4 * k) 4)
def IndexClean (s : State) (idx n : Nat) : Prop := ∀ k, k < n → stashMark (indexCore s idx) (stashOff idx + 4 * k) 4 = false

/-- R278-R292, R230, R313: the words that touch no stash and no page that could fault. -/
def registerWord : Instr → Option (WordSpec × BitVec 6)
  | .vadd f => some (vaddSpec, f)
  | .vsub f => some (vsubSpec, f)
  | .vmul f => some (vmulSpec, f)
  | .vfma f => some (vfmaSpec, f)
  | .vdiv f => some (vdivSpec, f)
  | .vmin f => some (vminSpec, f)
  | .vmax f => some (vmaxSpec, f)
  | .vabs f => some (vabsSpec, f)
  | .vneg f => some (vnegSpec, f)
  | .vcmp f => some (vcmpSpec, f)
  | .vsel f => some (vselSpec, f)
  | .vand f => some (vandSpec, f)
  | .vor f => some (vorSpec, f)
  | .vxor f => some (vxorSpec, f)
  | .vshl f => some (vshlSpec, f)
  | .vshr f => some (vshrSpec, f)
  | .vexp f => some (vexpSpec, f)
  | .vrcp f => some (vrcpSpec, f)
  | .vrsq f => some (vrsqSpec, f)
  | .vclip f => some (vclipSpec, f)
  | .viota f => some (viotaSpec, f)
  | .vred f => some (vredSpec, f)
  | .vbcast f => some (vbcastSpec, f)
  | .vtrans f => some (vtransSpec, f)
  | .vpoisq f => some (vpoisqSpec, f)
  | .vmovs f => some (vmovsSpec, f)
  | .vcvt f => some (vcvtSpec, f)
  | .vscale f => some (vscaleSpec, f)
  | .vldrb f => some (vldrbSpec, f)
  | .vshp f => some (vshpSpec, f)
  | .rttab f => some (rttabSpec, f)
  | .pf f => some (pfSpec, f)
  | .cwake f => some (cwakeSpec, f)
  | _ => none

/-- R231, R245-R254, R269-R272, R289-R296: the words that read and write the stash of the team and no memory. -/
def stashWord : Instr → Option (WordSpec × BitVec 6)
  | .vld f => some (vldSpec, f)
  | .vst f => some (vstSpec, f)
  | .rmax f => some (rmaxSpec, f)
  | .rexpsum f => some (rexpsumSpec, f)
  | .rscale f => some (rscaleSpec, f)
  | .rmean f => some (rmeanSpec, f)
  | .rvar f => some (rvarSpec, f)
  | .rnorm f => some (rnormSpec, f)
  | .rmask f => some (rmaskSpec, f)
  | .stZ f => some (stzSpec, f)
  | .mma f => some (mmaSpec, f)
  | .msyrk f => some (msyrkSpec, f)
  | .mzero f => some (mzeroSpec, f)
  | .mloadc f => some (mloadcSpec, f)
  | .mpark f => some (mparkSpec, f)
  | .munpark f => some (munparkSpec, f)
  | .mflags f => some (mflagsSpec, f)
  | .mgqr f => some (mgqrSpec, f)
  | .mqapply f => some (mqapplySpec, f)
  | .mperm f => some (mpermSpec, f)
  | .mdiag f => some (mdiagSpec, f)
  | _ => none

/-- R258-R268: the words of the array that run step by step: their kind. -/
def stepWord : Instr → Option (FacKind × WordSpec × BitVec 6)
  | .mchol f => some (.chol, mcholSpec, f)
  | .mlu f => some (.lu, mluSpec, f)
  | .mtrsm f => some (.trsm, mtrsmSpec, f)
  | .mtrinv f => some (.trinv, mtrinvSpec, f)
  | _ => none

/-- R226-R232, R248, R298-R312: the words that read or write memory, and what each needs there of a state b in which an entry with
operands `ops` has begun, in a mode: every page of its ranges, a target that can take its bytes, room for its insert. -/
def memoryWord (b : State) (sup : Bool) (ops : List Word) : Instr → Option (WordSpec × BitVec 6 × Prop)
  | .ldT f => some (ldtSpec, f, RegionOk noOut b sup .load (ldtRegion b b.cur.core ops))
  | .ldG f =>
    let t := tcBind b b.cur.core (op ops 3)
    let idx := (op ops 1).toNat
    some (ldgSpec, f, IndexClean b idx (tileRows t) ∧
      (stashRank idx = b.cur.core.rank → ∀ k, k < tileRows t →
        rangesMeet (tileRow t k) (packedRow t.fmt (tileCols t)) (stashOff idx) (4 * tileRows t) = false) ∧
      ∀ k, k < tileRows t → RangeOk noOut b sup .load t.fmt (indexedRow (op ops 0) (op ops 2) (indexAt b idx k)) (packedRow t.fmt (tileCols t)))
  | .ldM f =>
    let t := tcBind b b.cur.core (op ops 2)
    some (ldmSpec, f, ∀ k, k < tileRows t → RangeOk noOut b sup .load 0 ((op ops 0).toNat + k * (op ops 1).toNat) (tileCols t))
  | .ldS f => some (ldsSpec, f, RegionOk noOut b sup .load (ldsRegion b b.cur.core ops))
  | .stT f =>
    let t := tcBind b b.cur.core (op ops 2)
    let r := tcRegion ops t.fmt (tileRows t) (tileCols t)
    some (sttSpec, f, RegionOk (regionOut b sup r) b sup .store r)
  | .stCv f =>
    let t := tcBind b b.cur.core (op ops 2)
    let r := tcRegion ops (tcFmt (op ops 2)) (tileRows t) (tileCols t)
    some (stcvSpec, f, RegionOk (regionOut b sup r) b sup .store r)
  | .stS f =>
    let t := tcBind b b.cur.core (op ops 3)
    let idx := (op ops 1).toNat
    let row (k : Nat) : Nat := indexedRow (op ops 0) (op ops 2) (indexAt b idx k)
    let n := packedRow t.fmt (tileCols t)
    some (stsSpec, f, IndexClean b idx (tileRows t) ∧
      ∀ k, k < tileRows t → RangeOk (fun a => ∃ j, j < tileRows t ∧ rangeOut b sup t.fmt (row j) n a) b sup .store t.fmt (row k) n)
  | .mdrain f =>
    let ctl := op ops 2
    let r := drainRegion ops
    some (mdrainSpec, f, dcAcc ctl = false → dcDest ctl = 2 → RegionOk (regionOut b sup r) b sup .store r)
  | .cpy f =>
    let ss := adSpc (op ops 0)
    let ds := adSpc (op ops 1)
    let n := (op ops 2).toNat
    let out := sideOut b sup ds 1 (fun _ => adAddr (op ops 1)) n
    some (cpySpec, f, SideOk out b sup .load ss 1 (fun _ => adAddr (op ops 0)) n ∧ SideOk out b sup .store ds 1 (fun _ => adAddr (op ops 1)) n)
  | .cpy2 f =>
    let ss := adSpc (op ops 0)
    let ds := adSpc (op ops 1)
    let src (k : Nat) : Nat := adAddr (op ops 0) + k * bitsAt (op ops 2) 0 32
    let dst (k : Nat) : Nat := adAddr (op ops 1) + k * bitsAt (op ops 2) 32 32
    let out := sideOut b sup ds (c2Rows ops) dst (c2Row ops)
    some (cpy2Spec, f, SideOk out b sup .load ss (c2Rows ops) src (c2Row ops) ∧ SideOk out b sup .store ds (c2Rows ops) dst (c2Row ops))
  | .cpyt f => some (cvSpec true 2, f, cvOk true)
  | .cconv f => some (cvSpec false 5, f, cvOk false)
  | .gath f =>
    let n := gsN (op ops 3)
    let rb := gsRb (op ops 3)
    let idx := adAddr (op ops 1)
    let side := op ops 2
    let far (k : Nat) : Nat := (adAddr (op ops 0) + indexAt b idx k * gsPitch (op ops 3)) % 2 ^ 64
    let near (k : Nat) : Nat := adAddr side + k * rb
    let out := sideOut b sup (adSpc side) n near rb
    some (gsSpec true 3, f, IndexClean b idx n ∧
      (adSpc side = 1 → stashRank (adAddr side) = stashRank idx → rangesMeet (stashOff (adAddr side)) (n * rb) (stashOff idx) (4 * n) = false) ∧
      SideOk out b sup .load 0 n far rb ∧ SideOk out b sup .store (adSpc side) n near rb)
  | .scat f =>
    let n := gsN (op ops 3)
    let rb := gsRb (op ops 3)
    let idx := adAddr (op ops 1)
    let side := op ops 0
    let far (k : Nat) : Nat := (adAddr (op ops 2) + indexAt b idx k * gsPitch (op ops 3)) % 2 ^ 64
    let near (k : Nat) : Nat := adAddr side + k * rb
    let out := sideOut b sup 0 n far rb
    some (gsSpec false 4, f, IndexClean b idx n ∧ SideOk out b sup .load (adSpc side) n near rb ∧ SideOk out b sup .store 0 n far rb)
  | .mcast f => some (mcastSpec, f, SideOk noOut b sup .load (adSpc (op ops 0)) 1 (fun _ => adAddr (op ops 0)) (mcLen (op ops 2)))
  | .rsts f =>
    let ctl := op ops 3
    some (rstsSpec, f, SideOk noOut b sup .load (adSpc (op ops 0)) 1 (fun _ => adAddr (op ops 0)) (rsLen ctl) ∧
      (∃ t, teamOf b b.cur.core = some t ∧ unitAt b t (rsLcid ctl) ≠ .later ∧
        rstsRaw b (unitAt b t (rsLcid ctl)) (op ops 1).toNat (rsLen ctl) = true) ∧
      ∃ x, (∀ u, Later noOut b u → cohXlBy (engL1 u) u sup true (op ops 2) 8 = .ok x) ∧ Cached b x.leaf ∧ natBit x.leaf.w0 8 = true ∧
        physMark b x.pa 8 = false)
  | .cred f =>
    let ctl := op ops 3
    let n := crCount ctl * crSize ctl
    let out := sideOut b sup (adSpc (op ops 2)) 1 (fun _ => adAddr (op ops 2)) n
    some (credSpec, f, SideOk out b sup .load (adSpc (op ops 0)) 1 (fun _ => adAddr (op ops 0)) n ∧
      SideOk out b sup .load (adSpc (op ops 1)) 1 (fun _ => adAddr (op ops 1)) n ∧
      SideOk out b sup .store (adSpc (op ops 2)) 1 (fun _ => adAddr (op ops 2)) n)
  | .cfill f =>
    let n := (op ops 2).toNat
    let d := op ops 0
    some (cfillSpec, f, SideOk (sideOut b sup (adSpc d) 1 (fun _ => adAddr d) n) b sup .store (adSpc d) 1 (fun _ => adAddr d) n)
  | .cchk f => some (cchkSpec, f, SideOk noOut b sup .load (adSpc (op ops 0)) 1 (fun _ => adAddr (op ops 0)) (op ops 2).toNat)
  | .cchins f =>
    let q := chqOf ops
    let key := chKey (chBytes b b.cur.core ops)
    some (cchinsSpec, f, (op ops 1).getLsbD 8 = true →
      churnCan (churnOf b q) key = true ∧ earlierInsert b q (b.ticket + 1) (churnOf b q) = false)
  | _ => none
where
  /-- R306: the sides of CPYT and CCONV that are memory. -/
  cvOk (trans : Bool) : Prop :=
    let c := op ops 2
    let d := cvDims trans c
    let src := cvRegion c (op ops 0) (cvSf c) (cvRows c) (cvCols c)
    let dst := cvRegion c (op ops 1) (cvDf c) d.1 d.2
    let out (a : Nat) : Prop := adSpc (op ops 1) = 0 ∧ regionOut b sup dst a
    (adSpc (op ops 0) = 0 → RegionOk out b sup .load src) ∧ (adSpc (op ops 1) = 0 → RegionOk out b sup .store dst)

/-- R283, R284: the element-wise words: the word, its sources, the result of three source elements by the fields of
VCTL and the modes captured. -/
def vfp (m : Modes) (v : Machine.Num × Word) : BitVec 32 × Word :=
  let r := rnd32 (if m.rm = 4 then 0 else m.rm) m.ftz v.1
  (r.1, v.2 ||| r.2)
def vrne (m : Modes) (v : Machine.Num × Word) : BitVec 32 × Word :=
  let r := rnd32 0 m.ftz v.1
  (r.1, v.2 ||| r.2)
def vrm (m : Modes) : BitVec 3 := if m.rm = 4 then 0 else m.rm
def vin (m : Modes) (x : BitVec 32) : Machine.Num := dec32 m.ftz x
def elementForm : Instr → Option (WordSpec × BitVec 6 × Nat ×
    (Modes → (ty op imm : Nat) → BitVec 32 → BitVec 32 → BitVec 32 → BitVec 32 × Word))
  | .vadd f => some (vaddSpec, f, 2, fun m ty _ _ a b _ =>
      if ty = 1 then (a + b, 0) else vfp m (numAdd (vrm m) (vin m a) (vin m b)))
  | .vsub f => some (vsubSpec, f, 2, fun m ty _ _ a b _ =>
      if ty = 1 then (a - b, 0) else vfp m (numAdd (vrm m) (vin m a) (numNeg (vin m b))))
  | .vmul f => some (vmulSpec, f, 2, fun m ty _ _ a b _ =>
      if ty = 1 then (a * b, 0) else vfp m (numMul (vin m a) (vin m b)))
  | .vfma f => some (vfmaSpec, f, 3, fun m ty _ _ a b c =>
      if ty = 1 then (a * b + c, 0) else vfp m (numFma (vrm m) (vin m a) (vin m b) (vin m c)))
  | .vmin f => some (vminSpec, f, 2, fun m ty op _ a b _ =>
      if ty = 1 then (if (if op = 1 then decide (b.toNat < a.toNat) else decide (b.toInt < a.toInt)) then b else a, 0)
      else vfp m (numMin (vin m a) (vin m b), 0))
  | .vmax f => some (vmaxSpec, f, 2, fun m ty op _ a b _ =>
      if ty = 1 then (if (if op = 1 then decide (a.toNat < b.toNat) else decide (a.toInt < b.toInt)) then b else a, 0)
      else vfp m (numMax (vin m a) (vin m b), 0))
  | .vsel f => some (vselSpec, f, 3, fun m ty _ _ a b c =>
      let x := if c = 0 then b else a
      (if ty = 0 && m.ftz && x.extractLsb' 23 8 = 0 then x &&& 0x80000000 else x, 0))
  | .vand f => some (vandSpec, f, 2, fun _ _ _ _ a b _ => (a &&& b, 0))
  | .vor f => some (vorSpec, f, 2, fun _ _ _ _ a b _ => (a ||| b, 0))
  | .vxor f => some (vxorSpec, f, 2, fun _ _ _ _ a b _ => (a ^^^ b, 0))
  | .vshl f => some (vshlSpec, f, 1, fun _ _ _ imm a _ _ => (BitVec.ofNat 32 (a.toNat * 2 ^ imm), 0))
  | .vshr f => some (vshrSpec, f, 1, fun _ _ op imm a _ _ =>
      (if op = 1 then BitVec.ofInt 32 (a.toInt / 2 ^ imm) else BitVec.ofNat 32 (a.toNat / 2 ^ imm), 0))
  | .vdiv f => some (vdivSpec, f, 2, fun m _ _ _ a b _ => vfp m (numDiv (vin m a) (vin m b)))
  | .vabs f => some (vabsSpec, f, 1, fun _ ty _ _ a _ _ =>
      (if ty = 1 then (if a.toInt < 0 then 0 - a else a) else (withSign false a).setWidth 32, 0))
  | .vneg f => some (vnegSpec, f, 1, fun _ ty _ _ a _ _ => (if ty = 1 then 0 - a else (withSign (!a.getLsbD 31) a).setWidth 32, 0))
  | .vcmp f => some (vcmpSpec, f, 2, fun m ty op _ a b _ =>
      let bit (x : Bool) : BitVec 32 := if x then 1 else 0
      if ty = 1 then (bit (if op = 0 then decide (a = b) else if op = 1 then decide (a ≠ b) else if op = 2 then decide (a.toInt < b.toInt)
        else if op = 3 then decide (b.toInt ≤ a.toInt) else if op = 4 then decide (a.toNat < b.toNat) else decide (b.toNat ≤ a.toNat)), 0)
      else let r := numTest (BitVec.ofNat 3 op) (vin m a) (vin m b)
        (bit r.1, r.2))
  | .vclip f => some (vclipSpec, f, 3, fun m ty _ _ a b c =>
      if ty = 1 then
        let x := if a.toInt < b.toInt then b else a
        (if c.toInt < x.toInt then c else x, 0)
      else
        let x := vfp m (numMax (vin m a) (vin m b), 0)
        let y := vfp m (numMin (vin m x.1) (vin m c), 0)
        (y.1, x.2 ||| y.2))
  | .vexp f => some (vexpSpec, f, 1, fun m _ _ _ a _ _ => rnd32 0 m.ftz (numExp (vin m a)))
  | .vrcp f => some (vrcpSpec, f, 1, fun m _ _ _ a _ _ => vrne m (numDiv (.fin false 1 0) (vin m a)))
  | .vrsq f => some (vrsqSpec, f, 1, fun m _ _ _ a _ _ => vrne m (numRsqrt (vin m a)))
  | _ => none

end Sys2Proof.Claims

open Sys2Proof Sys2Proof.Machine Sys2Proof.Claims in
/-- R63, R64, R210, R215, R212: a word that is not a launch word, its values on the stack, clean, and no push above 8, changes its
queue as the rule says, steps to the next word of the entry, and changes nothing else; it is one of at most four in a cycle. R68: one whose values are not on the
stack, or whose push would exceed 8, stops its queue with ENGERR, subcause 5 or 4, at the index of the entry and
back at its first word. -/
def Obligations.ControlWords : Prop :=
  (∀ i n push f s, controlForm i = some (n, push, f) →
    let q := headQueue s s.curEng
    q.stop = none → q.entry = none → n ≤ q.set.stack.length → (push = true → q.set.stack.length < 8) → q.set.marks = 0 →
    (q.wordAt.1 = s.cyc.toNat → q.wordAt.2 < 4) →
    exec i s = .next (setQueue s s.cur.core s.curEng
      { f q with pos := q.pos + 1
                 wordAt := if q.wordAt.1 = s.cyc.toNat then (s.cyc.toNat, q.wordAt.2 + 1) else (s.cyc.toNat, 1) })) ∧
  ∀ i n push f s w, controlForm i = some (n, push, f) → encode i = .w16 w →
    let q := headQueue s s.curEng
    q.stop = none → q.entry = none →
    let Stops (sub : Nat) : Prop := ∃ t, exec i s = .next t ∧
      (∀ e, e ≠ s.curEng → queueOf t s.cur.core e = queueOf s s.cur.core e) ∧ SameBytes s t ∧
      (queueOf t s.cur.core s.curEng).words = q.words ∧ (queueOf t s.cur.core s.curEng).set = q.set0 ∧
      (queueOf t s.cur.core s.curEng).pos = 0 ∧
      (queueOf t s.cur.core s.curEng).stop = some
        { cause := 0x0F, tval := BitVec.ofNat 64 (w.toNat + q.pos % 256 * 2 ^ 16 + sub * 2 ^ 24), index := q.headIdx, since := s.cyc.toNat }
    (q.set.stack.length < n → Stops 5) ∧ (n ≤ q.set.stack.length → push = true → 8 ≤ q.set.stack.length → Stops 4)

open Sys2Proof Sys2Proof.Machine Sys2Proof.Claims in
/-- R212, R213, R217, R219: EVERY launch word of the six queues that may start and passes its checks takes its operands and
tokens, moves its tiles, leaves the queue's words, so that the slots of its whole entry are free (DESIGN CHOICE, log 145), has its effect, and
runs until its completion; a nullified one has no effect. R161, R232, R248, R303: a word of the load, store or copy engine, or a drain, whose ranges are of pages that admit its
accesses, its translations cached, completes; one of the copy engine in a move that does not pause it (State.pace, log 58). -/
def Obligations.LaunchStarts : Prop :=
  (∀ i L f s ok, memoryWord (begun s L f) (entryAt s L f).modes.super (opsOf s L) i = some (L, f, ok) → Starts s L f →
    (L.eng = .mx → (curClus s).array.verdictFail = 0) → (L.eng = .cp → s.pace = 0) → NoMaps s → NoDirty s → ok → Completes i s L f) ∧
  ∀ e op mk L f s, specOf e op = some (mk, L) → CanStart s L f →
    let id := s.cur.core
    let en := entryRun s L f
    let b := begun s L f
    let head := headQueue s L.eng
    L.eng = e ∧
    ((queueOf b id e).words = dropEntry head.words ∧ (queueOf b id e).headIdx = head.headIdx + 1 ∧ (queueOf b id e).pos = 0 ∧
      (queueOf b id e).set.stack = head.set.stack.drop L.pops ∧ (queueOf b id e).running = head.running ∧
      ∀ a, fifoOf b id a e = fifoOf s id a e - ((takesFrom s L f).filter fun x => x = a).length) ∧
    (en.nullified = false → L.check (considered s L) id (entryAt s L f) = none → ∀ u fl, L.run b id en = .done u fl →
      ∃ t, exec (mk f) s = .next t ∧ Launched s u t L f en fl b) ∧
    (en.nullified = true → L.check (considered s L) id (entryAt s L f) = none →
      ∃ t, exec (mk f) s = .next t ∧ Launched s b t L f en 0 b)

open Sys2Proof Sys2Proof.Machine Sys2Proof.Claims in
/-- R212, R68, R326: a launch word that fails its check stops its queue with ENGERR before it starts; one whose operands
are not on the stack with subcause 5; one with a WAITK that does not hold waits and changes nothing but its queue. R230, R276: LD.R and a
stepping word of the array with a record start and stay in progress; they complete once the words have room and the steps are done.
R243, R251, R352: an accumulating drain to a tile or to memory occupies the array for its rows and holds what it read of its bank; its
rows are committed when its verdict stands, and it completes after them. -/
def Obligations.LaunchHolds : Prop :=
  (∀ f s, Starts s ldrSpec f → ∃ en, InProgress (.ldR f) s ldrSpec en ∧ en.prog = 0) ∧
  (∀ f s en, InHand s ldrSpec en → en.startAt < s.cyc.toNat →
    let n := (op en.ops 1).toNat - en.prog
    ringLevel s s.cur.core 0 + n ≤ 64 → NoMaps s → NoDirty s →
    RangeOk noOut s en.modes.super .load 0 ((op en.ops 0).toNat + 8 * en.prog) (8 * n) → Continues (.ldR f) s ldrSpec en) ∧
  (∀ f s, Starts s mdrainSpec f → (curClus s).array.verdictFail = 0 → dcAcc (op (opsOf s mdrainSpec) 2) = true →
    dcDest (op (opsOf s mdrainSpec) 2) ≠ 0 → ∃ t r l, exec (.mdrain f) s = .next t ∧
      (queueOf t s.cur.core .mx).running.getLast? = some r ∧ (queueOf t s.cur.core .mx).entry = none ∧
      r.doneAt = s.cyc.toNat + Nat.max 8 (dcM (op (opsOf s mdrainSpec) 2)) ∧ r.late = some l ∧ l.en.prog = 0 ∧ l.en.ops = opsOf s mdrainSpec ∧
      l.bank = { (combineBank (entryAt s mdrainSpec f).modes.ftz (bankOf s s.cur.core (dcBank (op (opsOf s mdrainSpec) 2)))).1 with
        dirty := false }) ∧
  (∀ s r l, s.curEng = .mx → s.cur.kind = feederOf .mx → (queueOf s s.cur.core .mx).running = [r] → r.late = some l →
    (queueOf s s.cur.core .mx).stop = none → (queueOf s s.cur.core .mx).redo = false → (queueOf s s.cur.core .mx).redoFrom = none →
    (curCore s).removal = none → (curClus s).array.verdictFail = 0 →
    let ctl := op l.en.ops 2
    let d := drainRegion l.en.ops
    let out := regionOut s l.en.modes.super d
    l.en.prog < dcM ctl → verdictAt l.en (dcM ctl) + dcM ctl ≤ s.cyc.toNat + 1 → r.completeAt ≤ s.cyc.toNat →
    pushBlocked (curCore s) .mx r = false → dcDest ctl = 1 ∨ dcDest ctl = 2 → NoMaps s → NoDirty s →
    (dcDest ctl = 2 → dcFmt ctl = 1 ∧ RegionOk out s l.en.modes.super .load d ∧ RegionOk out s l.en.modes.super .store d ∧
      ∀ i a x, i < d.rows → d.va + i * d.pitch ≤ a → a < d.va + i * d.pitch + regionRow d →
        engXl s s.cur.core l.en.modes.super .store 1 a = .ok x → x.leaf.cls ≠ 1) →
    ∃ u fl, runSteps (lateStep l s.cur.core) (dcM ctl - l.en.prog) s l.en = .done u fl ∧
      exec (.entryCompletion s.cur.core .mx) s =
        .next (completeEntry { putLate u s.cur.core r.index none fl with cur := s.cur, curEng := s.curEng } s.cur.core .mx
          { r with late := none, flags := r.flags ||| fl })) ∧
  (∀ i k L f s, stepWord i = some (k, L, f) → Starts s L f → (curClus s).array.verdictFail = 0 → (op (opsOf s L) 0).getLsbD 31 = true →
    ∃ en, InProgress i s L en ∧ en.prog ≠ 0) ∧
  (∀ i k L f s en, stepWord i = some (k, L, f) → InHand s L en → en.prog ≠ 0 →
    let ctl := op en.ops 1
    en.startAt + facOcc k (fcN ctl) (fcJ0 ctl) (en.prog - 1) ≤ s.cyc.toNat → en.modes.brkt = false → NoMaps s →
    Continues i s L en) ∧
  ∀ e op mk L f s w, specOf e op = some (mk, L) → encode (mk f) = .w16 w →
    let id := s.cur.core
    let q := headQueue s L.eng
    let Stops (sub : Nat) : Prop := ∃ t, exec (mk f) s = .next t ∧ SameBytes s t ∧
      (queueOf t id e).words = q.words ∧ (queueOf t id e).pos = 0 ∧ (queueOf t id e).running = q.running ∧
      (queueOf t id e).stop = some
        { cause := 0x0F, tval := BitVec.ofNat 64 (w.toNat + q.pos % 256 * 2 ^ 16 + sub * 2 ^ 24), index := q.headIdx, since := s.cyc.toNat }
    (∀ sub, CanStart s L f → (entryAt s L f).nullified = false →
      L.check (considered s L) id (entryAt s L f) = some (.engerr sub) → Stops sub) ∧
    (q.stop = none → q.entry = none → L.eng ≠ .mx → q.set.stack.length < L.pops → Stops 5) ∧
    (q.stop = none → q.entry = none → L.eng ≠ .mx → L.pops ≤ q.set.stack.length → marked q L.pops = false → q.slot = none →
      (∃ k ∈ q.waitks, (semOf s id k.1).count.toNat < k.2.toNat) →
      ∃ t, exec (mk f) s = .next t ∧ SameBytes s t ∧ (queueOf t id e).words = q.words ∧ (queueOf t id e).waiting = true ∧
        (queueOf t id e).running = q.running ∧ (queueOf t id e).stop = none)

open Sys2Proof Sys2Proof.Machine Sys2Proof.Claims in
/-- R278, R283, R284: an element-wise vector word writes every element of its shape into VD, computed from the elements of
its sources as they were, poisoned where a source is; its flags are those of the clean elements; no byte of memory and no
other register of the engine changes. VABS, VNEG and VSEL move bits, and under FTZ VSEL alone makes a subnormal a zero (DEDUCED, log 36).
VIOTA writes the places of the elements. Every vector word that works on registers completes, and so do PF and CWAKE; VLD, VST and the row
words complete on a raw stash. -/
def Obligations.VectorElements : Prop :=
  (∀ i L f s, registerWord i = some (L, f) → Starts s L f → Completes i s L f) ∧
  (∀ i L f s, stashWord i = some (L, f) → L.eng ≠ .mx → Starts s L f → NoMaps s → Completes i s L f) ∧
  (∀ i L f n g s, elementForm i = some (L, f, n, g) → Starts s L f →
    let ctl := (headQueue s .vx).set.stack.getD 0 0
    let m := (entryAt s L f).modes
    let v := (curCore s).vec
    let src (k i j : Nat) : VElt := vGet v (bitsAt ctl (4 + 4 * k) 4) i j
    let out (i j : Nat) : BitVec 32 × Word :=
      g m (bitsAt ctl 16 2) (bitsAt ctl 22 3) (bitsAt ctl 32 16) (src 0 i j).bits
        (if 1 < n then (src 1 i j).bits else 0) (if 2 < n then (src 2 i j).bits else 0)
    let poison (i j : Nat) : Bool := (List.range n).any fun k => (src k i j).poison
    ∃ t r, exec i s = .next t ∧ SameBytes s t ∧
      (curCore t).vec = vPut (bitsAt ctl 0 4) v.rows v.cols (fun i j => { bits := (out i j).1, poison := poison i j }) v ∧
      (queueOf t s.cur.core .vx).running.getLast? = some r ∧
      ∀ k, r.flags.getLsbD k = true ↔ ∃ i j, i < v.rows ∧ j < v.cols ∧ poison i j = false ∧ (out i j).2.getLsbD k = true) ∧
  ∀ f s, Starts s viotaSpec f →
    let ctl := (headQueue s .vx).set.stack.getD 0 0
    let v := (curCore s).vec
    ∃ t r, exec (.viota f) s = .next t ∧ SameBytes s t ∧
      (curCore t).vec = vPut (bitsAt ctl 0 4) v.rows v.cols (fun i j =>
        { bits := BitVec.ofInt 32 ((ctl.extractLsb' 32 16).toInt + (v.cols : Nat) * i + j), poison := false }) v ∧
      (queueOf t s.cur.core .vx).running.getLast? = some r ∧ r.flags = 0

open Sys2Proof Sys2Proof.Machine Sys2Proof.Claims in
/-- R247, R252, R297: MZERO makes a bank dirty and zero with the type it names; MPARK moves the array's state into the park
area and leaves the array as at unit start, MUNPARK brings it back; RTTAB sets the slot length. R305: CPY between
two ranges of the core's own stash, no map entry being there, moves every byte as it was before, and leaves every other
byte of the stash and all memory. Every other word of the array but a drain completes on a raw stash while no verdict stands
failed (R352), a stepping word in one go where it has no record (R258). -/
def Obligations.EngineState : Prop :=
  (∀ i L f s, stashWord i = some (L, f) → L.eng = .mx → Starts s L f → (curClus s).array.verdictFail = 0 → NoMaps s → Completes i s L f) ∧
  (∀ i k L f s, stepWord i = some (k, L, f) → Starts s L f → (curClus s).array.verdictFail = 0 →
    (op (opsOf s L) 0).getLsbD 31 = false → (entryAt s L f).modes.brkt = false → Completes i s L f) ∧
  ((∀ f s, Starts s mzeroSpec f →
    let ctl := (headQueue s .mx).set.stack.getD 0 0
    ∃ t, exec (.mzero f) s = .next t ∧ SameBytes s t ∧ (clusOf t (CoreId.cl s.cur.core)).leaseHolder = (curClus s).leaseHolder ∧
      (let a := (clusOf t (CoreId.cl s.cur.core)).array
       (if ctl.getLsbD 0 then a.bank1 else a.bank0) = { int := ctl.getLsbD 1, dirty := true } ∧
       (if ctl.getLsbD 0 then a.bank0 else a.bank1) = (if ctl.getLsbD 0 then (curClus s).array.bank0 else (curClus s).array.bank1))) ∧
  (∀ f s, Starts s mparkSpec f → (curClus s).array.verdictFail = 0 → ∃ t, exec (.mpark f) s = .next t ∧ SameBytes s t ∧
    (coreOf t s.cur.core).park = (curClus s).array ∧ (clusOf t (CoreId.cl s.cur.core)).array = {}) ∧
  (∀ f s, Starts s munparkSpec f → ∃ t, exec (.munpark f) s = .next t ∧ SameBytes s t ∧
    (clusOf t (CoreId.cl s.cur.core)).array = (curCore s).park ∧ (coreOf t s.cur.core).park = (curCore s).park) ∧
  (∀ f s, Starts s rttabSpec f →
    ∃ t, exec (.rttab f) s = .next t ∧ SameBytes s t ∧
      (coreOf t s.cur.core).slotLen = ((headQueue s .rw).set.stack.getD 0 0).setWidth 8)) ∧
  (∀ f s, Starts s cpySpec f → s.pace = 0 →
    let src := (headQueue s .cp).set.stack.getD 2 0
    let dst := (headQueue s .cp).set.stack.getD 1 0
    let n := ((headQueue s .cp).set.stack.getD 0 0).toNat
    adSpc src = 1 → adSpc dst = 1 → stashRank (adAddr src) = s.cur.core.rank → stashRank (adAddr dst) = s.cur.core.rank →
    (curCore s).maps = [] →
    ∃ t, exec (.cpy f) s = .next t ∧ SameBytes s t ∧
      (∀ k, k < n → stashBytes (coreOf t s.cur.core) (stashOff (adAddr dst) + k) 1 =
        stashBytes (curCore s) (stashOff (adAddr src) + k) 1) ∧
      ∀ a, (a < stashOff (adAddr dst) ∨ stashOff (adAddr dst) + n ≤ a) →
        stashBytes (coreOf t s.cur.core) a 1 = stashBytes (curCore s) a 1)

namespace Sys2Proof.Claims
open Sys2Proof Sys2Proof.Machine

/-! The events. -/

/-- R130-R137, R175, R182, R196, R198, R204-R208, R222, R320: the events that end waits: the context, and the instruction that
a wait of the event's kind considers again, with the guard p0. -/
def endsWait : Instr → Option (CtxId × (Wait → Option Instr))
  | .ringSendComplete c => some (c, fun w => match w with | .rsend r a => some (.rsend a r 0) | _ => none)
  | .ringReceiveComplete c => some (c, fun w => match w with | .rrecv r d => some (.rrecv d r 0) | _ => none)
  | .kwaitRelease c => some (c, fun w => match w with | .kwait k a => some (.kwait a k 0) | _ => none)
  | .cwaitRelease c => some (c, fun w => match w with | .cwait n => some (.cwait n 0) | _ => none)
  | .twaitRelease c => some (c, fun w => match w with | .twait r n => some (.twait (if r then 1 else 0) n 0) | _ => none)
  | .waitvRetest c => some (c, fun w => match w with | .waitv d a => some (.waitv d a 0) | _ => none)
  | .futureWaitRelease c => some (c, fun w => match w with | .fget d a => some (.fgetv d a 0) | .ftake d a => some (.ftake d a 0) | _ => none)
  | .fenceComplete c => some (c, fun w => match w with
      | .fence 0 sc => some (.fenceAcq sc 0)
      | .fence 1 sc => some (.fenceRel sc 0)
      | .fence 2 sc => some (.fenceFull sc 0)
      | .fence 3 sc => some (.fencePub sc 0)
      | .fence 4 _ => some (.fencePers 0)
      | _ => none)
  | .enqSpaceAvailable c => some (c, fun w => match w with
      | .enq e a b n => some (.enq e a b n 0)
      | .enqs e a b _ => some (.enqs e a b 0)
      | _ => none)
  | .efenceComplete c => some (c, fun w => match w with | .efence e => some (.efence e 0) | _ => none)
  | .lrelComplete c => some (c, fun w => match w with | .lrel => some (.lrel 0) | _ => none)
  | .wfeWake c => some (c, fun w => match w with | .wfe => some (.wfe 0) | _ => none)
  | .chinswRetry c => some (c, fun w => match w with | .chinsw p q a b => some (.chinsw p a b q 0) | _ => none)
  | _ => none

/-- When a wait ends, its context moving: the reason for it is gone. -/
def waitOver (s : State) : Wait → Prop
  | .rsend r _ => s.cur.kind = ringSender r ∧ ringLevel s s.cur.core r < 64
  | .rrecv r _ => s.cur.kind = ringReceiver r ∧ ringOf s s.cur.core r ≠ []
  | .kwait k a => Clean s a ∧ (xv s a).toNat ≤ 0xFFFF ∧ (xv s a).toNat ≤ (semOf s s.cur.core k).count.toNat
  | .cwait n => (let b : Barrier := mget {} (curClus s).barriers n.toNat
      (b.g - mget 0 b.t s.cur.core.rank).toNat < 2 ^ 31)
  | .twait r n => (tileOf s s.cur.core n).st = if r then .ready else .empty
  | .waitv d a => Clean s a ∧ Clean s d ∧ ∃ x, cohXl s (isSuper (curCtx s)) false (xv s a) 8 = .ok x ∧
      physMark s x.pa 8 = false ∧ (xv s d).toNat ≤ physNat s x.pa 8
  | .fget _ a => Clean s a ∧ ∃ x, cohXl s (isSuper (curCtx s)) true (xv s a) 16 = .ok x ∧ physMark s (x.pa + 8) 8 = false ∧
      (physNat s (x.pa + 8) 8 = 1 ∨ physNat s (x.pa + 8) 8 = 257)
  | .ftake _ a => Clean s a ∧ ∃ x, cohXl s (isSuper (curCtx s)) true (xv s a) 16 = .ok x ∧ physMark s (x.pa + 8) 8 = false ∧
      (physNat s (x.pa + 8) 8 = 1 ∨ physNat s (x.pa + 8) 8 = 257) ∧
      earlierTake s x.pa (match (curCtx s).wait with | some q => q.ticket | none => s.ticket) = false
  | .fence k sc => k.toNat < 5 ∧ (k = 0 ∨ writesHeld s sc.toNat = false) ∧
      (k = 4 → sc = 11 ∧ (mget ({} : Tier) s.pkg.tiers (partOf s s.cur.core)).v = true)
  | .enq e a b n => ∃ q, fedEng s e = some q ∧ Clean s a ∧ (3 < n.toNat → Clean s b) ∧ (queueOf s s.cur.core q).words.length + n.toNat < 256
  | .enqs e a b sent => ∃ q, fedEng s e = some q ∧ Clean s a ∧ Clean s b ∧ (xv s b).toNat ≤ sent + enqsShare s (curCtx s) ∧
      (queueOf s s.cur.core q).words.length + ((xv s b).toNat - sent) ≤ 256
  | .efence e => ∃ q, fedEng s e = some q ∧ queueIdle (queueOf s s.cur.core q) = true
  | .lease => s.cur.kind = .exec ∧ holdsLease s s.cur.core = true
  | .lrel => s.cur.kind = .exec ∧ (holdsLease s s.cur.core = true → queueIdle (curCore s).qMx = true ∧ arrayDirty (curClus s) = false)
  | .pacq l => pacqOk l = true ∧ ∃ r rest, (curClus s).pacq = r :: rest ∧ isMyReq s.cur r = true ∧ grantable s s.cur.core l = true
  | .chinsw _ q a b => Clean s a ∧ Clean s b ∧ insertCheck s s.cur.core q.toNat true (xv s a) = none ∧
      churnCan (churnOf s q.toNat) (xv s a) = true ∧
      earlierInsert s q.toNat (match (curCtx s).wait with | some w => w.ticket | none => s.ticket) (churnOf s q.toNat) = false
  | .wfe => (curCtx s).latch = true

/-- A context that can act: it runs, its unit is not under removal, no pre-emption holds it, its team is not being
restored. -/
def Acts (s : State) (id : CtxId) : Prop :=
  (ctxOf s id).run = .running ∧ (coreOf s id.core).removal = none ∧ (ctxOf s id).held = false ∧
  ∀ t, teamOf s id.core = some t → t.restoring = false

/-- The state with another context the mover. -/
def asMover (s : State) (id : CtxId) : State := { s with cur := id }

/-- No completion record waits for the TAIL that a write of these bytes would move (R400). -/
def NoTail (s : State) (addr n : Nat) : Prop := ∀ e ∈ s.pkg.link.pendingRecords, ¬ (addr ≤ e.1 + 0x39 ∧ e.1 + 0x39 < addr + n)

/-- A cluster is the only thing that changes, to v. -/
def ClusterBecomes (i : Instr) (s : State) (c : ClusId) (v : Cluster) : Prop := exec i s = .next (setClus s c v)
/-- After a change of power state, an event record may be written to the die's dispatch ring (R424). -/
def PowerBecomes (i : Instr) (s : State) (c : ClusId) (v : Cluster) : Prop :=
  ∃ t, exec i s = .next t ∧ clusOf t c = v ∧ (∀ d, clusKey d ≠ clusKey c → clusOf t d = clusOf s d) ∧
    t.cores = s.cores ∧ t.pkg.parts = s.pkg.parts ∧ t.pkg.tiers = s.pkg.tiers

end Sys2Proof.Claims

open Sys2Proof Sys2Proof.Machine Sys2Proof.Claims in
/-- R130-R137, R175, R182, R196, R198, R204-R208, R222, R320, R124, R416: the event of a wait executes the waiting
instruction of its context again, and nothing else; EACH SUCH EVENT ENDS THE WAIT once its reason is gone: the instruction completes
and the context goes on at the next one. The head of the PACQ queue is granted so too, and at once for a team that is being
restored. -/
def Obligations.WaitEvents : Prop :=
  (∀ ev c f s v i, endsWait ev = some (c, f) → (ctxOf s c).wait = some v → f v.what = some i → Acts s c → semFirst s c = true →
    ∃ t, exec i (asMover s c) = .next t ∧ exec ev s = .next { t with cur := s.cur }) ∧
  (∀ ev c f s v i, endsWait ev = some (c, f) → (ctxOf s c).wait = some v → f v.what = some i → Acts s c → semFirst s c = true →
    waitOver (asMover s c) v.what →
    ∃ t, exec ev s = .next t ∧ t.cur = s.cur ∧ GoesOn (asMover s c) (asMover t c) (nextPc (asMover s c))) ∧
  (∀ c s r l v x, (clusOf s c).pacq = r :: l → r.restore = false → grantable s (coreAt c r.rank) r.level = true →
    (ctxOf s ⟨coreAt c r.rank, r.kind⟩).wait = some v → v.what = .pacq x → Acts s ⟨coreAt c r.rank, r.kind⟩ →
    ∃ t, exec (.pacq x 0) (asMover s ⟨coreAt c r.rank, r.kind⟩) = .next t ∧
      exec (.pacqGrant c) s = .next { t with cur := s.cur }) ∧
  (∀ c s r l v, (clusOf s c).pacq = r :: l → r.restore = false → grantable s (coreAt c r.rank) r.level = true →
    (ctxOf s ⟨coreAt c r.rank, r.kind⟩).wait = some v → v.what = .pacq r.level → pacqOk r.level = true →
    Acts s ⟨coreAt c r.rank, r.kind⟩ →
    (let id : CtxId := ⟨coreAt c r.rank, r.kind⟩
     ∃ t, exec (.pacqGrant c) s = .next t ∧ t.cur = s.cur ∧ GoesOn (asMover s id) (asMover t id) (nextPc (asMover s id)) ∧
      (coreOf t (coreAt c r.rank)).plevel = r.level)) ∧
  (∀ c s r l, (clusOf s c).pacq = r :: l → r.restore = true → grantable s (coreAt c r.rank) r.level = true →
    ∃ t, exec (.pacqGrant c) s = .next t ∧ (coreOf t (coreAt c r.rank)).plevel = r.level ∧ (clusOf t c).pacq = l ∧
      (clusOf t c).rsv = (clusOf s c).rsv - (coreOf s (coreAt c r.rank)).plevel + r.level ∧ SameBytes s t)

open Sys2Proof Sys2Proof.Machine Sys2Proof.Claims in
/-- R23, R326, R27, R329: a pending interrupt enters the handler between instructions with the interrupt bits as TVAL, in a later
cycle than that in which it became pending (DEDUCED, log 157); an
engine trap enters the handler of the feeding context, naming its queue and entry in TENTRY, with TEPC 0 for a
context that has ended; the wrap of a counter that counts clears it, sets OVF and, with OVIE, CNTOV and the event latch, in the image of the team where it is away. -/
def Obligations.TrapEvents : Prop :=
  (∀ c s, Acts s c → tsInh (ctxOf s c).tstat = false → tsIe (ctxOf s c).tstat = true → (ctxOf s c).intp &&& 3 ≠ 0 →
    (ctxOf s c).intpAt ≠ s.cyc.toNat + 1 → (ctxOf s c).wait = none → pendingEng s c = none →
    ∃ t, exec (.interrupt c) s = .next t ∧ t.cur = s.cur ∧ SameBytes s t ∧
      EntersTrap id id (asMover s c) (asMover t c) 0x20 (ctxOf s c).intp) ∧
  (∀ c s e st, (ctxOf s c).run ≠ .off → (coreOf s c.core).removal = none → (ctxOf s c).held = false →
    (∀ t, teamOf s c.core = some t → t.restoring = false) → tsInh (ctxOf s c).tstat = false → (ctxOf s c).wait = none →
    pendingEng s c = some (e, st) →
    ∃ t, exec (.engineTrapDelivery c) s = .next t ∧ SameBytes s t ∧
      (queueOf t c.core e).stop = some { st with taken := true } ∧ (queueOf t c.core e).words = (queueOf s c.core e).words ∧
      (let k := ctxOf t c
       k.tsave = (ctxOf s c).tstat ∧ tsCause k.tstat = st.cause ∧ tsInh k.tstat = true ∧ tsPm k.tstat = 1 ∧ k.tval = st.tval ∧
       k.tentry = BitVec.ofNat 64 (engCode e * 2 ^ 16 + st.index.toNat) ∧ k.stopped = some ⟨e, st.index⟩ ∧ k.run = .running ∧
       k.tepc = (if (ctxOf s c).run = .ended then 0 else (ctxOf s c).pc) ∧
       k.pc = maskPc ((ctxOf s c).tvec + st.cause.setWidth 64 * 64))) ∧
  (∀ c n s, n < 8 → mget 0 (coreOf s c).ecnt n = 0xFFFFFFFFFFFF → bitsAt (mget 0 (coreOf s c).esel n) 0 8 ≠ 0 →
    (mget 0 (coreOf s c).esel n).getLsbD 10 = false →
    ∃ t, exec (.ecntWrap c n) s = .next t ∧ SameBytes s t ∧ mget 0 (coreOf t c).ecnt n = 0 ∧
      (mget 0 (coreOf t c).esel n).getLsbD 12 = true ∧
      ((mget 0 (coreOf s c).esel n).getLsbD 11 = true →
        ((coreOf s c).unit.isSome = true →
          (coreOf t c).ctxX.intp = (coreOf s c).ctxX.intp ||| 2 ∧ (coreOf t c).ctxX.latch = true) ∧
        ∀ k v x, (coreOf s c).unit = none → s.pkg.saved = [(k, v)] → v.home = clusKey (CoreId.cl c) → v.cores[c.rank]? = some x →
          ∃ v' y, t.pkg.saved = [(k, v')] ∧ v'.cores[c.rank]? = some y ∧ y.ctxX.intp = x.ctxX.intp ||| 2))

open Sys2Proof Sys2Proof.Machine Sys2Proof.Claims in
/-- R212, R214, R218, R173, R124, R414: the oldest running entry completes: its flags join the feeding context's FCTL, a token goes
to each neighbour it feeds, its SIGKs are added, its tiles change state; an entry that waited on charge is considered
again; the charge rate steps toward its target. -/
def Obligations.EngineEvents : Prop :=
  (∀ c e s r l, (queueOf s c e).running = r :: l → r.completeAt ≤ s.cyc.toNat → (queueOf s c e).stop = none →
    (queueOf s c e).redo = false → (queueOf s c e).redoFrom = none → (∀ x ∈ r :: l, x.late = none) →
    (∀ b ∈ r.banks, (clusOf s (CoreId.cl c)).array.verdictFail.getLsbD b = false) → pushBlocked (coreOf s c) e r = false →
    ∃ t, exec (.entryCompletion c e) s = .next t ∧
      (e ≠ .st ∨ hasEdge r = false ∨ ((∀ l ∈ (coreOf s c).l1, ∀ d ∈ l.2.dirty, d.2 ≠ engWriter) ∧
        ∀ m ∈ (coreOf s c).maps, ∀ d ∈ m.dirty, d.2 ≠ engWriter) → SameBytes s t) ∧
      (hasEdge r = true → (queueOf s c e).pts ≤ (coreOf t c).engWts) ∧ (queueOf t c e).running = l ∧
      (ctxOf t ⟨c, feederOf e⟩).fctl = (ctxOf s ⟨c, feederOf e⟩).fctl ||| r.flags ∧
      (∀ a, fifoOf t c e a = fifoOf s c e a + (r.pushes.filter fun x => x = a).length) ∧
      (r.sigks = [] → ∀ k, semOf t c k = semOf s c k) ∧
      (∀ k, r.sigks = [k] → (semOf s c k).count.toNat < 0xFFFF → (semOf t c k).count = (semOf s c k).count + 1) ∧
      (∀ n, r.tiles = [(c, n, .filled)] → (tileOf t c n).st = .ready) ∧
      (r.tiles = [] → ∀ n, tileOf t c n = tileOf s c n)) ∧
  (∀ c e s x w op mk L, (queueOf s c e).charge = some x → (queueOf s c e).words[(queueOf s c e).pos]? = some w →
    (coreOf s c).removal = none → preempting s c = false → w.w.extractLsb' 14 2 = 1 → op = (w.w.extractLsb' 7 7).toNat → specOf e op = some (mk, L) →
    ∃ t, exec (mk (w.w.extractLsb' 1 6)) { s with cur := ⟨c, feederOf e⟩, curEng := e } = .next t ∧
      exec (.chargeWaitStart c e) s = .next { t with cur := s.cur, curEng := s.curEng }) ∧
  (∀ c s n, (clusOf s c).ramp ≠ 0 → n = (s.cyc.toNat - (clusOf s c).rampAt) / (clusOf s c).ramp.toNat → n ≠ 0 →
    ∃ t, exec (.bucketRampTick c) s = .next t ∧ SameBytes s t ∧
      (clusOf t c).rampAt = (clusOf s c).rampAt + n * (clusOf s c).ramp.toNat ∧
      ((clusOf s c).rate.toNat + n ≤ (clusOf s c).tgt.toNat → (clusOf t c).rate.toNat = (clusOf s c).rate.toNat + n) ∧
      ((clusOf s c).rate = (clusOf s c).tgt → (clusOf t c).rate = (clusOf s c).rate))

open Sys2Proof Sys2Proof.Machine Sys2Proof.Claims in
/-- R221, R222, R431: a free array is granted round-robin after its last holder; a lease of 64 launches or 16,384 cycles ends
at an entry boundary, and one whose MX trap stands 4,096 cycles is revoked (under a lease granted since, they count from the grant:
log 25): the array is then as at unit start, a dirty one having been parked. -/
def Obligations.LeaseEvents : Prop :=
  (∀ c s k r, (clusOf s c).leaseHolder = none → (clusOf s c).peTests = [] → k < 4 → r = ((clusOf s c).lastHolder + 1 + k) % 4 →
    r ∈ leaseAsks s c → (∀ j, j < k → ((clusOf s c).lastHolder + 1 + j) % 4 ∉ leaseAsks s c) →
    ∃ t, exec (.leaseGrant c) s = .next t ∧ SameBytes s t ∧ (clusOf t c).leaseHolder = some r ∧
      (clusOf t c).leaseReqs = (clusOf s c).leaseReqs.filter (fun x => x ≠ r) ∧ (clusOf t c).leaseLaunches = 0 ∧
      (clusOf t c).leaseAt = s.cyc.toNat ∧ (clusOf t c).array = (clusOf s c).array) ∧
  (∀ c s r, (clusOf s c).leaseHolder = some r →
    let q := (coreOf s (coreAt c r)).qMx
    let Ended (t : State) : Prop := SameBytes s t ∧ (clusOf t c).leaseHolder = none ∧ (clusOf t c).lastHolder = r ∧
      (clusOf t c).array = {} ∧ (coreOf t (coreAt c r)).reask = true ∧
      (arrayDirty (clusOf s c) = true → (coreOf t (coreAt c r)).park = (clusOf s c).array) ∧
      (arrayDirty (clusOf s c) = false → (coreOf t (coreAt c r)).park = (coreOf s (coreAt c r)).park)
    ((64 ≤ (clusOf s c).leaseLaunches ∨ (clusOf s c).leaseAt + 16384 ≤ s.cyc.toNat) → q.running = [] → q.entry = none →
      ∃ t, exec (.leaseExhaustion c) s = .next t ∧ Ended t ∧
        (arrayDirty (clusOf s c) = true → (coreOf t (coreAt c r)).leaseDue = true)) ∧
    (∀ st, q.stop = some st → Nat.max (clusOf s c).leaseAt st.since + 4096 ≤ s.cyc.toNat →
      ∃ t, exec (.leaseRevocation c) s = .next t ∧ Ended t ∧
        (arrayDirty (clusOf s c) = true → (coreOf t (coreAt c r)).revk = true ∧ (coreOf t (coreAt c r)).unpark = true)))

open Sys2Proof Sys2Proof.Machine Sys2Proof.Claims in
/-- R335, R370-R372, R375, R376, R338, R148: what happens to a record and its team: staging, unbinding, the start of its units and
their restore, the end of the slice, of the budget and of a patience threshold, the request to stop, the forced stop,
the save, and the end of a restore. A record does not start in the cycle of its staging (DEDUCED, log 156); the
descriptor is read again at the start (DESIGN CHOICE, log 132), and a restore moves the end of the slice by its length (DESIGN CHOICE,
log 75). -/
def Obligations.TeamEvents : Prop :=
  (∀ c (k : Nat) w0 s, k < 2 → w0.getLsbD 63 = true → (slotAt s c k).st = .free → (clusOf s c).power = .run →
    (clusOf s c).busySince = none → recordOk s c (setSlotWord (slotAt s c k) 0 w0) = true →
    (mget ({} : Tier) s.pkg.tiers (jcbPart s (recJcb (setSlotWord (slotAt s c k) 0 w0)))).isSealed = false →
    ∃ t, exec (.bindStage c k w0) s = .next t ∧ (slotAt t c k).st = .staged ∧ slotWord (slotAt t c k) 0 = w0 ∧
      (slotAt t c k).stagedAt = s.cyc.toNat ∧
      (let e := lctabEntry s (recJcb (setSlotWord (slotAt s c k) 0 w0)) (recLid (setSlotWord (slotAt s c k) 0 w0))
       ∀ a, (a < e ∨ e + 8 ≤ a) → physBytes t a 1 = physBytes s a 1)) ∧
  (∀ c (k : Nat) s, k < 2 → (slotAt s c k).st = .staged →
    ∃ t, exec (.bindUnbind c k) s = .next t ∧ (slotAt t c k).st = .free ∧ (slotWord (slotAt t c k) 0).getLsbD 63 = false) ∧
  (∀ c s b d, (clusOf s c).team = none → (clusOf s c).power = .run → bestStaged s c = some b →
    (slotAt s c b.1).stagedAt < s.cyc.toNat → recRes (slotAt s c b.1) = false → recKind (slotAt s c b.1) ≠ 1 →
    readDesc s (jcbRoot s (recJcb (slotAt s c b.1))) (recDesc (slotAt s c b.1)) = some d →
    ∃ t, exec (.slotStart c) s = .next t ∧ (slotAt t c b.1).st = .running ∧
      (∃ x, (clusOf t c).team = some x ∧ x.size = d.team ∧ x.slot = b.1 ∧ x.restoring = false) ∧
      ∀ r, r < d.team → ∃ u, (coreOf t (coreAt c r)).unit = some u ∧ u.rank = r ∧ (coreOf t (coreAt c r)).ctxX.run = .running ∧
        (coreOf t (coreAt c r)).ctxX.pc = maskPc (d.entries.getD 1 0) ∧ (coreOf t (coreAt c r)).ctxX.wthresh = 20000) ∧
  (∀ c s b, (clusOf s c).team = none → (clusOf s c).power = .run → bestStaged s c = some b → (slotAt s c b.1).stagedAt < s.cyc.toNat →
    recRes (slotAt s c b.1) = true → (∃ e ∈ s.pkg.saved, e.1 = recSave (slotAt s c b.1)) →
    ∃ t x, exec (.slotStart c) s = .next t ∧ (clusOf t c).team = some x ∧ x.restoring = true ∧ x.since = s.cyc.toNat) ∧
  (∀ c s b, bestStaged s c = some b → (slotAt s c b.1).stagedAt = s.cyc.toNat → exec (.slotStart c) s = .next s) ∧
  (∀ c s x, (clusOf s c).team = some x → x.restoring = true → (∀ r ∈ (clusOf s c).pacq, r.restore = false) →
    ∃ t y, exec (.teamRestoreComplete c) s = .next t ∧ (clusOf t c).team = some y ∧ y.restoring = false ∧
      y.sliceEnd = x.sliceEnd + (s.cyc.toNat - x.since) ∧ y.lastRestore = s.cyc.toNat - x.since ∧ SameBytes s t) ∧
  (∀ c s x w, (clusOf s c).team = some x → x.due = some w → x.preempt = none →
    ∃ t y, exec (.preemptionRequest c) s = .next t ∧ (clusOf t c).team = some y ∧
      y.preempt = some { since := s.cyc.toNat, why := w } ∧ y.due = none ∧ SameBytes s t) ∧
  (∀ k s x p, teamOf s k.core = some x → x.preempt = some p → p.since + 16384 ≤ s.cyc.toNat → (ctxOf s k).run = .running →
    (ctxOf s k).wait = none →
    exec (.preemptionForceStop k) s = .next (setCtx s k { ctxOf s k with held := true })) ∧
  (∀ c s x, (clusOf s c).team = some x → x.sliceEnd ≤ s.cyc.toNat → x.sliceDone = false → x.restoring = false →
    ∃ t y, exec (.sliceEnd c) s = .next t ∧ (clusOf t c).team = some y ∧ y.sliceDone = true ∧ SameBytes s t) ∧
  (∀ k s x, overdue s k = true → teamOf s k.core = some x →
    ∃ t y, exec (.wthreshExpiry k) s = .next t ∧ (clusOf t (CoreId.cl k.core)).team = some y ∧ y.swappable = true ∧ SameBytes s t) ∧
  (∀ c s x, (clusOf s c).team = some x → x.budgeted = true →
    ∃ t y, exec (.budgetExpiry c) s = .next t ∧ (clusOf t c).team = some y ∧ y.budgeted = false ∧ y.preempt ≠ none ∧
      ∀ r, r < x.size →
        (let k := (coreOf s (coreAt c r)).ctxX
         k.run = .running → k.wait = none → tsInh k.tstat = false →
          tsCause (coreOf t (coreAt c r)).ctxX.tstat = 0x0A ∧ (coreOf t (coreAt c r)).ctxX.tval = x.bud.setWidth 64)) ∧
  (∀ c s x p, (clusOf s c).team = some x → x.preempt = some p → x.slot < 2 → p.why ≠ .retire →
    (∀ r, r < x.size → coreStopped (coreOf s (coreAt c r)) = true) →
    ∃ t img, exec (.teamSaveComplete c) s = .next t ∧ (clusOf t c).team = none ∧ (slotAt t c x.slot).st = .free ∧
      (x.save, img) ∈ t.pkg.saved ∧ img.team.job = x.job ∧ img.team.preempt = none ∧ img.cores.length = x.size ∧
      img.home = clusKey c ∧ (slotAt t c x.slot).lastSave = img.team.lastSave)

open Sys2Proof Sys2Proof.Machine Sys2Proof.Claims in
/-- R143, R337, R340-R343, R391, R392, R323, R373: a unit that is done retires; removal begins on request or after a hung
pre-emption, and ends in retirement after 2,048 cycles with no write held at the egress and no access under way (DEDUCED, log 133); a compensation and a unit of a bound Churn queue, whose
entry or template is read again then (DESIGN CHOICE, log 132), start on an idle cluster of the partition (DEDUCED, log 106); a graph is loaded. -/
def Obligations.UnitEvents : Prop :=
  (∀ c s u, (coreOf s c).unit = some u → u.comp = none → unitDone s c = true →
    ∃ t, exec (.unitRetire c) s = .next t ∧ (coreOf t c).unit = none ∧ (coreOf t c).retired = true ∧ (coreOf t c).ctxX.run = .off) ∧
  (∀ c s u q, (coreOf s c).unit = some u → u.comp = some q → u.removed = false → u.cancelled = false →
    (readX (coreOf s c).ctxX 10).val = 0 → unitDone s c = true →
    ∃ t, exec (.compensationEnd c) s = .next t ∧ (coreOf t c).unit = none ∧ (coreOf t c).retired = true) ∧
  (∀ c s u, (coreOf s c).unit = some u → (coreOf s c).removal = none →
    ∃ t r, exec (.removalRequest c) s = .next t ∧ (coreOf t c).removal = some r ∧ r.since = s.cyc.toNat) ∧
  (∀ c s u x p, (coreOf s c).unit = some u → (coreOf s c).removal = none → teamOf s c = some x → x.preempt = some p →
    p.since + 131072 ≤ s.cyc.toNat → coreStopped (coreOf s c) = false →
    ∃ t r, exec (.preemptionHang c) s = .next t ∧ (coreOf t c).removal = some r ∧ r.since = s.cyc.toNat) ∧
  (∀ c s u r, (coreOf s c).unit = some u → u.comp = none → (coreOf s c).removal = some r → r.since + 2048 ≤ s.cyc.toNat →
    egressHeld s c = false → accessHeld s c = false →
    ∃ t, exec (.removalRelease c) s = .next t ∧ (coreOf t c).unit = none ∧ (coreOf t c).removal = none ∧ (coreOf t c).sems = [] ∧
      (coreOf t c).rings = [] ∧ ∀ e, (queueOf t c e).words = []) ∧
  (∀ job c s j r d, jobOf s job = some j → nextComp s job = some r → idleCluster s c = true →
    partHas s j.part (CoreId.cl c) = true → readDesc s (jcbRoot s j.jcb) r.entry = some d → d.grid = 1 → d.team = 1 → d.det = false →
    ∃ t u, exec (.compensationStart job c) s = .next t ∧ (coreOf t c).unit = some u ∧ u.comp = some r.seq ∧
      (coreOf t c).ctxX.run = .running ∧ (readX (coreOf t c).ctxX 10).val = r.laid ∧ (readX (coreOf t c).ctxX 11).val = r.seq ∧
      (∀ e, (allRecs s).find? (fun e => e.2.seq = r.seq) = some e →
        let slot := bitsAt (dieOf s e.1).lasbase 12 40 * 4096 + 128 * e.2.slot
        ∀ a, (a < slot ∨ slot + 128 ≤ a) → physBytes t a 1 = physBytes s a 1)) ∧
  (∀ (q : Nat) c s job j k d, (churnOf s q).owner = some job → churnOldest (churnOf s q) = some k → jobOf s job = some j →
    (churnOf s q).en = true → (churnOf s q).bind = true → j.cancelled = false → (churnOf s q).inFlight ≤ (churnOf s q).conc →
    (churnOf s q).asked = [] →
    idleCluster s c = true → partHas s j.part (CoreId.cl c) = true →
    readDesc s (jcbRoot s j.jcb) (churnOf s q).templ = some d →
    ∃ t u, exec (.churnBoundDispatch q c) s = .next t ∧ (coreOf t c).unit = some u ∧
      u.churn = some (q, churnHeader (churnOf s q) q k, (mget ({} : ChurnRec) (churnOf s q).recs k).age) ∧ (churnOf t q).asked = [] ∧
      (churnOf t q).inFlight = (churnOf s q).inFlight + 1 ∧
      (mget ({} : ChurnRec) (churnOf t q).recs k).st = .claimed ∧
      (readX (coreOf t c).ctxX 10).val = churnHeader (churnOf s q) q k ∧
      (readX (coreOf t c).ctxX 11).val = (mget ({} : ChurnRec) (churnOf s q).recs k).key ∧
      (∀ n, n < (mget ({} : ChurnRec) (churnOf s q).recs k).payload.length / 8 → n < 6 →
        (readX (coreOf t c).ctxX (BitVec.ofNat 5 (12 + n))).val =
          BitVec.ofNat 64 (leNat (((mget ({} : ChurnRec) (churnOf s q).recs k).payload.drop (8 * n)).take 8))) ∧ SameBytes s t) ∧
  (∀ (q : Nat) c s job j k, (churnOf s q).owner = some job → churnOldest (churnOf s q) = some k → jobOf s job = some j →
    (churnOf s q).en = true → (churnOf s q).bind = true → j.cancelled = false → (churnOf s q).inFlight ≤ (churnOf s q).conc →
    idleCluster s c = false →
    ∃ t, exec (.churnBoundDispatch q c) s = .next t ∧ (coreOf t c).unit = (coreOf s c).unit ∧
      (churnOf t q).inFlight = (churnOf s q).inFlight + 1 ∧ (churnOf t q).asked.length = (churnOf s q).asked.length + 1 ∧
      (mget ({} : ChurnRec) (churnOf t q).recs k).st = .claimed ∧ SameBytes s t) ∧
  (∀ (jcb : Nat) gid desc s g, graphDue s jcb desc = true → graphCancelled s jcb = false → readGraph s jcb gid desc.toNat = some g →
    ∃ t, exec (.graphLoad jcb gid desc) s = .next t ∧ g ∈ t.pkg.graphs ∧ t.cores = s.cores ∧ SameBytes s t)

open Sys2Proof Sys2Proof.Machine Sys2Proof.Claims in
/-- R344, R346-R349, R352, R353, R357: errors: a correctable one is counted on its die; an uncorrectable one poisons the register,
the ring entry, the vector element, the stash word or the sector of memory it hits, where the word that failed holds the bits it is
delivered with; a mismatch at a context raises PIPE with the record's number; a passed verdict changes nothing where none
has failed, and after three replays a failed one stops the queue with REPLAYX; a self-test that is due writes a record, and no other
is run. -/
def Obligations.ErrorEvents : Prop :=
  (∀ site s, ∃ t, exec (.eccCorrectable site) s = .next t ∧
    mget 0 (dieOf t (siteRec s site).die).corrected (siteKey s site) = mget 0 (dieOf s (siteRec s site).die).corrected (siteKey s site) + 1) ∧
  (∀ k (n : Nat) bits s, n ≠ 0 → n < 32 → ∃ t, exec (.eccUncorrectable (.xreg k n) bits) s = .next t ∧
    (readX (ctxOf t k) (BitVec.ofNat 5 n)).poison = true ∧
    (let old := (readX (ctxOf s k) (BitVec.ofNat 5 n)).val
     let v := (readX (ctxOf t k) (BitVec.ofNat 5 n)).val
     (v.extractLsb' 0 32 = bits ∧ v.extractLsb' 32 32 = old.extractLsb' 32 32) ∨
       (v.extractLsb' 32 32 = bits ∧ v.extractLsb' 0 32 = old.extractLsb' 0 32)) ∧
    ∀ m, m ≠ BitVec.ofNat 5 n → readX (ctxOf t k) m = readX (ctxOf s k) m) ∧
  (∀ c (r k : Nat) bits s, k < (mget [] (coreOf s c).rings r).length →
    ∃ t, exec (.eccUncorrectable (.ring c r k) bits) s = .next t ∧
      (let old := ((mget [] (coreOf s c).rings r).getD k { val := 0, poison := false }).val
       let e := (mget [] (coreOf t c).rings r).getD k { val := 0, poison := false }
       e.poison = true ∧ ((e.val.extractLsb' 0 32 = bits ∧ e.val.extractLsb' 32 32 = old.extractLsb' 32 32) ∨
         (e.val.extractLsb' 32 32 = bits ∧ e.val.extractLsb' 0 32 = old.extractLsb' 0 32))) ∧
      ∀ m, m ≠ k → (mget [] (coreOf t c).rings r)[m]? = (mget [] (coreOf s c).rings r)[m]?) ∧
  (∀ c (r i j : Nat) bits s, ∃ t, exec (.eccUncorrectable (.vreg c r i j) bits) s = .next t ∧
    (mget {} (coreOf t c).vec.elts (1024 * r + 32 * i + j)).bits = bits ∧
    (mget {} (coreOf t c).vec.elts (1024 * r + 32 * i + j)).poison = true ∧
    ∀ m, m ≠ 1024 * r + 32 * i + j → mget {} (coreOf t c).vec.elts m = mget {} (coreOf s c).vec.elts m) ∧
  (∀ c (a : Nat) bits s, a < 2 ^ 21 → stashLineClean (coreOf s c) a = none →
    ∃ t, exec (.eccUncorrectable (.stash c a) bits) s = .next t ∧ stashMark (coreOf t c) (a / 4 * 4) 4 = true ∧
      getBytes (coreOf t c).stash (a / 4 * 4) 4 = leBytes 4 bits.toNat ∧
      ∀ m, (m < a / 4 * 4 ∨ a / 4 * 4 + 4 ≤ m) → mget 0 (coreOf t c).stash m = mget 0 (coreOf s c).stash m) ∧
  (∀ (a : Nat) bits s, a < 0x6000000000 → (homeOf s (a / 128)).pinned = false →
    ∃ t, exec (.eccUncorrectable (.hbm a) bits) s = .next t ∧ physBytes t (a / 4 * 4) 4 = leBytes 4 bits.toNat ∧
      ∀ w, w < 8 → physMark t (a / 32 * 32 + 4 * w) 4 = true) ∧
  (∀ k s, (ctxOf s k).wait = none → Acts s k → tsInh (ctxOf s k).tstat = false →
    ∃ t, exec (.checkerMismatch (.context k) 3) s = .next t ∧ t.cur = s.cur ∧
      EntersTrap (fun _ => {}) (fun _ => {}) (asMover s k) (asMover t k) 0x07
        ((dieOf s (siteRec s (.context k)).die).errSeq.setWidth 64)) ∧
  (∀ c (b : Nat) s r, (clusOf s c).leaseHolder = some r → (coreOf s (coreAt c r)).qMx.stop = none →
    ((clusOf s c).array.verdictFail.getLsbD b = false → exec (.arrayVerdict c b true) s = .next s) ∧
    ((coreOf s (coreAt c r)).qMx.redo = false → (coreOf s (coreAt c r)).qMx.redoFrom = none → (coreOf s (coreAt c r)).qMx.window ≠ [] →
      3 ≤ (coreOf s (coreAt c r)).qMx.replays →
      ∃ t st, exec (.arrayVerdict c b false) s = .next t ∧ (coreOf t (coreAt c r)).qMx.stop = some st ∧ st.cause = 0x16 ∧
        st.since = s.cyc.toNat ∧ st.resume = .replay)) ∧
  (∀ site ref ecc s, (∀ c r, site ≠ .peRow c r) → (site, ref, ecc) ∈ (dieOf s (siteRec s site).die).due →
    ∃ t, exec (.selfTest site ref false) s = .next t ∧
      (dieOf t (siteRec s site).die).errSeq = (dieOf s (siteRec s site).die).errSeq + 1 ∧
      (dieOf t (siteRec s site).die).due.length + 1 = (dieOf s (siteRec s site).die).due.length) ∧
  (∀ c (row : Nat) ref s, mget 0 (clusOf s c).peTests row ≠ 0 → (clusOf s c).leaseHolder = none →
    ∃ t, exec (.selfTest (.peRow c row) ref false) s = .next t ∧ mget 0 (clusOf t c).peTests row = 0 ∧
      (dieOf t c.die).errSeq = (dieOf s c.die).errSeq + 1) ∧
  (∀ site s, ¬ (∃ c r, site = .peRow c r) → (∀ x ∈ (dieOf s (siteRec s site).die).due, x.1 ≠ site) → ∀ ref lasting,
    exec (.selfTest site ref lasting) s = .next s)

open Sys2Proof Sys2Proof.Machine Sys2Proof.Claims in
/-- R359, R360, R404, R405: a recovery request is taken when the last one has ended, and asks every team of the partition to stop; it ends
with STATUS 1 without a safe tier, 3 when sealed, 2 where a rollback finds no point, and otherwise, every team of the partition being gone,
with a new point of the memory, which takes in what the write buffers hold (DEDUCED, log 121), under REQ 2 with its seal, or, where the
point holds no team and no compensation, with the memory of the partition as the point has it; DONE is set. A long log asks for a point
as well. -/
def Obligations.RecoveryEvents : Prop :=
  let form : Instr → Option (Nat × BitVec 2) := fun i => match i with
    | .rpctlRecoveryPoint p => some (p, 0)
    | .rpctlRollback p => some (p, 1)
    | .rpctlSeal p => some (p, 2)
    | _ => none
  let tier (s : State) (p : Nat) : Tier := mget {} s.pkg.tiers p
  (∀ i p req s, form i = some (p, req) →
    ((tier s p).done = true → ∃ t, exec i s = .next t ∧ SameBytes s t ∧
      { tier t p with stopped := [] } = { tier s p with doing := req, done := false, acting := true, stopped := [] } ∧
      ∀ c ∈ partClusters s p, ∃ x, (clusOf t c).team = some x ∧ x.preempt ≠ none) ∧
    ((tier s p).done = false → exec i s = .next s)) ∧
  (∀ p s, (tier s p).acting = true → (tier s p).done = false →
    let Ends (st : BitVec 4) : Prop := ∃ t, exec (.recoveryRequestEnd p) s = .next t ∧
      (tier t p).status = st ∧ (tier t p).done = true ∧ (tier t p).acting = false
    ((tier s p).v = false → Ends 1) ∧
    ((tier s p).v = true → (tier s p).isSealed = true → Ends 3) ∧
    ((tier s p).v = true → (tier s p).isSealed = false → (tier s p).doing = 1 → latest (storeOf s p) = none → Ends 2) ∧
    ((tier s p).v = true → (tier s p).isSealed = false → (tier s p).doing = 0 → partClusters s p = [] → (tier s p).stalled = [] →
      ∃ t, exec (.recoveryRequestEnd p) s = .next t ∧ (tier t p).done = true ∧ (tier t p).status = 0 ∧
        latest (storeOf t p) = some (pointOf (drainBufs s) p) ∧ (storeOf t p).point = (storeOf s p).point + 1 ∧
        ((tier s p).stopped = [] → t.mem = (drainBufs s).mem)) ∧
    ((tier s p).v = true → (tier s p).isSealed = false → (tier s p).doing = 2 → partClusters s p = [] → (tier s p).stalled = [] →
      ∃ t, exec (.recoveryRequestEnd p) s = .next t ∧ (tier t p).done = true ∧ (tier t p).status = 0 ∧ (tier t p).isSealed = true ∧
        latest (storeOf t p) = some (pointOf (drainBufs s) p) ∧ (storeOf t p).point = (storeOf s p).point + 1 ∧
        (storeOf t p).sealedPt = some ((storeOf s p).point + 1)) ∧
    (∀ i, (tier s p).v = true → (tier s p).isSealed = false → (tier s p).doing = 1 → partClusters s p = [] →
      latest (storeOf s p) = some i → i.saved = [] → (∀ e ∈ i.las, e.2 = []) → (storeOf s p).persisted = [] →
      ∃ t, exec (.recoveryRequestEnd p) s = .next t ∧ (tier t p).done = true ∧ (tier t p).status = 0 ∧
        ∀ k, k < (hbmRange s p).2 → mget 0 t.mem ((hbmRange s p).1 + k) = mget 0 i.mem k)) ∧
  (∀ p s, 1572864 < (storeOf s p).log.length → (tier s p).v = true → (tier s p).acting = false →
    ∃ t, exec (.escapedLogThreshold p) s = .next t ∧ { tier t p with stopped := [] } = { tier s p with acting := true, stopped := [] } ∧
      SameBytes s t)

open Sys2Proof Sys2Proof.Machine Sys2Proof.Claims in
/-- R414, R415, R419-R421, R424, R425: the power states of a cluster: what each request, switch and wake source (SW, CPW, STG) does, a
wake with a valid image and without, the retention store, with the rate of the bucket (DEDUCED, log 43), a write of the charge bucket,
from which its steps count (log 43), and a write of the package's cap, whose high bits are not read (DEDUCED, log 11) and which gives each
cluster a target up to 116 (DESIGN CHOICE, log 44). -/
def Obligations.PowerEvents : Prop :=
  (∀ c s, (clusOf s c).busySince = none → (clusOf s c).power = .run → (clusOf s c).slot0.st = .free → (clusOf s c).slot1.st = .free →
    ClusterBecomes (.clpctlQuiesce c) s c { clusOf s c with req := 1, busySince := some s.cyc.toNat }) ∧
  (∀ c s, (clusOf s c).power = .run → (clusOf s c).busySince ≠ none → clusterDrained s c = true →
    PowerBecomes (.quiescedReached c) s c { clusOf s c with ack := true, busySince := none, power := .quiesced }) ∧
  (∀ c s, (clusOf s c).busySince = none → (clusOf s c).power = .quiesced →
    PowerBecomes (.clpctlRun c) s c { clusOf s c with req := 0, ack := true, busySince := none, power := .run } ∧
    ((clusOf s c).rdone = true → (clusOf s c).gate = 0x1F →
      ClusterBecomes (.clpctlRetain c) s c { clusOf s c with req := 2, busySince := some s.cyc.toNat }) ∧
    ((clusOf s c).gate = 0x2F → PowerBecomes (.clpctlOff c) s c
      { clusOf s c with req := 3, ack := true, busySince := none, rdone := false, saving := false, power := .off })) ∧
  (∀ c s n, (clusOf s c).power = .quiesced → (clusOf s c).busySince = some n → n + 4096 ≤ s.cyc.toNat → (clusOf s c).heldWake = false →
    PowerBecomes (.retainedReached c) s c { clusOf s c with ack := true, busySince := none, power := .retained }) ∧
  (∀ c s, (clusOf s c).power = .quiesced → (clusOf s c).saving = false → (clusOf s c).restoring = false →
    ClusterBecomes (.clretsvSave c) s c { clusOf s c with
      saving := true, rdone := false
      store := { mcwin := (clusOf s c).mcwin, ramp := (clusOf s c).ramp, tgt := (clusOf s c).tgt, rate := (clusOf s c).rate,
                 ecnt := (clusOf s c).ecnt, esel := (clusOf s c).esel } }) ∧
  (∀ c s, (clusOf s c).power = .quiesced → (clusOf s c).rdone = true → (clusOf s c).saving = false →
    ClusterBecomes (.clretsvRestore c) s c { clusOf s c with restoring := true }) ∧
  (∀ c s, (clusOf s c).saving = true → ClusterBecomes (.retentionSaveDone c) s c { clusOf s c with saving := false, rdone := true }) ∧
  (∀ c s, (clusOf s c).restoring = true → ClusterBecomes (.retentionRestoreDone c) s c { clusOf s c with
    restoring := false, mcwin := (clusOf s c).store.mcwin, ramp := (clusOf s c).store.ramp, tgt := (clusOf s c).store.tgt,
    rate := (clusOf s c).store.rate, rampAt := s.cyc.toNat, ecnt := (clusOf s c).store.ecnt, esel := (clusOf s c).store.esel }) ∧
  (∀ c (v : Word) s, v.toNat < 64 → bitsAt v 4 2 ≠ 3 → (clusOf s c).power ≠ .run → (clusOf s c).power ≠ .waking → (clusOf s c).gate.getLsbD 0 = true →
    ClusterBecomes (.clgateWrite c v) s c { clusOf s c with gate := v.setWidth 6 }) ∧
  (∀ c (v : Word) s, 0 < v.toNat → v.toNat < 16 → (∀ r, r < 4 → (coreOf s (coreAt c r)).unit = none) →
    (clusOf s c).power = .retained → (clusOf s c).wmask.getLsbD 0 = true →
    PowerBecomes (.clwakeWrite c v) s c { clusOf s c with busySince := some s.cyc.toNat, woken := false, heldWake := false, power := .waking }) ∧
  (∀ c s n, (clusOf s c).power = .waking → (clusOf s c).busySince = some n → n + 8192 ≤ s.cyc.toNat → (clusOf s c).rdone = false →
    (clusOf s c).woken = false →
    PowerBecomes (.wakeComplete c) s c { clusOf s c with
      gate := 0, woken := true, restoring := false, req := 0, ack := true, busySince := none, power := .run }) ∧
  (∀ c s n, (clusOf s c).power = .waking → (clusOf s c).busySince = some n → n + 8192 ≤ s.cyc.toNat → (clusOf s c).rdone = true →
    (clusOf s c).woken = false →
    ClusterBecomes (.wakeComplete c) s c { clusOf s c with gate := 0, woken := true, restoring := true }) ∧
  (∀ c s n, (clusOf s c).power = .waking → (clusOf s c).busySince = some n → n + 8192 ≤ s.cyc.toNat → (clusOf s c).restoring = false →
    (clusOf s c).woken = true →
    PowerBecomes (.wakeComplete c) s c { clusOf s c with req := 0, ack := true, busySince := none, power := .run }) ∧
  (∀ c (k : Nat) (w0 : Word) s, k < 2 → w0.getLsbD 63 = true → (clusOf s c).power = .retained ∨ (clusOf s c).power = .off →
    (clusOf s c).wmask.getLsbD 2 = true →
    ∃ t, exec (.bindStage c k w0) s = .next t ∧ (clusOf t c).power = .waking ∧ (clusOf t c).busySince = some s.cyc.toNat ∧
      (slotAt t c k).st = (slotAt s c k).st) ∧
  (∀ f s, Starts s cwakeSpec f →
    let v := (headQueue s .cp).set.stack.getD 0 0
    let c : ClusId := ⟨bitsAt v 20 2, bitsAt v 24 5⟩
    v.getLsbD 63 = true → 0 < cwMask v → (clusOf s c).power = .retained ∨ (clusOf s c).power = .off → (clusOf s c).wmask.getLsbD 1 = true →
    ∃ t, exec (.cwake f) s = .next t ∧ (clusOf t c).power = .waking ∧ (clusOf t c).busySince = some s.cyc.toNat) ∧
  (∀ c (v : Word) s, v &&& 0x0000FF00FF00FF00 = 0 → bitsAt v 32 8 ≤ 116 → bitsAt v 48 16 ≠ 0 →
    ClusterBecomes (.clbktWrite c v) s c { clusOf s c with
      ramp := v.extractLsb' 48 16, tgt := v.extractLsb' 32 8, rampAt := s.cyc.toNat }) ∧
  (∀ (v : Word) s, ∃ t, exec (.pcapWrite v) s = .next t ∧ t.pkg.pcap = v.setWidth 16 ∧ t.cores = s.cores ∧ SameBytes s t ∧
    ∀ c, c.die < 4 → c.clus < 25 → (clusOf t c).tgt.toNat ≤ 116 ∧ (clusOf t c).power = (clusOf s c).power)

open Sys2Proof Sys2Proof.Machine Sys2Proof.Claims in
/-- R25, R160, R369, R400, R401, R402, R5: registers: an interrupt doorbell raises the interrupt of the context it names; a TLB command
clears DONE until its end, when the entries that match it are gone from the TLBs; the Crier's bases; a partition entry that does not clash is
taken, and so is a safe-tier entry that is large enough, ends within the host window and overlaps no other, any other being refused; one with
V = 0 declares no tier and is taken unchecked (DEDUCED, log 97). -/
def Obligations.RegisterEvents : Prop :=
  (∀ c (v : Word) s x kind, (clusOf s c).team = some x → v.toNat < 2 ^ 12 → bitsAt v 8 2 < x.size → bitsAt v 10 2 = ctxCode kind →
    ∃ t, exec (.clintWrite c v) s = .next t ∧ SameBytes s t ∧
      (let k := ctxOf t ⟨coreAt c (bitsAt v 8 2), kind⟩
       k.latch = true ∧ k.intp.getLsbD 0 = true ∧ bitsAt k.intp 8 8 = bitsAt v 0 8)) ∧
  (∀ die asid s,
    let Goes (kind : BitVec 2) (a : BitVec 16) : State := setDie s die { dieOf s die with
      tlbKind := kind, tlbAsid := a, tlbDone := false, tlbCmd := some (kind, a, (dieOf s die).tlbiva) }
    ((dieOf s die).tlbDone = true →
      exec (.tlbiPage die asid) s = .next (Goes 0 asid) ∧ exec (.tlbiAsid die asid) s = .next (Goes 1 asid) ∧
      exec (.tlbiAll die) s = .next (Goes 2 0)) ∧
    (∀ cmd, (dieOf s die).tlbCmd = some cmd → ∃ t, exec (.tlbiDone die) s = .next t ∧ SameBytes s t ∧
      (dieOf t die).tlbDone = true ∧ (dieOf t die).tlbCmd = none ∧
      ∀ c, coreOk c = true → (coreOf t c).tlb = (coreOf s c).tlb.filter fun e => !tlbiHits cmd e.asid e.leaf.va e.leaf.size)) ∧
  (∀ (v : Word) s, ringBaseOk v = true →
    exec (.registerWrite 0 0x0900 v) s = .next { s with pkg := { s.pkg with subbase := v } } ∧
    ∀ die, exec (.registerWrite die 0x2C80 v) s = .next (setDie s die { dieOf s die with derbase := v })) ∧
  (∀ part w0 w1 w2 w3 s, partBound s part = false →
    let p : Partition := { v := w0.getLsbD 63, vclo := w0.setWidth 32, vchi := w1, peers := w2.extractLsb' 48 16,
                           hlim := w2.extractLsb' 32 9, hbase := w2.setWidth 9, floor := w3.setWidth 16 }
    (∀ q, q < 8 → q ≠ part → partClash p (mget {} s.pkg.parts q) = false) → p.hlim.toNat ≤ 384 → p.hbase.toNat < p.hlim.toNat →
    ∃ t, exec (.partitionTableWrite part w0 w1 w2 w3) s = .next t ∧ mget {} t.pkg.parts part = p ∧
      (∀ q, q ≠ part → mget ({} : Partition) t.pkg.parts q = mget {} s.pkg.parts q) ∧ t.cores = s.cores ∧
      (∀ c, { clusOf t c with tgt := 0, rampAt := 0 } = { clusOf s c with tgt := 0, rampAt := 0 }) ∧ SameBytes s t) ∧
  (∀ part w0 w1 w2 s, partBound s part = false → w0.getLsbD 63 = false →
    ∃ t, exec (.safeTierWrite part w0 w1 w2) s = .next t ∧
      mget {} t.pkg.tiers part = { mget ({} : Tier) s.pkg.tiers part with
        v := false, base := w0.extractLsb' 12 28, size := w1.extractLsb' 12 28, rate := w2.setWidth 16 } ∧
      (∀ q, q ≠ part → mget ({} : Tier) t.pkg.tiers q = mget {} s.pkg.tiers q) ∧ t.cores = s.cores ∧ SameBytes s t) ∧
  (∀ part w0 w1 w2 s, partBound s part = false → w0.getLsbD 63 = true →
    let p := mget {} s.pkg.parts part
    let b := bitsAt w0 12 28
    let n := bitsAt w1 12 28
    let refused : Prop := n < (2 * (p.hlim.toNat - p.hbase.toNat) + 1) * 2 ^ 18 ∨ 2 ^ 28 < b + n ∨
      ∃ q, q < 8 ∧ q ≠ part ∧ (let u := mget ({} : Tier) s.pkg.tiers q
        u.v = true ∧ b < u.base.toNat + u.size.toNat ∧ u.base.toNat < b + n)
    (refused → exec (.safeTierWrite part w0 w1 w2) s = .next s) ∧
    (¬ refused → ∃ t, exec (.safeTierWrite part w0 w1 w2) s = .next t ∧
      mget {} t.pkg.tiers part = { mget ({} : Tier) s.pkg.tiers part with
        v := true, base := w0.extractLsb' 12 28, size := w1.extractLsb' 12 28, rate := w2.setWidth 16 } ∧
      (∀ q, q ≠ part → mget ({} : Tier) t.pkg.tiers q = mget {} s.pkg.tiers q) ∧ t.cores = s.cores ∧ SameBytes s t))

open Sys2Proof Sys2Proof.Machine Sys2Proof.Claims in
/-- R395-R400, R405, R407, R410: the host link and the peers: a doorbell, with no record or one, and the tail of a completion ring, each of
which takes the next sequence number of the host's writes (DEDUCED, log 150); requests and writes that arrive, in order; the completion of a
read, whose bytes are what is known from then on, the reader having been given open ones at the request, and a link retry, which changes
nothing (DEDUCED, log 101); interrupt messages; a durable acknowledgement; a reroute. -/
def Obligations.LinkEvents : Prop :=
  (∀ (tail : BitVec 16) s, linkUp s = true → tail.toNat < ringSize s.pkg.subbase → s.pkg.subHead = tail → s.pkg.link.heldIn = [] →
    exec (.submissionDoorbell tail) s = .next { s with pkg := { s.pkg with
      subTail := tail, link := { s.pkg.link with nextIn := s.pkg.link.nextIn + 1 } } }) ∧
  (∀ (tail : BitVec 16) s, linkUp s = true → tail.toNat < ringSize s.pkg.subbase →
    tail.toNat = (s.pkg.subHead.toNat + 1) % ringSize s.pkg.subbase → s.pkg.link.heldIn = [] →
    let a := ringBase s.pkg.subbase + 64 * s.pkg.subHead.toNat
    let r := readSub s a
    let Answers (stat : Byte) (jobs : List Job) : Prop := ∃ t, exec (.submissionDoorbell tail) s = .next t ∧ t.pkg.subHead = tail ∧
      physBytes t (a + 63) 1 = [stat] ∧ t.pkg.jobs = jobs ∧ t.cores = s.cores
    (subBad s r = true → Answers 1 s.pkg.jobs) ∧
    (subBad s r = false → (jobOf s (BitVec.ofNat 32 r.job)).isSome = true → Answers 3 s.pkg.jobs) ∧
    (subBad s r = false → jobOf s (BitVec.ofNat 32 r.job) = none → Answers 2 s.pkg.jobs ∨ Answers 0 (s.pkg.jobs ++
      [{ id := BitVec.ofNat 32 r.job, part := r.part, super := natBit r.flags 0, jcb := r.jcb,
         plist := BitVec.ofNat 64 r.plist, dl := BitVec.ofNat 64 r.dl }]))) ∧
  (∀ (jcb : Nat) (tail : Byte) s, linkUp s = true → jcb + 256 ≤ 0x6000000000 → (∀ e ∈ s.pkg.link.pendingRecords, e.1 ≠ jcb) →
    s.pkg.link.heldIn = [] →
    ∃ t, exec (.completionRingTail jcb tail) s = .next t ∧ physBytes t (jcb + 0x39) 1 = [tail] ∧
      (∀ a, a ≠ jcb + 0x39 → physBytes t a 1 = physBytes s a 1) ∧ t.cores = s.cores ∧
      t.pkg.link.nextIn = s.pkg.link.nextIn + 1) ∧
  (∀ port tag (addr : BitVec 52) (n : BitVec 9) s, linkUp s = true → addr.toNat + n.toNat ≤ 0x6000000000 →
    ∃ t, exec (.readRequest port tag addr n) s = .next t ∧ SameBytes s t ∧ t.cores = s.cores ∧
      t.pkg.link.egress = s.pkg.link.egress ++ [.readDone port tag (if physMark s addr.toNat n.toNat then 2 else 0)
        (physMark s addr.toNat n.toNat) (physBytes s addr.toNat n.toNat)]) ∧
  (∀ port tag stat psn data s, (∀ a, (port, tag, a) ∉ s.pkg.link.reads) →
    exec (.readCompletion port tag stat psn data) s = .next s) ∧
  (∀ port tag stat psn data a rest s, s.pkg.link.reads = (port, tag, a) :: rest → s.pkg.link.readsHeld = [] →
    ∃ t, exec (.readCompletion port tag stat psn data) s = .next t ∧ t.pkg.link.reads = rest ∧ SameBytes s t ∧ t.cores = s.cores ∧
      t.pkg.link.egress = s.pkg.link.egress ∧
      ∀ k b, stat ≠ 1 → data[k]? = some b → mget none t.pkg.far (portPa port a + k) = some b) ∧
  (∀ port s, exec (.linkRetry port) s = .next s) ∧
  (∀ (seq : BitVec 16) (addr : BitVec 52) psn data s, linkUp s = true → seq = s.pkg.link.nextIn → s.pkg.link.heldIn = [] →
    addr.toNat + data.length ≤ 0x6000000000 → NoTail s addr.toNat data.length →
    ∃ t, exec (.postedWrite seq addr psn data) s = .next t ∧ physBytes t addr.toNat data.length = data ∧
      (∀ a, (a < addr.toNat ∨ addr.toNat + data.length ≤ a) → physBytes t a 1 = physBytes s a 1) ∧
      t.pkg.link.nextIn = seq + 1 ∧ t.cores = s.cores) ∧
  (∀ (seq : BitVec 16) tag (addr : BitVec 52) psn data s, linkUp s = true → seq = s.pkg.link.nextIn → s.pkg.link.heldIn = [] →
    addr.toNat + data.length ≤ 0x6000000000 → NoTail s addr.toNat data.length →
    ∃ t st, exec (.durableWrite seq tag addr psn data) s = .next t ∧ physBytes t addr.toNat data.length = data ∧
      t.pkg.link.nextIn = seq + 1 ∧ t.pkg.link.egress.getLast? = some (.durableAck tag st)) ∧
  (∀ port (addr : BitVec 52) psn data s, port < 16 → linkUp s = true → addr.toNat + data.length ≤ 0x6000000000 →
    ∃ t, exec (.peerWriteArrival port addr psn data) s = .next t ∧ physBytes t addr.toNat data.length = data ∧
      (∀ a, (a < addr.toNat ∨ addr.toNat + data.length ≤ a) → physBytes t a 1 = physBytes s a 1) ∧ t.cores = s.cores) ∧
  (∀ m l s, s.pkg.link.intrs = m :: l → linkUp s = true →
    exec .interruptMessage s = .next { s with pkg := { s.pkg with link :=
      { s.pkg.link with intrs := l, egress := s.pkg.link.egress ++ [.interrupt m] } } }) ∧
  (∀ (tag : BitVec 12) s dest off psn bytes rest, (∀ p, p < 8 → (mget ({} : Tier) s.pkg.tiers p).stalled = []) →
    s.pkg.link.heldOut = (tag, .peer dest off psn bytes) :: rest → s.pkg.link.acked = [] →
    ∃ t, exec (.durableAcknowledgement 16 tag 0) s = .next t ∧ SameBytes s t ∧ t.cores = s.cores ∧
      t.pkg.link.heldOut = rest ∧
      t.pkg.link.egress = s.pkg.link.egress ++ [.peerWrite dest off psn bytes]) ∧
  (∀ (a b : Nat) s, a ≠ b → 4 ≤ mget 0 (dieOf s (Nat.min a b)).lanesUsed (Nat.max a b) →
    ∃ t, exec (.dieLinkReroute a b) s = .next t ∧ SameBytes s t ∧ t.cores = s.cores ∧
      mget 0 (dieOf t b).reroute a = mget 0 (dieOf t a).reroute b ∧ mget 0 (dieOf t a).reroute b ≠ 0)

open Sys2Proof Sys2Proof.Machine Sys2Proof.Claims in
/-- R366, R410, R411, R427: power-on reset clears the machine (memory reads zero, no team, no program); the boot ROM starts a
verified image and records its digest, or the cause of its failure; firmware is measured; the standby takes over; a
report answers a nonce. The header is checked first and the parts of the report stand in one order (DEDUCED, log 102); the digest, the
signature and the test of the header are constants without a value (PRESUMED, log 4); a verified image stands at STAGE 1 until the Crier starts
(DEDUCED, log 171). -/
def Obligations.BootEvents : Prop :=
  (∀ s, ∃ t, exec .powerOnReset s = .next t ∧ t.mem = [] ∧ t.memPoison = [] ∧ t.cores = [] ∧ t.clusters = [] ∧ t.cyc = 0 ∧
    t.pkg.seq = 1 ∧ t.pkg.jobs = [] ∧ t.pkg.bootStage = 0) ∧
  (∀ image sig key s, s.pkg.bootStage = 0 → Config.headerOk image = true → Config.digestOk image (Config.shake256 image) = true →
    Config.shake256 key = Config.fusedKeyDigest → Config.falconVerify key (Config.shake256 image) sig = true →
    exec (.bootImageVerify image sig key) s = .next { s with pkg := { s.pkg with
      bootFail := 0, bootStage := 1, measurements := [Config.shake256 image] } }) ∧
  (∀ image sig key s, s.pkg.bootStage = 0 → Config.headerOk image = false →
    exec (.bootImageVerify image sig key) s = .next { s with pkg := { s.pkg with bootFail := 1 } }) ∧
  (∀ image sig key s, s.pkg.bootStage = 2 → s.pkg.measurements.length < 32 → Config.headerOk image = true →
    Config.digestOk image (Config.shake256 image) = true → Config.shake256 key = Config.fusedKeyDigest →
    Config.falconVerify key (Config.shake256 image) sig = true →
    exec (.firmwareMeasurement image sig key) s = .next { s with pkg := { s.pkg with
      measurements := s.pkg.measurements ++ [Config.shake256 image] } }) ∧
  (∀ s, s.pkg.bootStage = 2 → exec .crierTakeover s = .next { s with pkg := { s.pkg with crierDie := 2 } }) ∧
  (∀ nonce s, s.pkg.bootStage = 2 → nonce.length = 32 →
    ∃ t, exec (.attestationRequest nonce) s = .next t ∧ SameBytes s t ∧ t.cores = s.cores ∧
      t.pkg.link.egress = s.pkg.link.egress ++ [.report (reportBody s nonce ++
        Config.falconSign (aliasSeed s) (Config.shake256 (reportBody s nonce)))])

namespace Sys2Proof.Claims
open Sys2Proof Sys2Proof.Machine

/-! The step, the decoder, reset, and what every step keeps. -/

/-- The canonical form of every memory the machine holds: HBM and its poison marks, the images of recovery points
and the pages made durable. -/
def MemCanonical (s : State) : Prop :=
  mwf 0 s.mem = true ∧ mwf false s.memPoison = true ∧
  ∀ e ∈ s.pkg.stores, (∀ p, e.2.image = some p ∨ e.2.journal = some p → mwf 0 p.mem = true ∧ mwf false p.poison = true) ∧
    ∀ q ∈ e.2.persisted, mwf 0 q.2.mem = true ∧ mwf false q.2.poison = true

/-- The head of the agenda is taken, and comes in the order of its cycle (R135, R174, R214, R218). -/
def inTurn (s : State) (m : Move) (rest : List Move) : State := align { s with agenda := rest } m
/-- The state in which a context's instruction is fetched. -/
def issuing (s : State) (c : CtxId) (rest : List Move) : State := { inTurn s (.ctx c) rest with cur := c }
/-- The state in which an engine takes a word of its queue. -/
def taking (s : State) (c : CoreId) (e : Eng) (rest : List Move) : State :=
  { inTurn s (.eng c e) rest with cur := ⟨c, feederOf e⟩, curEng := e }

/-- The context c is next to issue: it is the head of the agenda, and when its turn has come it may act, has power, and no trap,
interrupt or wait comes first (R21, R326). -/
structure Issues (s : State) (c : CtxId) (rest : List Move) : Prop where
  agenda : s.agenda = .ctx c :: rest
  inPackage : ctxOk c = true
  acts : Acts (issuing s c rest) c
  powered : powered (issuing s c rest) c.core = true
  wait : (ctxOf (issuing s c rest) c).wait = none
  budget : (ctxOf (issuing s c rest) c).budgetDue = false
  engines : pendingEng (issuing s c rest) c = none
  interrupts : tsIe (ctxOf (issuing s c rest) c).tstat = true → (ctxOf (issuing s c rest) c).intp &&& 3 ≠ 0 →
    (ctxOf (issuing s c rest) c).intpAt ≠ (issuing s c rest).cyc.toNat + 1 → tsInh (ctxOf (issuing s c rest) c).tstat = true

/-- The engine e of core c is next to run the word at `pos` of its queue (R212, R335). -/
structure Runs (s : State) (c : CoreId) (e : Eng) (rest : List Move) : Prop where
  agenda : s.agenda = .eng c e :: rest
  inPackage : coreOk c = true
  works : engWorks (taking s c e rest) c e = true ∧ preempting (taking s c e rest) c = false
  queue : replaying (queueOf (taking s c e rest) c e) = false ∧ (queueOf (taking s c e rest) c e).entry = none
  launch : ∃ w ∈ (queueOf (taking s c e rest) c e).words, w.w.extractLsb' 14 2 = 1

end Sys2Proof.Claims

open Sys2Proof Sys2Proof.Machine Sys2Proof.Claims in
/-- R21, R55: A STEP RUNS THE DECODED INSTRUCTION of a context: where the four bytes at the PC, through its translation, decode to
i, the step is exec of i with that context moving, and then the cycles that pass; the bytes are those of memory where the core holds
no copy of them; an engine word that starts in the cycle of a TTSET on its tile comes before it (R174). R212: so for the next word of an engine's queue, an entry having passed its checks at its first word, where no launch of another engine comes first (R135, R174); and an event
of the agenda happens. -/
def Obligations.StepRunsDecoded : Prop :=
  (∀ s c rest x i, Issues s c rest →
    let v := issuing s c rest
    Machine.translate v c.core (isSuper (ctxOf v c)) .fetch (ctxOf v c).pc.toNat = .ok x →
    let r := fetchBytes (fillTlb v c.core x.leaf) c.core x.pa 4
    decode32 (BitVec.ofNat 32 (leNat r.1)) = .ok i →
    (∃ t, exec i (beforeTtset i r.2) = .next t ∧ step s = .next (passTime t)) ∧
    ((∀ d a b n g, i ≠ .ttset d a b n g) → beforeTtset i r.2 = r.2) ∧ (FromMemory v x.pa 4 → r.1 = physBytes v x.pa 4)) ∧
  (∀ s c e rest w i, Runs s c e rest →
    let v := taking s c e rest
    (queueOf v c e).words[(queueOf v c e).pos]? = some w → decode16 e w.w = .ok i →
    let u := if (queueOf v c e).pos = 0 then modQueue v c e beginEntry else v
    ((queueOf v c e).pos = 0 → refuseEntry u c e = none) → w.poisonAt = none →
    (w.w.extractLsb' 14 2 = 1 → engSemAhead u c e = false ∧ engTileAhead u c e = false) →
    ∃ t, exec i u = .next t ∧ step s = .next (passTime t)) ∧
  (∀ s i rest, s.agenda = .event i :: rest → encode i = .event → WellFormed i = true →
    ∃ t, exec i (inTurn s (.event i) rest) = .next t ∧ step s = .next (passTime t))

open Sys2Proof Sys2Proof.Machine Sys2Proof.Claims in
/-- R66, R329: a step at a word that is no instruction enters the handler with ILLOP and the word as TVAL; at an address
without a translation, with the cause of the translation and the address. -/
def Obligations.StepTraps : Prop :=
  ∀ s c rest, Issues s c rest →
    let v := issuing s c rest
    tsInh (ctxOf v c).tstat = false →
    (∀ x err, Machine.translate v c.core (isSuper (ctxOf v c)) .fetch (ctxOf v c).pc.toNat = .ok x →
      (let r := fetchBytes (fillTlb v c.core x.leaf) c.core x.pa 4
       let w : BitVec 32 := BitVec.ofNat 32 (leNat r.1)
       decode32 w = .error err →
       ∃ t, step s = .next (passTime t) ∧ EntersTrap id id r.2 t 0x01 (w.setWidth 64) ∧ SameBytes r.2 t)) ∧
    (∀ cause, Machine.translate v c.core (isSuper (ctxOf v c)) .fetch (ctxOf v c).pc.toNat = .error cause →
      ∃ t, step s = .next (passTime t) ∧ EntersTrap id id (faulted true v c.core cause (ctxOf v c).pc.toNat) t cause (ctxOf v c).pc ∧ SameBytes v t)

open Sys2Proof Sys2Proof.Machine Sys2Proof.Claims in
/-- R55-R65: DECODE AND ENCODE AGREE: the word of every well-formed instruction, every operand at every value, decodes to
that instruction. -/
def Obligations.DecodeEncode : Prop :=
  ∀ i, WellFormed i = true →
    (∀ w, encode i = .w32 w → decode32 w = .ok i) ∧
    ∀ w e, encode i = .w16 w → classOk e i = true → decode16 e w = .ok i

open Sys2Proof Sys2Proof.Machine Sys2Proof.Claims in
/-- The worked words of 03, 05, 06, 08, 11, 24: words of the spec decode to the instructions it gives for them. -/
def Obligations.WorkedWords : Prop :=
  decodeTableWord 32 0x04A63800 = some (.add 5 6 7 0) ∧
  decodeTableWord 32 0x41026013 = some (.ld 8 2 3 2 3) ∧
  decodeTableWord 32 0x2C445FD8 = some (.cmpi 2 4 2 0x3FB 0) ∧
  decodeTableWord 32 0x89100000 = some (.br 2 1 0 0) ∧
  decodeTableWord 32 0xA04A5818 = some (.enq 2 10 11 3 0) ∧
  decodeTableWord 32 0x1CA02B08 = some (.li 5 0x561 0) ∧
  decodeTableWord 32 0x20A00000 = some (.lih 5 0 0) ∧
  decodeTableWord 32 0xAC061800 = some (.kwait 6 3 0) ∧
  decodeTableWord 32 0xAD201818 = some (.kread 9 3 0) ∧
  decodeTableWord 32 0x68E6A000 = some (.waitv 7 6 0) ∧
  decodeTableWord 32 0xB8000120 = some (.pacq 36 0) ∧
  decodeTableWord 16 0x1860 = some (.waitk 3)

open Sys2Proof Sys2Proof.Machine Sys2Proof.Claims in
/-- R427, R26, R15, R380, R257, R350, R410 and the reset columns of 01, 11, 24, 25: the machine at reset. Every byte of memory reads as
zero, clean; CYC is 0 and SEQ 1; every context is in mode 1 with no status else, FCTL 0, WTHRESH 20,000 and no
program; no unit, team or job is there; the boot stage is 0. General registers read 0 (the model's choice, log 10). -/
def Obligations.ResetValues : Prop :=
  let s := State.reset
  (∀ a, physBytes s a 1 = [0] ∧ physMark s a 1 = false) ∧ s.cyc = 0 ∧ s.pkg.seq = 1 ∧
  (∀ c, (ctxOf s c).tstat = 2 ∧ tsPm (ctxOf s c).tstat = 1 ∧ (ctxOf s c).fctl = 0 ∧ (ctxOf s c).srseed = 0 ∧
    (ctxOf s c).wthresh = 20000 ∧ (ctxOf s c).run = .off ∧ (∀ n, readX (ctxOf s c) n = {}) ∧
    readP (ctxOf s c) 0 = true ∧ ∀ n, n ≠ 0 → readP (ctxOf s c) n = false) ∧
  (∀ c, (coreOf s c).unit = none ∧ (coreOf s c).plevel = 0 ∧ ∀ e, (queueOf s c e).words = [] ∧ (queueOf s c e).set.stack = []) ∧
  (∀ c, (clusOf s c).team = none ∧ (clusOf s c).power = .run ∧ (clusOf s c).array = {} ∧ (clusOf s c).ramp = 64 ∧
    (clusOf s c).wmask = 7 ∧ (clusOf s c).level = 4096) ∧
  (∀ d, (dieOf s d).errSeq = 0 ∧ (dieOf s d).tlbDone = true) ∧
  s.pkg.jobs = [] ∧ s.pkg.bootStage = 0 ∧ s.pkg.pcap = 1800

open Sys2Proof Sys2Proof.Machine Sys2Proof.Claims in
/-- The memories of the reset state are in canonical form. -/
def Obligations.MemoryCanonicalAtReset : Prop := MemCanonical State.reset

open Sys2Proof Sys2Proof.Machine Sys2Proof.Claims in
/-- AN INVARIANT THAT EVERY STEP KEEPS: the memory, its marks and the images of recovery points stay in canonical form
(keys rising, no entry that equals what an unlisted address reads as), so that equal memories are equal data. -/
def Obligations.MemoryCanonicalKept : Prop :=
  ∀ s t, MemCanonical s → step s = .next t → MemCanonical t

open Sys2Proof Sys2Proof.Machine Sys2Proof.Claims in
/-- R99: PSET sets P[D] to whether X[A] is not 0, and nothing else changes; a poisoned X[A] raises POISON. -/
def Obligations.PsetRule : Prop :=
  ∀ (d : BitVec 3) (a : BitVec 5) g s, Guard s g →
    (Clean s a → ∃ t, exec (.pset d a g) s = .next t ∧ GoesOn s t (nextPc s) ∧
      WritesP s t (nextPc s) d (decide (xv s a ≠ 0)) ∧ KeepsX s t ∧ KeptAll s t) ∧
    (¬ Clean s a → NotInTrap s → ∃ t, exec (.pset d a g) s = .next t ∧
      EntersTrap (fun _ => {}) id s t 0x06 (a.setWidth 64))

open Sys2Proof Sys2Proof.Machine Sys2Proof.Claims in
/-- R100: SEL takes X[A] where P[N] is 1 and X[B] where it is 0, with the poison of the chosen source only. -/
def Obligations.SelRule : Prop :=
  ∀ (d a b : BitVec 5) (n : BitVec 3) g s, Guard s g →
    ∃ t, exec (.sel d a b n g) s = .next t ∧ GoesOn s t (nextPc s) ∧ KeepsP s t (nextPc s) ∧ KeptAll s t ∧
      (d ≠ 0 → xv t d = (if readP (curCtx s) n then xv s a else xv s b) ∧
        (xr t d).poison = (if readP (curCtx s) n then (xr s a).poison else (xr s b).poison)) ∧
      ∀ k, k ≠ d ∨ k = 0 → xr t k = xr s k
end

