-- ==== Sys2Proof/Laws/Memory.lean ====
section
/-!
SUPPORT. The laws of physical memory: a write keeps the canonical form, gives its bytes back, and leaves every other
byte alone.
-/
namespace Sys2Proof.Machine

theorem mwf_putBytes {m : SMap Byte} (a : Nat) (bs : List Byte) (h : mwf 0 m = true) : mwf 0 (putBytes m a bs) = true := by
  induction bs generalizing m a with
  | nil => exact h
  | cons b t ih => exact ih (a + 1) (mwf_mset 0 a b h)

/-- A byte outside the written range keeps its value. -/
theorem mget_putBytes_outside {m : SMap Byte} (a : Nat) (bs : List Byte) (k : Nat) (h : k < a ∨ a + bs.length ≤ k) :
    mget 0 (putBytes m a bs) k = mget 0 m k := by
  induction bs generalizing m a with
  | nil => rfl
  | cons b t ih =>
    simp only [List.length_cons] at h
    rw [putBytes, ih (a + 1) (by omega), mget_mset_other 0 m b (by omega)]

/-- A byte of the written range has the value written. -/
theorem mget_putBytes_inside {m : SMap Byte} (a : Nat) (bs : List Byte) (k : Nat) (h : k < bs.length) :
    mget 0 (putBytes m a bs) (a + k) = bs[k] := by
  induction bs generalizing m a k with
  | nil => simp at h
  | cons b t ih =>
    cases k with
    | zero => rw [putBytes, mget_putBytes_outside (a + 1) t _ (by omega)]; simp
    | succ j =>
      have := ih (m := mset 0 m a b) (a + 1) j (by simpa using h)
      rw [show a + (j + 1) = a + 1 + j by omega]; exact this

theorem mwf_foldl {α β : Type} [DecidableEq α] (d : α) (l : List β) (f : SMap α → β → SMap α)
    (hf : ∀ m x, mwf d m = true → mwf d (f m x) = true) {m : SMap α} (h : mwf d m = true) : mwf d (l.foldl f m) = true := by
  induction l generalizing m with
  | nil => exact h
  | cons x t ih => exact ih (hf _ _ h)

theorem mwf_putMarks {m : SMap Bool} (a n : Nat) (p : Bool) (h : mwf false m = true) : mwf false (putMarks m a n p) = true := by
  unfold putMarks
  refine mwf_foldl false _ _ ?_ h
  intro m x hm
  dsimp only
  split
  · exact mwf_mset _ _ _ hm
  · split
    · exact mwf_mset _ _ _ hm
    · exact hm

theorem mwf_markDirty {m : SMap Bool} (a n : Nat) (h : mwf false m = true) : mwf false (markDirty m a n) = true := by
  unfold markDirty
  split
  · exact h
  · exact mwf_foldl false _ _ (fun _ _ hm => mwf_mset _ _ _ hm) h

/-- The canonical form of the memory and of its marks. -/
def MemWf (s : State) : Prop := Memory.wf s.mem = true ∧ mwf false s.memPoison = true

theorem memWf_physWrite (s : State) (a : Nat) (bs : List Byte) (p : Bool) (h : MemWf s) : MemWf (physWrite s a bs p) :=
  ⟨mwf_putBytes a bs h.1, mwf_putMarks a bs.length p h.2⟩

theorem memWf_physPut (s : State) (a n v : Nat) (h : MemWf s) : MemWf (physPut s a n v) := memWf_physWrite s a _ false h

/-- R176: a physical write leaves every byte outside its range alone. -/
theorem physWrite_outside (s : State) (a : Nat) (bs : List Byte) (p : Bool) (k : Nat) (h : k < a ∨ a + bs.length ≤ k) :
    mget 0 (physWrite s a bs p).mem k = mget 0 s.mem k := mget_putBytes_outside a bs k h

/-- A physical write gives its bytes back. -/
theorem physWrite_inside (s : State) (a : Nat) (bs : List Byte) (p : Bool) (k : Nat) (h : k < bs.length) :
    mget 0 (physWrite s a bs p).mem (a + k) = bs[k] := mget_putBytes_inside a bs k h

theorem leBytes_length (n v : Nat) : (leBytes n v).length = n := by
  induction n generalizing v with
  | zero => rfl
  | succ n ih => simp [leBytes, ih]

theorem leNat_leBytes (n v : Nat) : leNat (leBytes n v) = v % 2 ^ (8 * n) := by
  induction n generalizing v with
  | zero => simp [leBytes, leNat, Nat.mod_one]
  | succ n ih =>
    simp only [leBytes, leNat, ih, BitVec.toNat_ofNat]
    have h : 2 ^ (8 * (n + 1)) = 2 ^ 8 * 2 ^ (8 * n) := by rw [← Nat.pow_add]; congr 1; omega
    rw [h]
    simp only [Nat.reducePow]
    rw [Nat.mod_mul]

theorem getBytes_putBytes (m : SMap Byte) (a : Nat) (bs : List Byte) : getBytes (putBytes m a bs) a bs.length = bs := by
  have key : ∀ (l : List Byte) (m : SMap Byte) (a : Nat), (∀ k (h : k < l.length), mget 0 m (a + k) = l[k]) → getBytes m a l.length = l := by
    intro l
    induction l with
    | nil => intros; rfl
    | cons b t ih =>
      intro m a h
      have h0 := h 0 (by simp)
      simp only [Nat.add_zero, List.getElem_cons_zero] at h0
      have := ih m (a + 1) (fun k hk => by
        have := h (k + 1) (by simpa using hk)
        simp only [List.getElem_cons_succ] at this
        rw [show a + 1 + k = a + (k + 1) by omega]; exact this)
      simp only [List.length_cons, getBytes, h0, this]
  exact key bs _ a fun k h => mget_putBytes_inside a bs k h

/-- Read after write of a number. -/
theorem physNat_physPut (s : State) (a n v : Nat) : physNat (physPut s a n v) a n = v % 2 ^ (8 * n) := by
  have h := getBytes_putBytes s.mem a (leBytes n v)
  rw [leBytes_length] at h
  simp only [physNat, physBytes, physPut, physWrite, h, leNat_leBytes]

theorem memWf_reset : MemWf State.reset := ⟨rfl, rfl⟩

end Sys2Proof.Machine
end

