-- ==== Sys2Proof/Laws/Scalar.lean ====
section
/-!
SUPPORT. What counting an event, completing an instruction and the scalar frame do: one lemma for each, so that
nothing about a scalar instruction needs them unfolded.
-/
namespace Sys2Proof.Machine

/-- A core after event counting: only its counters and what a wrap sets differ (R422). -/
def CountedFrom (a b : Core) : Prop :=
  ∃ (e1 e2 : SMap Word) (n : Nat) (i : Word) (k : Nat) (l : Bool),
    b = { a with ecnt := e1, esel := e2, bundleAt := n, ctxX := { a.ctxX with intp := i, intpAt := k, latch := l } }

theorem CountedFrom_refl (a : Core) : CountedFrom a a :=
  ⟨a.ecnt, a.esel, a.bundleAt, a.ctxX.intp, a.ctxX.intpAt, a.ctxX.latch, rfl⟩

theorem CountedFrom_trans {a b c : Core} (h : CountedFrom a b) (k : CountedFrom b c) : CountedFrom a c := by
  obtain ⟨_, _, _, _, _, _, rfl⟩ := h
  obtain ⟨e1, e2, n, i, j, l, rfl⟩ := k
  exact ⟨e1, e2, n, i, j, l, rfl⟩

theorem setCntov_from (cyc : Nat) (c : Core) : CountedFrom c (setCntov cyc c) := ⟨_, _, _, _, _, _, rfl⟩

theorem countIn_from (sels : SMap Word) (src n : Nat) (su : Bool) (c : Core) : CountedFrom c (countIn sels src n su c).1 := by
  unfold countIn
  have go : ∀ (ks : List Nat) (a : Core × Bool), CountedFrom c a.1 → CountedFrom c (ks.foldl (fun a k =>
      if selCounts (mget 0 sels k) src su then
        let r := cntAdd (mget 0 a.1.ecnt k) n
        let c1 := { a.1 with ecnt := mset 0 a.1.ecnt k r.1 }
        if r.2 then (coreWrap c1 k, a.2 || (mget 0 sels k).getLsbD 11) else (c1, a.2)
      else a) a).1 := by
    intro ks
    induction ks with
    | nil => intro a h; exact h
    | cons k t ih =>
      intro a h
      rw [List.foldl_cons]
      refine ih _ (CountedFrom_trans h ?_)
      dsimp only
      split
      · split
        · exact ⟨_, _, _, _, _, _, rfl⟩
        · exact ⟨_, _, _, _, _, _, rfl⟩
      · exact CountedFrom_refl _
  exact go _ _ (CountedFrom_refl c)

/-- The machine without its cores and saved images. -/
def uncounted (s : State) : State := { s with cores := [], pkg := { s.pkg with saved := [] } }

/-- Counting at a core: every field but the cores and the saved images stands, and these where the core has a unit (R24); every
other core stands. -/
structure CountsOnly (core : CoreId) (s t : State) : Prop where
  rest : uncounted t = uncounted s
  saved : (coreOf s core).unit.isSome = true → t.pkg.saved = s.pkg.saved
  others : ∀ id, coreKey id ≠ coreKey core → coreOf t id = coreOf s id
  here : CountedFrom (coreOf s core) (coreOf t core)

theorem CountsOnly_refl (core : CoreId) (s : State) : CountsOnly core s s :=
  ⟨rfl, fun _ => rfl, fun _ _ => rfl, CountedFrom_refl _⟩

theorem CountedFrom_unit {a b : Core} (h : CountedFrom a b) : b.unit = a.unit := by
  obtain ⟨_, _, _, _, _, _, rfl⟩ := h
  rfl

theorem CountsOnly_trans {core : CoreId} {s t u : State} (h : CountsOnly core s t) (k : CountsOnly core t u) :
    CountsOnly core s u :=
  ⟨k.rest.trans h.rest, fun hu => (k.saved (by rw [CountedFrom_unit h.here]; exact hu)).trans (h.saved hu), fun id hd => (k.others id hd).trans (h.others id hd), CountedFrom_trans h.here k.here⟩

theorem coreOf_modPkg (s : State) (f : Package → Package) (id : CoreId) : coreOf (modPkg s f) id = coreOf s id := rfl

/-- A change of a core that counts only. -/
theorem modCore_only (s : State) (core : CoreId) (f : Core → Core) (h : CountedFrom (coreOf s core) (f (coreOf s core))) :
    CountsOnly core s (modCore s core f) :=
  ⟨rfl, fun _ => rfl, fun id hd => coreOf_modCore_other s _ hd, by rw [coreOf_modCore]; exact h⟩

/-- R24: CNTOV reaches the core's execute context, or the image of the team that is away. -/
theorem raiseCntov_only (s : State) (core : CoreId) : CountsOnly core s (raiseCntov s core) := by
  unfold raiseCntov
  split
  · exact modCore_only s core _ (setCntov_from _ _)
  · rename_i e h
    have hu : (coreOf s core).unit.isSome = false := by
      cases hx : (coreOf s core).unit.isSome
      · rfl
      · rw [hx] at h; simp at h
    refine ⟨rfl, fun hh => absurd hh (by rw [hu]; decide), fun _ _ => rfl, CountedFrom_refl _⟩

theorem countBy_only (sels : SMap Word) (s : State) (core : CoreId) (src n : Nat) (su : Bool) :
    CountsOnly core s (countBy sels s core src n su) := by
  unfold countBy
  split
  · exact CountsOnly_refl core s
  · have h := modCore_only s core (fun _ => (countIn sels src n su (coreOf s core)).1) (countIn_from _ _ _ _ _)
    dsimp only
    split
    · exact CountsOnly_trans h (raiseCntov_only _ _)
    · exact h

theorem count_only (s : State) (core : CoreId) (src n : Nat) (su : Bool) : CountsOnly core s (count s core src n su) :=
  countBy_only _ s core src n su

theorem CountsOnly_cur {core : CoreId} {s t : State} (h : CountsOnly core s t) : t.cur = s.cur := by
  have := congrArg State.cur h.rest
  exact this

/-- What a state holds beside its cores and saved images. -/
theorem CountsOnly_eq {core : CoreId} {s t : State} (h : CountsOnly core s t) :
    t = { s with cores := t.cores, pkg := { s.pkg with saved := t.pkg.saved } } := by
  have := congrArg (fun x : State => { x with cores := t.cores, pkg := { x.pkg with saved := t.pkg.saved } }) h.rest
  exact this

/-- R422, R120: the count of an issue, on the machine that the instruction leaves. -/
theorem countIssueBy_only (s w : State) : CountsOnly s.cur.core w (countIssueBy s w) := by
  unfold countIssueBy
  dsimp only
  split
  · exact CountsOnly_refl _ w
  · split
    · exact countBy_only _ w _ _ _ _
    · exact CountsOnly_trans (CountsOnly_trans (modCore_only w _ _ ⟨_, _, _, _, _, _, rfl⟩) (countBy_only _ _ _ _ _ _))
        (countBy_only _ _ _ _ _ _)

theorem countIssue_only (s : State) : CountsOnly s.cur.core s (countIssue s) := countIssueBy_only s s

/-- R422: an execute context after counting differs in its interrupt bits and its event latch; any other stands. -/
theorem ctxIn_counted {a b : Core} (h : CountedFrom a b) (k : CtxKind) :
    ∃ i j l, ctxIn k b = { ctxIn k a with intp := i, intpAt := j, latch := l } := by
  obtain ⟨e1, e2, n, i, j, l, rfl⟩ := h
  cases k
  · exact ⟨a.ctxL.intp, a.ctxL.intpAt, a.ctxL.latch, rfl⟩
  · exact ⟨i, j, l, rfl⟩
  · exact ⟨a.ctxS.intp, a.ctxS.intpAt, a.ctxS.latch, rfl⟩

theorem curCtx_countIssue (s : State) :
    ∃ i j l, curCtx (countIssue s) = { curCtx s with intp := i, intpAt := j, latch := l } := by
  have h := countIssue_only s
  unfold curCtx ctxOf
  rw [CountsOnly_cur h]
  exact ctxIn_counted h.here s.cur.kind

/-- R21, R22, R66, R67: a scalar instruction that passes its checks and is not nullified does its effect. -/
theorem scalar_runs (i : Instr) (g : BitVec 3) (legal priv : Bool) (body : State → Ctx → Res) (s : State)
    (hl : legal = true) (hg : readP (curCtx s) g = true) (hp : priv = true → isSuper (curCtx s) = true) :
    scalar i g legal priv body s = finish originPa (countIssue s) (body (countIssue s) (curCtx (countIssue s))) := by
  obtain ⟨x, j, l, h⟩ := curCtx_countIssue s
  have hg' : readP (curCtx (countIssue s)) g = true := by rw [h]; exact hg
  have hp' : (priv && !isSuper (curCtx (countIssue s))) = false := by
    rw [h]
    cases priv
    · rfl
    · have := hp rfl
      unfold isSuper at this ⊢
      simp only [this, Bool.not_true, Bool.and_false]
  unfold scalar scalarWith
  dsimp only
  rw [hl, hg', hp']
  rfl

/-- R22: a nullified instruction only advances PC. -/
theorem scalar_nullified (i : Instr) (g : BitVec 3) (legal priv : Bool) (body : State → Ctx → Res) (s : State)
    (hl : legal = true) (hg : readP (curCtx s) g = false) :
    scalar i g legal priv body s = complete (countIssue s) ((curCtx s).pc + 4) := by
  obtain ⟨x, j, l, h⟩ := curCtx_countIssue s
  have hg' : readP (curCtx (countIssue s)) g = false := by rw [h]; exact hg
  unfold scalar scalarWith
  dsimp only
  rw [hl, hg', h]
  rfl

/-- R107: no armed loop ends at an address. -/
theorem loopAt_none {c : Ctx} {npc : Word} (h : ∀ k, k < 4 → ¬ ((readLc c k).active = true ∧ (readLc c k).stop = npc)) :
    loopAt c npc = none := by
  have e : ((List.range 4).filter fun n => (readLc c n).active && (readLc c n).stop = npc) = [] := by
    rw [List.filter_eq_nil_iff]
    intro k hk
    have := h k (List.mem_range.1 hk)
    simpa using this
  unfold loopAt
  rw [e]
  rfl

theorem endTest_none {c : Ctx} {npc : Word} (pend : Bool) (h : loopAt c npc = none) (n : Nat) :
    endTest pend n npc c = (c, npc, false) := by
  cases n
  · rfl
  · unfold endTest
    rw [h]

/-- The fields that the end of a loop may change. -/
def loopSide (c : Ctx) : Ctx := { c with p := 0, pdep := 0, lc := [] }

theorem loopSide_writeLc (c : Ctx) (n : Nat) (l : LoopCtr) : loopSide (writeLc c n l) = loopSide c := rfl

theorem loopSide_writeP (c : Ctx) (n : BitVec 3) (v d : Bool) : loopSide (writeP c n v d) = loopSide c := by
  unfold writeP; split <;> rfl

theorem loopSide_stagePreds (l : LoopCtr) (c : Ctx) : loopSide (stagePreds l c) = loopSide c := by
  unfold stagePreds
  generalize List.range (l.stg.toNat + 1) = ks
  induction ks generalizing c with
  | nil => rfl
  | cons k t ih => rw [List.foldl_cons, ih, loopSide_writeP]

/-- R107: the loop end test changes predicates and loop counters only. -/
theorem loopSide_endTest (pend : Bool) (n : Nat) (npc : Word) (c : Ctx) :
    loopSide (endTest pend n npc c).1 = loopSide c := by
  induction n generalizing c with
  | zero => rfl
  | succ n ih =>
    unfold endTest
    cases loopAt c npc with
    | none => rfl
    | some k =>
      dsimp only
      split
      · split <;> simp only [loopSide_stagePreds, loopSide_writeLc]
      · split
        · simp only [loopSide_stagePreds, loopSide_writeLc]
        · split
          · rw [ih, loopSide_writeLc]
          · split <;> simp only [loopSide_stagePreds, loopSide_writeLc]

/-- The part of a context that completing an instruction leaves alone. -/
def doneSide (c : Ctx) : Ctx :=
  { c with p := 0, pdep := 0, lc := [], pc := 0, wait := none, run := .off, enqsCount := 0, enqsAddr := none, held := false }

/-- What `complete` does to a state: all of it. -/
structure Completed (u t : State) (npc : Word) : Prop where
  rest : { t with cores := [] } = { u with cores := [] }
  cur : t.cur = u.cur
  others : ∀ id, coreKey id ≠ coreKey u.cur.core → coreOf t id = coreOf u id
  here : coreOf t u.cur.core = setCtxIn u.cur.kind (coreOf u u.cur.core) (curCtx t)
  wait : (curCtx t).wait = none
  side : doneSide (curCtx t) = doneSide (curCtx u)
  plain : (∀ k, k < 4 → ¬ ((readLc (curCtx u) k).active = true ∧ (readLc (curCtx u) k).stop = npc)) →
    (curCtx t).pc = maskPc npc ∧ (curCtx t).run = (if maskPc npc = 0 then .ended else (curCtx u).run) ∧
    (curCtx t).lc = (curCtx u).lc ∧ (curCtx t).p = (curCtx u).p ∧ (curCtx t).pdep = (curCtx u).pdep

theorem complete_completed (u : State) (npc : Word) : Completed u (complete u npc) npc := by
  let pend := preempting u u.cur.core
  let r := endTest pend 5 npc (curCtx u)
  have hcur : (complete u npc).cur = u.cur := rfl
  have hctx : curCtx (complete u npc) = { r.1 with
      pc := maskPc r.2.1, wait := none, run := if maskPc r.2.1 = 0 then .ended else r.1.run
      enqsCount := if tsInh r.1.tstat then r.1.enqsCount else 0
      enqsAddr := if tsInh r.1.tstat then r.1.enqsAddr else none
      held := r.1.held || (pend && (r.2.2 || !anyLoop r.1 || tsInh r.1.tstat)) } := by
    unfold complete
    simp only [curCtx_modCtx]
    rfl
  refine ⟨rfl, hcur, fun id h => coreOf_setCore_other u _ h, ?_, by rw [hctx], ?_, ?_⟩
  · rw [hctx]
    unfold complete modCtx setCtx
    rw [coreOf_setCore]
    rfl
  · have h := loopSide_endTest pend 5 npc (curCtx u)
    have : doneSide (loopSide r.1) = doneSide (loopSide (curCtx u)) := congrArg doneSide h
    rw [hctx]
    exact this
  · intro h
    have e : r = (curCtx u, npc, false) := endTest_none pend (loopAt_none h) 5
    rw [hctx, e]
    exact ⟨rfl, rfl, rfl, rfl, rfl⟩

end Sys2Proof.Machine
end

