-- ==== Sys2Proof/Laws/Walk.lean ====
section
/-!
SUPPORT. What a walk depends on: the entries it passes, where nothing is cached (R154-R158).
-/
namespace Sys2Proof.Machine

/-- The addresses of the two words of each entry that a walk passes. -/
def visited (s : State) (va : Nat) : Nat → Nat → Nat → List Nat
  | 0, _, _ => []
  | fuel + 1, lvl, table =>
    let e := table + 16 * lvlIndex lvl va
    e :: (e + 8) :: (match readEntry s lvl va table with
      | .next t => visited s va fuel (lvl + 1) t
      | _ => [])

/-- A walk that no cached pointer serves finds the same leaf in a state whose visited words are the same. -/
theorem walkFrom_congr {s u : State} (asid : BitVec 16) (va : Nat) : ∀ fuel lvl table,
    (∀ e ∈ visited s va fuel lvl table, physNat u e 8 = physNat s e 8) →
    walkFrom u [] asid va fuel lvl table = walkFrom s [] asid va fuel lvl table
  | 0, _, _, _ => rfl
  | fuel + 1, lvl, table, h => by
    have h0 : readEntry u lvl va table = readEntry s lvl va table := by
      have h1 := h (table + 16 * lvlIndex lvl va) (by simp [visited])
      have h2 := h (table + 16 * lvlIndex lvl va + 8) (by simp [visited])
      simp only [readEntry, h1, h2]
    simp only [walkFrom, ptrAt, List.find?_nil, h0]
    cases hr : readEntry s lvl va table with
    | page => rfl
    | leaf l => rfl
    | next t =>
      have := walkFrom_congr asid va fuel (lvl + 1) t fun e he => h e (by simp [visited, hr, he])
      simp only [this]

end Sys2Proof.Machine
end

