-- ==== Sys2Proof/Tests/Slice0.lean ====
section
/-!
SUPPORT. Tests: ill-formed terms are refused; words of the spec decode; one step on small states; and for every
statement with hypotheses a state and operands that meet them.
-/
namespace Sys2Proof.Tests
open Sys2Proof Sys2Proof.Machine Sys2Proof.Claims
set_option maxRecDepth 20000

/-! Well-formedness: one ill-formed term for each check. -/

def c0 : CtxId := ⟨⟨0, 0, 0⟩, .exec⟩
def cl0 : ClusId := ⟨0, 0⟩
def k0 : CoreId := ⟨0, 0, 0⟩
theorem test_wf_refuses_cc : WellFormed (.cmp 1 2 3 6 0) = false ∧ WellFormed (.cmpi 1 2 7 0 0) = false := by decide
theorem test_wf_refuses_prefetch_level : WellFormed (.pref 2 1 0 0) = false := by decide
theorem test_wf_refuses_scope : WellFormed (.fenceAcq 11 0) = false ∧ WellFormed (.fencePub 15 0) = false := by decide
theorem test_wf_refuses_ring : WellFormed (.rsend 1 4 0) = false ∧ WellFormed (.rpoll 1 7 0) = false := by decide
theorem test_wf_refuses_one_stage : WellFormed (.loopSwp 1 0 9 0 0) = false := by decide
theorem test_wf_refuses_engine : WellFormed (.enq 6 1 2 0 0) = false ∧ WellFormed (.estat 31 1 0) = false := by decide
theorem test_wf_refuses_crid : WellFormed (.crr 1 0x002 0) = false ∧ WellFormed (.crw 0 1 0x051 0) = false := by decide
theorem test_wf_refuses_neighbour : WellFormed (.nsel 6 1) = false ∧ WellFormed (.nsel 1 6) = false := by decide
theorem test_wf_refuses_die : WellFormed (.interrupt ⟨⟨4, 0, 0⟩, .exec⟩) = false := by decide
theorem test_wf_refuses_cluster : WellFormed (.leaseGrant ⟨0, 25⟩) = false := by decide
theorem test_wf_refuses_rank : WellFormed (.unitRetire ⟨0, 0, 4⟩) = false := by decide
theorem test_wf_refuses_slot : WellFormed (.bindUnbind ⟨0, 0⟩ 2) = false := by decide
theorem test_wf_refuses_queue : WellFormed (.churnBoundDispatch 64 ⟨0, 0, 0⟩) = false := by decide
theorem test_wf_refuses_bank : WellFormed (.arrayVerdict ⟨0, 0⟩ 2 true) = false := by decide
theorem test_wf_refuses_partition : WellFormed (.rpctlSeal 8) = false := by decide
theorem test_wf_refuses_counter : WellFormed (.ecntWrap ⟨0, 0, 0⟩ 8) = false := by decide
theorem test_wf_refuses_port : WellFormed (.linkRetry 17) = false := by decide
theorem test_wf_refuses_site : WellFormed (.eccCorrectable (.xreg c0 32)) = false ∧ WellFormed (.eccCorrectable (.churn 64 0)) = false := by
  decide

/-! Decoding: words that the spec works out. -/

def dec (w : Nat) : Option Instr := decodeTableWord 32 w
theorem test_dec_alu : dec 0x04A63800 = some (.add 5 6 7 0) ∧ dec 0x04C6A818 = some (.or 6 6 21 0) ∧
    dec 0x077800AE = some (.zextH 27 24 6) := by decide
theorem test_dec_immediates : dec 0x08000000 = some (.addi 0 0 0 0) ∧ dec 0x0CA500B8 = some (.andi 5 5 0x17 0) ∧
    dec 0x1A940180 = some (.shli 20 20 48 0) := by decide
theorem test_dec_li : dec 0x1CA02B08 = some (.li 5 0x561 0) ∧ dec 0x20A00000 = some (.lih 5 0 0) := by decide
theorem test_dec_compare : dec 0x28232020 = some (.cmp 1 3 4 4 0) ∧ dec 0x2C445FD8 = some (.cmpi 2 4 2 0x3FB 0) := by decide
theorem test_dec_predicates : dec 0x30E84910 = some (.sel 7 8 9 2 0) ∧ dec 0x30C62040 = some (.plog 6 6 4 8 0) := by decide
theorem test_dec_fp : dec 0x34853018 = some (.ffma 4 5 6 0) ∧ dec 0x34A5A810 = some (.fmul 5 5 21 0) ∧
    dec 0x38A50000 = some (.fcvtFI 5 5 0) ∧ dec 0x38C60010 = some (.fcvtIF 6 6 0) := by decide
theorem test_dec_loads : dec 0x41026013 = some (.ld 8 2 3 2 3) ∧ dec 0x40CEC000 = some (.lduW 6 14 0 0) ∧
    dec 0x44D46018 = some (.st 6 20 3 3 0) := by decide
theorem test_dec_stash : dec 0x49144020 = some (.lds 8 20 2 4 0) ∧ dec 0x4CD46008 = some (.sts 6 20 3 1 0) ∧
    dec 0x50853000 = some (.smap 4 5 6 0) ∧ dec 0x50042810 = some (.sflush 4 5 0) := by decide
theorem test_dec_tiles : dec 0x54A63818 = some (.ttset 5 6 7 3 0) ∧ dec 0x55200218 = some (.ttq 9 3 0) ∧
    dec 0x54400418 = some (.twait 1 3 0) ∧ dec 0x55210618 = some (.tdesc 9 1 3 0) := by decide
theorem test_dec_atomics : dec 0x58A63880 = some (.amoAdd 5 6 7 1 0) ∧ dec 0x5CA63800 = some (.cas 5 6 7 0 0) ∧
    dec 0x60A63810 = some (.abfsr 5 6 7 0) ∧ dec 0x600C3000 = some (.afadd 0 12 6 0) := by decide
theorem test_dec_futures : dec 0x64063800 = some (.fsetv 6 7 0) ∧ dec 0x64A60018 = some (.ftake 5 6 0) := by decide
theorem test_dec_fences : dec 0x68000400 = some (.fenceAcq 2 0) ∧ dec 0x68004C00 = some (.fenceFull 6 0) ∧
    dec 0x68009600 = some (.fencePers 0) ∧ dec 0x68E6A000 = some (.waitv 7 6 0) := by decide
theorem test_dec_rings : dec 0x6C050008 = some (.rsend 5 1 0) ∧ dec 0x6CA00088 = some (.rrecv 5 1 0) ∧
    dec 0x6C400110 = some (.rpoll 2 2 0) ∧ dec 0x6C000188 = some (.carrive 1 0) ∧ dec 0x6C000208 = some (.cwait 1 0) := by decide
theorem test_dec_branches : dec 0x87840000 = some (.pbrr 7 1 0) ∧ dec 0x89100000 = some (.br 2 1 0 0) ∧
    dec 0x89840000 = some (.brl 3 0 0 0) ∧ dec 0x8C890000 = some (.loop 1 0 9 0) ∧ dec 0x8CA9C000 = some (.loopSwp 1 1 9 2 0) ∧
    dec 0x90400000 = some (.lbrk 2 0) := by decide
theorem test_dec_queues : dec 0xA04A5818 = some (.enq 2 10 11 3 0) ∧ dec 0xA4A63800 = some (.enqs 5 6 7 0) ∧
    dec 0xA8020000 = some (.ebusy 0 2 0) ∧ dec 0xA8200008 = some (.efence 1 0) ∧ dec 0xA8890010 = some (.estat 4 9 0) ∧
    dec 0xA8400018 = some (.lease 0) ∧ dec 0xA8400020 = some (.lrel 0) := by decide
theorem test_dec_semaphores : dec 0xAC061800 = some (.kwait 6 3 0) ∧ dec 0xAC071808 = some (.ksig 7 3 0) ∧
    dec 0xAD201818 = some (.kread 9 3 0) := by decide
theorem test_dec_churn : dec 0xB0253018 = some (.chins 1 5 6 3 0) ∧ dec 0xB1253018 = some (.chinsw 1 5 6 3 0) ∧
    dec 0xB0E80218 = some (.chtake 7 8 3 0) ∧ dec 0xB0070418 = some (.chdone 7 3 0) ∧ dec 0xB12A5E18 = some (.chcfg 9 10 11 3 0) := by
  decide
theorem test_dec_power : dec 0xB8000120 = some (.pacq 36 0) ∧ dec 0xB8004000 = some (.prel 0) := by decide
theorem test_dec_system : dec 0xC0A00200 = some (.crr 5 0x040 0) ∧ dec 0xC0064000 = some (.crw 0 6 0 0) ∧
    dec 0xC0068000 = some (.crs 0 6 0 0) ∧ dec 0xC4000088 = some (.trap 17 0) ∧ dec 0xC4002000 = some (.tret 0) ∧
    dec 0xC40C8008 = some (.cancel 12 1 0) := by decide
/-- R59: LASTEP is OP 0x2D with F 0x01: (0x2D << 26) + (5 << 21) + (6 << 16) + (7 << 11) + (1 << 3). -/
theorem test_dec_activities : dec 0xB4A63808 = some (.lastep 5 6 7 0) := by decide
theorem test_dec_engine_words : decode16 .mx 0x4012 = .ok (.mma 0b001001) ∧ decode16 .mx 0x4184 = .ok (.mdrain 0b000010) ∧
    decode16 .vx 0x4C00 = .ok (.vexp 0) ∧ decode16 .vx 0x4012 = .ok (.vld 0b001001) ∧ decode16 .rw 0x4080 = .ok (.rexpsum 0) ∧
    decode16 .cp 0x4580 = .ok (.cchins 0) ∧ decode16 .ld 0x4200 = .ok (.ldR 0) ∧ decode16 .st 0x4180 = .ok (.stZ 0) := by
  refine ⟨rfl, rfl, rfl, rfl, rfl, rfl, rfl, rfl⟩
theorem test_dec_control_words : decode16 .ld 0x1860 = .ok (.waitk 3) ∧ decode16 .cp 0x1C60 = .ok (.sigk 3) ∧
    decode16 .vx 0x2810 = .ok (.nsel 0 1) ∧ decode16 .mx 0xC404 = .ok (.lit 0x404) := by refine ⟨rfl, rfl, rfl, rfl⟩
theorem test_dec_refuses : dec 0 = none ∧ dec 0xFFFFFFFF = none ∧ dec 0x04000800 ≠ none ∧ dec 0x04000878 = none ∧
    dec 0x8C892000 = none := by decide


/-! Small states. -/

def cx (f : Ctx → Ctx) (s : State) : State := modCtx s s.cur f
def co (f : Core → Core) (s : State) : State := modCore s s.cur.core f
def cl (f : Cluster → Cluster) (s : State) : State := modClus s (CoreId.cl s.cur.core) f
def r0 : State := State.reset
def xs (n : BitVec 5) (v : Word) (s : State) : State := cx (fun c => writeX c n { val := v }) s
def xp (n : BitVec 5) (s : State) : State := cx (fun c => writeX c n { poison := true }) s
/-- Inside a handler. -/
def inTrap (s : State) : State := cx (fun c => { c with tstat := c.tstat ||| 1 }) s
def user (s : State) : State := cx (fun c => { c with tstat := 0 }) s
/-- A unit of a team in the first GiB, mapped to itself, at address 0x10000. -/
def vm : State := State.reset.withFetchWord 32 0x08000000
/-- The second GiB is the host's memory. -/
def vmHost : State := physPut vm (textTable + 16) 8 (0x1F3 + 2 ^ 40)
def qu (e : Eng) (f : Queue → Queue) (s : State) : State := modQueue s s.cur.core e f
/-- A waiting context. -/
def waits (w : Wait) (s : State) : State := cx (fun c => { c with wait := some ⟨w, 0, 0⟩ }) s

/-! What small states hold. -/

/-- A list of keyed items, none of which has anything at `g`: nor has any lookup. -/
theorem mget_keeps {α β : Type} {d : α} {g : α → List β} (hd : g d = []) : ∀ (m : SMap α) (n : Nat),
    (m.all fun e => (g e.2).isEmpty) = true → g (mget d m n) = []
  | [], _, _ => hd
  | (k, v) :: t, n, h => by
    simp only [List.all_cons, Bool.and_eq_true, List.isEmpty_iff] at h
    unfold mget
    split
    · exact h.1
    · exact mget_keeps hd t n h.2
theorem noMaps_of {s : State} (h : (s.cores.all fun e => e.2.maps.isEmpty) = true) : NoMaps s :=
  fun c => mget_keeps (d := ({} : Core)) (g := fun c : Core => c.maps) rfl s.cores (coreKey c) h
theorem noDirty_of {s : State} (h1 : (curCore s).l1 = []) (h2 : (curClus s).wbuf = []) : NoDirty s := by
  unfold NoDirty
  rw [h1, h2]
  exact ⟨(fun _ h => nomatch h), fun _ h => nomatch h⟩
theorem notUnwritten {s : State} (h1 : (curCore s).l1 = []) (h2 : (curClus s).wbuf = []) (h3 : (curCore s).maps = []) (a : Nat) :
    ¬ Unwritten s a := by
  unfold Unwritten
  rw [h1, h2, h3]
  rintro (⟨_, h, _⟩ | ⟨_, h, _⟩ | ⟨_, h, _⟩) <;> cases h
/-- A release where nothing is dirty, and nothing was published, changes nothing. -/
theorem release_quiet {s : State} (h1 : (coreOf s s.cur.core).l1 = []) (h2 : (coreOf s s.cur.core).maps = [])
    (h3 : (clusOf s (CoreId.cl s.cur.core)).wbuf = []) (h4 : s.pkg.pubs = []) : release s [6] = s := by
  have hp : { s.pkg with pubs := [] } = s.pkg := by rw [← h4]
  simp [release, publish, sharedLines, flushBuf, writeOut, h1, h2, h3, h4, modPkg, mmod, mset, mget, hp]

/-! Witnesses of the scalar statements. -/

theorem test_meets_IntegerResults : ∃ i g d v s, (intForm i = some (g, d, v) ∨ fpBitsForm i = some (g, d, v)) ∧ Guard s g :=
  ⟨.add 5 6 7 0, 0, 5, _, r0, .inl rfl, rfl⟩
theorem test_meets_IntegerResults_x0_bits : ∃ i g d v s, fpBitsForm i = some (g, d, v) ∧ d = 0 ∧ Guard s g :=
  ⟨.fclass 0 6 0, 0, 0, _, r0, rfl, rfl, rfl⟩
theorem test_meets_NullifiedOnlyAdvances : ∃ i w s, encode i = .w32 w ∧ encodingOk s i ∧ readP (curCtx s) (w.setWidth 3) = false :=
  ⟨.add 1 2 3 1, _, r0, rfl, trivial, by decide⟩
theorem test_meets_FpResults : ∃ i g d l r s, fpForm i = some (g, d, l, r) ∧ Guard s g ∧ (fctlOf s >>> 16) &&& 0x1F00 &&& (r s).2 = 0 :=
  ⟨.fadd 5 6 7 0, 0, 5, _, _, r0, rfl, rfl, by decide⟩
theorem test_meets_FpResults_poisoned : ∃ i g d l r s, fpForm i = some (g, d, l, r) ∧ Guard s g ∧ ∃ n ∈ l, ¬ Clean s n :=
  ⟨.fadd 5 6 7 0, 0, 5, _, _, xp 6 r0, rfl, rfl, 6, by decide, by unfold Clean; decide⟩
theorem test_meets_PredicateResults : ∃ i g d w v s, predForm i = some (g, d, w, v) ∧ Guard s g ∧ w s :=
  ⟨.pset 1 6 0, 0, 1, _, _, r0, rfl, rfl, rfl⟩
theorem test_meets_PredicateResults_rpoll : ∃ i g d w v s, predForm i = some (g, d, w, v) ∧ Guard s g ∧ w s :=
  ⟨.rpoll 0 1 0, 0, 0, _, _, r0, rfl, rfl, .inl rfl⟩
theorem test_meets_FpComparesAndFpe_1 : ∃ i g d l r s, fcmpForm i = some (g, d, l, r) ∧ Guard s g ∧ (∀ n ∈ l, Clean s n) ∧
    (fctlOf s >>> 16) &&& 0x1F00 &&& (r s).2 = 0 :=
  ⟨.fcmpEq 1 6 7 0, 0, 1, _, _, r0, rfl, rfl, by unfold Clean; decide, by decide⟩
def fpe : State := cx (fun c => { c with fctl := 0x1F000000 }) (xs 6 0x7FC00000 (xs 7 0x3F800000 r0))
theorem test_meets_FpComparesAndFpe_2 : ∃ i g d l r s, fcmpForm i = some (g, d, l, r) ∧ Guard s g ∧ (∀ n ∈ l, Clean s n) ∧
    NotInTrap s ∧ (fctlOf s >>> 16) &&& 0x1F00 &&& (r s).2 ≠ 0 :=
  ⟨.fcmpLt 1 6 7 0, 0, 1, _, _, fpe, rfl, rfl, by unfold Clean; decide, rfl, by decide⟩
theorem test_meets_FpComparesAndFpe_3 : ∃ i g d l r s, fpForm i = some (g, d, l, r) ∧ Guard s g ∧ (∀ n ∈ l, Clean s n) ∧
    NotInTrap s ∧ (fctlOf s >>> 16) &&& 0x1F00 &&& (r s).2 ≠ 0 :=
  ⟨.fdiv 1 7 0 0, 0, 1, _, _, fpe, rfl, rfl, by unfold Clean; decide, rfl, by decide⟩
theorem test_meets_StateReads : ∃ i g d w v s, readForm i = some (g, d, w, v) ∧ Guard s g ∧ w s :=
  ⟨.ttq 5 63 0, 0, 5, _, _, r0, rfl, rfl, trivial⟩
theorem test_meets_StateReads_crr : ∃ s, Guard s 0 ∧ crAssigned 0x017 = true ∧ (crPriv 0x017 = true → Super s) :=
  ⟨r0, rfl, by decide, fun _ => rfl⟩
theorem test_meets_StateReads_estat : ∃ i g d w v s, readForm i = some (g, d, w, v) ∧ Guard s g ∧ w s :=
  ⟨.estat 4 5 0, 0, 5, _, _, r0, rfl, rfl, by decide⟩
theorem test_meets_OnlyAdvance_kwait : ∃ i g w s, stillForm i = some (g, w) ∧ Guard s g ∧ w s :=
  ⟨.kwait 6 31 0, 0, _, r0, rfl, rfl, rfl, by decide, by decide⟩
theorem test_meets_OnlyAdvance_br : ∃ i g w s, stillForm i = some (g, w) ∧ Guard s g ∧ w s :=
  ⟨.br 2 1 0 0, 0, _, r0, rfl, rfl, by decide⟩
theorem test_meets_OnlyAdvance_waitv : ∃ i g w a s pa, lineForm i = some (g, w, a) ∧ Guard s g ∧ w s ∧ a s pa :=
  ⟨.waitv 7 6 0, 0, _, _, xs 6 0x10000 vm, _, rfl, rfl, ⟨rfl, rfl⟩, _, rfl, rfl, by decide, by decide⟩
theorem test_meets_OnlyAdvance_pref : ∃ i g w a s pa, lineForm i = some (g, w, a) ∧ Guard s g ∧ w s ∧ a s pa :=
  ⟨.pref 1 6 511 0, 0, _, _, xs 6 0x10000 vm, _, rfl, rfl, ⟨by decide, rfl⟩, _, rfl, rfl⟩
theorem test_meets_Branches_pbrr : ∃ (s : State) (a : BitVec 5), Guard s 0 ∧ Clean s a ∧ (xv s a).toNat < 2 ^ 56 ∧ (xv s a).toNat % 4 = 0 :=
  ⟨xs 6 0xFFFFFFFFFFFFFC r0, 6, rfl, rfl, by decide, by decide⟩
theorem test_meets_Branches_br : ∃ (s : State) (p : BitVec 3) (n : BitVec 1), Guard s 0 ∧ readP (curCtx s) p ≠ decide (n = 1) :=
  ⟨r0, 0, 0, rfl, by decide⟩
def looped : State := cx (fun c => { c with pc := 0x10000, b := [(1, 0x10010)] }) r0
theorem test_meets_Loops_1 : ∃ (s : State) (b : BitVec 3) (a : BitVec 5), Guard s 0 ∧ Clean s a ∧ (curCtx s).pc.toNat + 4 < (readB (curCtx s) b).toNat ∧
    (xv s a).toNat % 2 ^ 32 ≠ 0 := ⟨xs 9 4 looped, 1, 9, rfl, rfl, by decide, by decide⟩
theorem test_meets_Loops_2 : ∃ (s : State) (b : BitVec 3) (a : BitVec 5) (st : BitVec 2), Guard s 0 ∧ Clean s a ∧
    (curCtx s).pc.toNat + 4 < (readB (curCtx s) b).toNat ∧ (xv s a).toNat % 2 ^ 32 ≠ 0 ∧ (xv s a).toNat % 2 ^ 32 + st.toNat < 2 ^ 32 ∧
    ∀ k, k < 4 → ¬ ((readLc (curCtx s) k).active = true ∧ (readLc (curCtx s) k).swp = true) :=
  ⟨xs 9 4 looped, 1, 9, 3, rfl, rfl, by decide, by decide, by decide, by decide⟩
theorem test_meets_Loops_3 : ∃ (s : State) (b : BitVec 3) (a : BitVec 5), Guard s 0 ∧ Clean s a ∧ (curCtx s).pc.toNat + 4 < (readB (curCtx s) b).toNat ∧
    (xv s a).toNat % 2 ^ 32 = 0 := ⟨xs 9 0x500000000 looped, 1, 9, rfl, rfl, by decide, by decide⟩
/-- Loop 2 is armed and ends after the next instruction. -/
def ending (n : BitVec 32) : State :=
  cx (fun c => { c with lc := [(2, { active := true, stop := 0x10004, start := 0xFFF0, lc := n })] }) looped
theorem test_meets_Loops_4 : ∃ (s : State) (n : BitVec 2), Guard s 0 ∧ (readLc (curCtx s) n.toNat).active = true := ⟨ending 1, 2, rfl, by decide⟩
theorem test_meets_Loops_5 : ∃ i g d v s k, intForm i = some (g, d, v) ∧ Guard s g ∧ k < 4 ∧ preempting s s.cur.core = false ∧
    (readLc (curCtx s) k).active = true ∧ (readLc (curCtx s) k).stop = nextPc s ∧ (readLc (curCtx s) k).pree = false ∧
    (∀ j, j < 4 → j ≠ k → ¬ ((readLc (curCtx s) j).active = true ∧ (readLc (curCtx s) j).stop = nextPc s)) ∧
    1 < (readLc (curCtx s) k).lc.toNat :=
  ⟨.add 5 6 7 0, 0, 5, _, ending 2, 2, rfl, rfl, by decide, by decide, by decide, by decide, by decide, by decide, by decide⟩
theorem test_meets_Loads : ∃ i g d a o n f s x, loadForm i = some (g, d, a, o, n, f) ∧ Guard s g ∧ Clean s a ∧
    ¬ InSysWin (addrOf s a o n) ∧ plainXl s (isSuper (curCtx s)) .load (addrOf s a o n) n = .ok x ∧ paKind x.pa = .hbm :=
  ⟨.ld 5 6 3 511 0, 0, 5, 6, _, _, _, vm, _, rfl, rfl, rfl, by unfold InSysWin; decide, rfl, by decide⟩
theorem test_meets_Loads_host : ∃ i g d a o n f s x, loadForm i = some (g, d, a, o, n, f) ∧ Guard s g ∧ Clean s a ∧
    ¬ InSysWin (addrOf s a o n) ∧ plainXl s (isSuper (curCtx s)) .load (addrOf s a o n) n = .ok x ∧ paKind x.pa ≠ .hbm :=
  ⟨.lduH 5 6 0 0, 0, 5, 6, _, _, _, xs 6 0x40000000 vmHost, _, rfl, rfl, rfl, by unfold InSysWin; decide, rfl, by decide⟩
theorem test_meets_Stores : ∃ (a : BitVec 5) (w : BitVec 2) (o : BitVec 10) (s : State) (x : Xl), Guard s 0 ∧ Clean s a ∧ ¬ InSysWin (addrOf s a o (2 ^ w.toNat)) ∧
    plainXl s (isSuper (curCtx s)) .store (addrOf s a o (2 ^ w.toNat)) (2 ^ w.toNat) = .ok x ∧ x.pa % 2 ^ w.toNat = 0 ∧ paKind x.pa = .hbm ∧
    x.leaf.cls = 2 := ⟨6, 3, 0, vm, _, rfl, rfl, by unfold InSysWin; decide, rfl, by decide, by decide, by decide⟩
theorem test_meets_Stores_host : ∃ (a : BitVec 5) (w : BitVec 2) (o : BitVec 10) (s : State) (x : Xl), Guard s 0 ∧ Clean s a ∧ ¬ InSysWin (addrOf s a o (2 ^ w.toNat)) ∧
    plainXl s (isSuper (curCtx s)) .store (addrOf s a o (2 ^ w.toNat)) (2 ^ w.toNat) = .ok x ∧ x.pa % 2 ^ w.toNat = 0 ∧ paKind x.pa ≠ .hbm ∧
    x.leaf.cls ≠ 2 := ⟨6, 3, 0, xs 6 0x40000000 vmHost, _, rfl, rfl, by unfold InSysWin; decide, rfl, by decide, by decide, by decide⟩
/-- An address of the system window. -/
def win (off : Word) (s : State) : State := xs 2 (0x00FF000000000000 + off) s
theorem test_meets_SystemWindow_1 : ∃ s, Guard s 0 ∧ Clean s 2 ∧ InSysWin (addrOf s 2 0 8) ∧ winForbidden (isSuper (curCtx s)) false (addrOf s 2 0 8) = false ∧
    (addrOf s 2 0 8).toNat % 8 = 0 := ⟨win 0x4000 r0, rfl, rfl, by unfold InSysWin; decide, by decide, by decide⟩
theorem test_meets_SystemWindow_2 : ∃ s, InSysWin (addrOf s 2 0 8) ∧ winForbidden (isSuper (curCtx s)) true (addrOf s 2 0 8) = false ∧
    (addrOf s 2 0 8).toNat % 8 = 0 ∧ pageUse (winDie (addrOf s 2 0 8)) (winOff (addrOf s 2 0 8)) = .rw :=
  ⟨win 0x78C0 r0, by unfold InSysWin; decide, by decide, by decide, by decide⟩
theorem test_meets_SystemWindow_3 : ∃ s, InSysWin (addrOf s 2 0 8) ∧ winForbidden (isSuper (curCtx s)) true (addrOf s 2 0 8) = false ∧
    (addrOf s 2 0 8).toNat % 8 = 0 ∧ pageUse (winDie (addrOf s 2 0 8)) (winOff (addrOf s 2 0 8)) ≠ .rw :=
  ⟨win 0x0410 r0, by unfold InSysWin; decide, by decide, by decide, by decide⟩
theorem test_meets_SystemWindow_4 : ∃ s, NotInTrap s ∧ InSysWin (addrOf s 2 0 8) ∧ winForbidden (isSuper (curCtx s)) false (addrOf s 2 0 8) = true :=
  ⟨user (win 0x4000 r0), rfl, by unfold InSysWin; decide, by decide⟩
theorem test_meets_SystemWindow_5 : ∃ s, NotInTrap s ∧ InSysWin (addrOf s 2 0 8) ∧ winForbidden (isSuper (curCtx s)) false (addrOf s 2 0 8) = false ∧
    ¬ ((3 : BitVec 2) = 3 ∧ (addrOf s 2 0 8).toNat % 8 = 0) := ⟨win 0x4004 r0, rfl, by unfold InSysWin; decide, by decide, by decide⟩
theorem test_meets_SystemWindow_6 : ∃ s, NotInTrap s ∧ InSysWin (addrOf s 2 0 8) ∧ winForbidden (isSuper (curCtx s)) true (addrOf s 2 0 8) = true :=
  ⟨win 0x4000 r0, rfl, by unfold InSysWin; decide, by decide⟩
theorem test_meets_SystemWindow_7 : ∃ s, NotInTrap s ∧ InSysWin (addrOf s 2 0 8) ∧ winForbidden (isSuper (curCtx s)) true (addrOf s 2 0 8) = false ∧
    ¬ ((3 : BitVec 2) = 3 ∧ (addrOf s 2 0 8).toNat % 8 = 0) := ⟨win 0x78C4 r0, rfl, by unfold InSysWin; decide, by decide, by decide⟩
theorem test_meets_SystemWindow_8 : ∃ (s : State) (w : BitVec 2), w ≠ 3 ∧ NotInTrap s ∧ InSysWin (addrOf s 2 0 (2 ^ w.toNat)) ∧
    winForbidden (isSuper (curCtx s)) false (addrOf s 2 0 (2 ^ w.toNat)) = true := ⟨user (win 0x4000 r0), 2, by decide, rfl, by unfold InSysWin; decide, by decide⟩
theorem test_meets_SystemWindow_9 : ∃ (s : State) (w : BitVec 2), w ≠ 3 ∧ NotInTrap s ∧ InSysWin (addrOf s 2 0 (2 ^ w.toNat)) ∧
    winForbidden (isSuper (curCtx s)) false (addrOf s 2 0 (2 ^ w.toNat)) = false := ⟨win 0x4000 r0, 2, by decide, rfl, by unfold InSysWin; decide, by decide⟩
theorem test_meets_StashAccess : ∃ (s : State) (id : CoreId) (off : Nat) (s1 : State), Guard s 0 ∧ Clean s 6 ∧
    stashXl (issued s) (isSuper (curCtx s)) true (addrOf s 6 0 8) 8 = .ok (id, off, s1) := ⟨xs 6 0x1FFFF8 vm, _, _, _, rfl, rfl, rfl⟩
theorem test_meets_StashAccess_3 : ∃ s, (addrOf s 6 0 8).toNat < 2 ^ 23 ∧ (addrOf s 6 0 8).toNat % 8 = 0 ∧
    (addrOf s 6 0 8).toNat / 2 ^ 21 = s.cur.core.rank ∧ (curCore s).maps = [] := ⟨xs 6 0x1FFFF8 vm, by decide, by decide, by decide, rfl⟩
theorem test_meets_StashMaps_1 : ∃ s, Guard s 0 ∧ Clean s 6 ∧ Clean s 7 ∧ Clean s 8 ∧ (xv s 8).toNat < 2 ^ 21 ∧ (xv s 6).toNat < 2 ^ 56 ∧
    (xv s 8).toNat % 4096 = 0 ∧ (xv s 6).toNat % 4096 = 0 ∧ (xv s 7).toNat % 4096 = 0 ∧ (xv s 7).toNat ≠ 0 ∧
    (xv s 8).toNat + (xv s 7).toNat ≤ 2 ^ 21 ∧ (curCore s).maps = [] :=
  ⟨xs 6 0x10000 (xs 7 0x1000 (xs 8 0x1FF000 vm)), rfl, rfl, rfl, rfl, by decide, by decide, by decide, by decide, by decide, by decide,
    by decide, rfl⟩
def mapped : State := co (fun c => { c with maps := [{ off := 0x1000, va := 0x20000, len := 0x1000 }] }) (xs 6 0x1000 (xs 7 128 vm))
theorem test_meets_StashMaps_2 : ∃ s m, Guard s 0 ∧ Clean s 6 ∧ (curCore s).maps.find? (fun m => m.off = (xv s 6).toNat) = some m :=
  ⟨mapped, _, rfl, rfl, rfl⟩
theorem test_meets_StashMaps_4 : ∃ s, Guard s 0 ∧ Clean s 6 ∧ Clean s 7 ∧ (xv s 6).toNat % 128 = 0 ∧ (xv s 7).toNat % 128 = 0 :=
  ⟨mapped, rfl, rfl, rfl, by decide, by decide⟩
theorem test_meets_TileBinding_1 : ∃ s, Guard s 0 ∧ Clean s 6 ∧ Clean s 7 ∧ (tileOf s s.cur.core 63).st ≠ .empty :=
  ⟨co (fun c => { c with tiles := [(63, { st := .ready })] }) r0, rfl, rfl, rfl, by decide⟩
theorem test_meets_TileBinding_2 : ∃ s, (tileOf s s.cur.core 3).st = .empty ∧ xv s 6 = 0 ∧ xv s 7 = 0x8000000000000000 :=
  ⟨xs 7 0x8000000000000000 r0, rfl, rfl, rfl⟩
/-- R172: a 128 by 128 tile of one byte with a pitch of 128. -/
theorem test_meets_TileBinding_3 : ∃ s, (tileOf s s.cur.core 3).st = .empty ∧ ¬ (xv s 6 = 0 ∧ xv s 7 = 0x8000000000000000) ∧
    bindingOk (xv s 6) (xv s 7) = true := ⟨xs 6 0x1000 (xs 7 0x0000010000003FFF r0), rfl, by decide, by decide⟩
theorem test_meets_TileBinding_4 : ∃ s, (tileOf s s.cur.core 3).st = .empty ∧ ¬ (xv s 6 = 0 ∧ xv s 7 = 0x8000000000000000) ∧
    bindingOk (xv s 6) (xv s 7) = false := ⟨xs 6 1 r0, rfl, by decide, by decide⟩
theorem test_meets_Atomics : ∃ i g d a l n f s x, rmwForm i = some (g, d, a, l, n, f) ∧ Guard s g ∧ (∀ r ∈ l, Clean s r) ∧
    cohXl s (isSuper (curCtx s)) true (xv s a) n = .ok x ∧ paKind x.pa = .hbm ∧ x.pa % n = 0 ∧ physMark s x.pa n = false ∧
    ∀ k, k < 4 → ¬ Unwritten s (wordAt x.pa k) :=
  ⟨.amoAdd 5 6 7 1 0, 0, 5, 6, _, _, _, xs 6 0x10008 vm, _, rfl, rfl, by unfold Clean; decide, rfl, by decide, by decide, by decide,
    fun _ _ => notUnwritten rfl rfl rfl _⟩
/-- A future at 0x20000 with a flag word. -/
def cell (w : Nat) : State := physPut (xs 6 0x20000 vm) 0x20008 8 w
theorem test_meets_Futures : ∃ s x, Guard s 0 ∧ Clean s 6 ∧ Clean s 7 ∧ cohXl s (isSuper (curCtx s)) true (xv s 6) 16 = .ok x ∧
    paKind x.pa = .hbm ∧ paKind (x.pa + 8) = .hbm ∧
    (x.leaf.entry + 8 ≤ x.pa ∨ x.pa + 16 ≤ x.leaf.entry) ∧ physMark s (x.pa + 8) 8 = false ∧ (∀ k, k < 16 → ¬ Unwritten s (x.pa + k)) ∧
    physNat s (x.pa + 8) 8 = 0 :=
  ⟨cell 0, _, rfl, rfl, rfl, rfl, by decide, by decide, by decide, by decide, fun _ _ => notUnwritten rfl rfl rfl _, by decide⟩
theorem test_meets_Futures_reset : ∃ s x, cohXl s (isSuper (curCtx s)) true (xv s 6) 16 = .ok x ∧ physMark s (x.pa + 8) 8 = false ∧
    physNat s (x.pa + 8) 8 = 256 := ⟨cell 256, _, rfl, by decide, by decide⟩
theorem test_meets_Futures_take : ∃ s x, cohXl s (isSuper (curCtx s)) true (xv s 6) 16 = .ok x ∧ physMark s (x.pa + 8) 8 = false ∧
    physNat s (x.pa + 8) 8 = 257 ∧ earlierTake (issued s) x.pa (match (curCtx s).wait with | some q => q.ticket | none => s.ticket) = false :=
  ⟨cell 257, _, rfl, by decide, by decide, by decide⟩
theorem test_meets_Rings_1 : ∃ s, Guard s 0 ∧ s.cur.kind = ringSender 1 ∧ ringLevel s s.cur.core 1 < 64 := ⟨r0, rfl, rfl, by decide⟩
theorem test_meets_Rings_2 : ∃ s e l, Guard s 0 ∧ s.cur.kind = ringReceiver 0 ∧ ringOf s s.cur.core 0 = e :: l :=
  ⟨co (fun c => { c with rings := [(0, [⟨7, true⟩])] }) r0, _, _, rfl, rfl, rfl⟩
theorem test_meets_Semaphores : ∃ s, Guard s 0 ∧ Clean s 6 ∧ (xv s 6).toNat ≤ 0xFFFF := ⟨xs 6 0xFFFF r0, rfl, rfl, by decide⟩
theorem test_meets_Barriers_1 : ∃ s, Guard s 0 ∧ s.cur.core.rank < 4 ∧
    (mget ({} : Barrier) (curClus s).barriers 7).a.getLsbD s.cur.core.rank = false := ⟨r0, rfl, by decide, rfl⟩
theorem test_meets_Barriers_2 : ∃ s, Guard s 0 ∧ ((mget ({} : Barrier) (curClus s).barriers 7).g -
    mget 0 (mget ({} : Barrier) (curClus s).barriers 7).t s.cur.core.rank).toNat < 2 ^ 31 := ⟨r0, rfl, by decide⟩
theorem test_meets_Fences_1 : ∃ s, Guard s 0 ∧ (6 : BitVec 4) ≠ 0 ∧ (curCtx s).wait = none := ⟨r0, rfl, by decide, rfl⟩
def tiered : State := { vm with pkg := { vm.pkg with tiers := [(0, { v := true })] } }
theorem test_meets_Fences_pers : ∃ s, Guard s 0 ∧ (mget ({} : Tier) s.pkg.tiers (partOf s s.cur.core)).v = true ∧ (curCtx s).wait = none :=
  ⟨tiered, rfl, by decide, rfl⟩
theorem test_meets_Fences_2 : ∃ s, Guard s 0 ∧ (curCtx s).wait ≠ none ∧ writesHeld s 9 = false :=
  ⟨waits (.fence 2 9) r0, rfl, by decide, by decide⟩

/-- A dirty byte of the context in a read-shared line of the L1, and a clean line beside it. -/
def sharing : State :=
  co (fun c => { c with l1 := [(2, { held := true, cls := 1, bytes := [(256, 0xA5)], dirty := [(256, 1 + ctxCode .exec)] }), (3, { held := true, cls := 1 })] }) r0
theorem test_meets_Fences_publish : ∃ (s : State) (line a : Nat), mwf {} (curCore s).l1 = true ∧ (∀ e ∈ (curCore s).l1, ∀ d ∈ e.2.dirty, d.1 / 128 = e.1) ∧
    (curCore s).maps = [] ∧ (curClus s).wbuf = [] ∧ paKind (128 * line) = .hbm ∧ (l1Of s s.cur.core line).cls = 1 ∧
    mget 0 (l1Of s s.cur.core line).dirty a = 1 + ctxCode s.cur.kind :=
  ⟨sharing, 2, 256, by decide, by decide, rfl, rfl, by decide, by decide, by decide⟩
theorem test_meets_Fences_acquire : ∃ s, ∃ e ∈ (curCore s).l1, e.2.cls = 1 ∧ e.2.dirty = [] := ⟨sharing, _, .tail _ (.head _), rfl, rfl⟩
theorem test_meets_Fences_noTier : ∃ s, Guard s 0 ∧ NotInTrap s ∧ (curCtx s).wait = none ∧
    (mget ({} : Tier) s.pkg.tiers (partOf s s.cur.core)).v = false := ⟨vm, rfl, rfl, rfl, by decide⟩

def stored (ws : List QWord) : State := qu .vx (fun q => { q with words := ws }) r0
theorem test_meets_Feeding_1 : ∃ (s : State) (q : Eng) (n : BitVec 3), Guard s 0 ∧ fedEng s 3 = some q ∧ Clean s 6 ∧ Clean s 7 ∧
    (queueOf s s.cur.core q).words.length + n.toNat < 256 := ⟨r0, _, 7, rfl, rfl, rfl, rfl, by decide⟩
def at5 (s : State) : State := { s with cyc := 5 }
theorem test_meets_Feeding_2 : ∃ (s : State) (q : Eng), Guard s 0 ∧ fedEng s 3 = some q ∧ Clean s 6 ∧ Clean s 7 ∧ (xv s 6).toNat < 2 ^ 56 ∧
    (xv s 6).toNat % 2 = 0 ∧ (xv s 7).toNat ≤ 4096 ∧
    scanRange s (isSuper (curCtx s)) ((xv s 6).toNat + 2 * (xv s 7).toNat) 4 (xv s 6).toNat = none ∧ (curCtx s).wait = none ∧
    (curCtx s).enqsAddr ≠ some (curCtx s).pc ∧ (curCtx s).enqsAt.1 ≠ s.cyc.toNat ∧ (xv s 7).toNat ≤ 16 ∧
    (queueOf s s.cur.core q).words.length + (xv s 7).toNat ≤ 256 :=
  ⟨at5 (xs 6 0x10000 (xs 7 16 vm)), _, rfl, rfl, rfl, rfl, by decide, by decide, by decide, by decide, rfl, by decide, by decide, by decide, by decide⟩
theorem test_meets_Feeding_3 : ∃ (s : State) (q : Eng), Guard s 0 ∧ fedEng s 3 = some q ∧ Clean s 6 ∧ Clean s 7 ∧ (xv s 6).toNat < 2 ^ 56 ∧
    (xv s 6).toNat % 2 = 0 ∧ (xv s 7).toNat ≤ 4096 ∧
    scanRange s (isSuper (curCtx s)) ((xv s 6).toNat + 2 * (xv s 7).toNat) 4 (xv s 6).toNat = none ∧ (curCtx s).wait = none ∧
    (curCtx s).enqsAddr ≠ some (curCtx s).pc ∧ (curCtx s).enqsAt.1 ≠ s.cyc.toNat ∧ 16 < (xv s 7).toNat ∧
    (queueOf s s.cur.core q).words.length + 16 ≤ 256 ∧ preempting s s.cur.core = false :=
  ⟨at5 (xs 6 0x10000 (xs 7 17 vm)), _, rfl, rfl, rfl, rfl, by decide, by decide, by decide, by decide, rfl, by decide, by decide, by decide,
    by decide, by decide⟩
def leased (dirty : Bool) : State := cl (fun c => { c with leaseHolder := some 0, array := { c.array with bank0 := { c.array.bank0 with dirty := dirty } } }) r0
theorem test_meets_LeaseInstructions_1 : ∃ s, Guard s 0 ∧ s.cur.kind = .exec ∧ holdsLease s s.cur.core = true ∧
    queueIdle (curCore s).qMx = true ∧ arrayDirty (curClus s) = false := ⟨leased false, rfl, rfl, rfl, rfl, rfl⟩
theorem test_meets_LeaseInstructions_2 : ∃ s, Guard s 0 ∧ s.cur.kind = .exec ∧ holdsLease s s.cur.core = true ∧
    queueIdle (curCore s).qMx = true ∧ arrayDirty (curClus s) = true ∧ NotInTrap s := ⟨leased true, rfl, rfl, rfl, rfl, rfl, rfl⟩
theorem test_meets_LeaseInstructions_3 : ∃ s, Guard s 0 ∧ s.cur.kind = .exec ∧ holdsLease s s.cur.core = false ∧
    preempting s s.cur.core = false := ⟨r0, rfl, rfl, by decide, by decide⟩
theorem test_meets_PowerRegions_0 : ∃ (s : State) (l : Byte), (l.toNat = 0 ∨ 116 < l.toNat) ∧ NotInTrap s := ⟨r0, 117, .inr (by decide), rfl⟩
theorem test_meets_PowerRegions_1 : ∃ (s : State) (l : Byte), Guard s 0 ∧ 1 ≤ l.toNat ∧ l.toNat ≤ 116 ∧ (curClus s).pacq = [] ∧
    (curClus s).rsv.toNat + l.toNat ≤ (curClus s).rate.toNat + (curCore s).plevel.toNat :=
  ⟨cl (fun c => { c with rate := 116 }) r0, 116, rfl, by decide, by decide, rfl, by decide⟩
theorem test_meets_PowerRegions_2 : ∃ s, Guard s 0 ∧ (curCore s).plevel = 0 := ⟨r0, rfl, rfl⟩
theorem test_meets_PowerRegions_3 : ∃ s, Guard s 0 ∧ (curCore s).plevel ≠ 0 := ⟨co (fun c => { c with plevel := 36 }) r0, rfl, by decide⟩
/-- Queue 63 of the job. -/
def churned (ch : Churn) (s : State) : State := { s with pkg := { s.pkg with churn := [(63, { ch with owner := some 0, en := true })] } }
theorem test_meets_Churn_insert : ∃ s, Guard s 0 ∧ Clean s 6 ∧ Clean s 7 ∧ insertCheck s s.cur.core 63 true (xv s 6) = none ∧
    churnCan (churnOf s 63) (xv s 6) = true ∧
    earlierInsert (issued s) 63 (match (curCtx s).wait with | some w => w.ticket | none => s.ticket) (churnOf s 63) = false :=
  ⟨churned { cap := 1 } vm, rfl, rfl, rfl, by decide, by decide, by decide⟩
theorem test_meets_Churn_reject : ∃ s, Guard s 0 ∧ Clean s 6 ∧ Clean s 7 ∧ insertCheck s s.cur.core 63 true (xv s 6) = none ∧
    churnCan (churnOf s 63) (xv s 6) = false := ⟨churned { cap := 0 } vm, rfl, rfl, rfl, by decide, by decide⟩
def rec0 (st : ChurnSt) : ChurnRec := { st := st, key := 5, payload := leBytes 8 7, nins := 1, gen := 3 }
theorem test_meets_Churn_take : ∃ s k, Guard s 0 ∧ Clean s 6 ∧ churnOwns s s.cur.core 63 = true ∧ (churnOf s 63).en = true ∧
    (churnOf s 63).bind = false ∧ (xv s 6).toNat < 2 ^ 56 ∧ (xv s 6).toNat % 8 = 0 ∧
    storeRange s (isSuper (curCtx s)) (xv s 6).toNat ((churnOf s 63).psz + 2) = .ok () ∧ churnOldest (churnOf s 63) = some k :=
  ⟨churned { recs := [(1023, rec0 .waiting)] } (xs 6 0x20000 vm), 1023, rfl, rfl, by decide, rfl, rfl, by decide, by decide, rfl, by decide⟩
theorem test_meets_Churn_take_none : ∃ s, churnOwns s s.cur.core 63 = true ∧ (churnOf s 63).en = true ∧ (churnOf s 63).bind = false ∧
    storeRange s (isSuper (curCtx s)) (xv s 6).toNat ((churnOf s 63).psz + 2) = .ok () ∧ churnOldest (churnOf s 63) = none :=
  ⟨churned {} (xs 6 0x20000 vm), by decide, rfl, rfl, rfl, by decide⟩
theorem test_meets_Churn_done : ∃ s, Guard s 0 ∧ Clean s 6 ∧ churnOwns s s.cur.core 63 = true ∧
    (mget ({} : ChurnRec) (churnOf s 63).recs (bitsAt (xv s 6) 0 10)).st = .claimed ∧
    (mget ({} : ChurnRec) (churnOf s 63).recs (bitsAt (xv s 6) 0 10)).gen.toNat = bitsAt (xv s 6) 48 15 :=
  ⟨churned { recs := [(9, rec0 .claimed)] } (xs 6 0x800300010000FC09 vm), rfl, rfl, by decide, by decide, by decide⟩
/-- R316, R317: EN, CAP 16. -/
theorem test_meets_Churn_config : ∃ s, Guard s 0 ∧ Clean s 6 ∧ Clean s 7 ∧ churnOwns s s.cur.core 63 = true ∧ (xv s 6).getLsbD 63 = false ∧
    churnCfgOk (xv s 6) (readDesc s (rootOf s s.cur.core) (xv s 7)) = true ∧ churnUsed (churnOf s 63) = 0 :=
  ⟨churned {} (xs 6 0x100001 vm), rfl, rfl, rfl, by decide, rfl, by decide, by decide⟩
def act0 (p : LaPhase) : Activity := { laid := 1, sw := 0x20000, swPa := 0x20000, job := 0, lid := 0, lcid := 0, phase := p, steps := 2 }
def acting (p : LaPhase) (s : State) : State := { s with pkg := { s.pkg with acts := [act0 p], seq := 4 } }
/-- R384 and on: the release before an instruction of an activity. -/
def laReleased (s : State) : State := laRelease (issued s) (curCtx (issued s))
theorem test_meets_Activities_begin : ∃ s x, Guard s 0 ∧ Clean s 6 ∧ cohXl s (isSuper (curCtx s)) true (xv s 6) 16 = .ok x ∧
    openAct (laRelease (issued s) (curCtx (issued s))) s.cur.core = none ∧
    (laRelease (issued s) (curCtx (issued s))).pkg.acts.length < 4096 :=
  ⟨xs 6 0x20000 vm, _, rfl, rfl, rfl, by decide, by decide⟩
theorem test_meets_Activities_begin_open : ∃ s x, Guard s 0 ∧ Clean s 6 ∧ cohXl s (isSuper (curCtx s)) true (xv s 6) 16 = .ok x ∧
    openAct (laRelease (issued s) (curCtx (issued s))) s.cur.core ≠ none :=
  ⟨acting .opened (xs 6 0x20000 vm), _, rfl, rfl, rfl, by decide⟩
def acts0 (n : Nat) : State := { xs 6 0x20000 vm with pkg := { vm.pkg with acts := List.replicate n (act0 .committed) } }
theorem seq_quiet {s : State} (h : s.pkg.clocks = []) (hp : (curCtx s).pts = 0) : toSeq s = s := by
  have e : { s.pkg with clocks := [] } = s.pkg := by rw [← h]
  simp [toSeq, raiseClock, modPkg, mmod, mset, mget, h, hp, e]
theorem acts0_released (n : Nat) : laRelease (issued (acts0 n)) (curCtx (issued (acts0 n))) = acts0 n := by
  have e : issued (acts0 n) = acts0 n := by unfold issued countIssue; rfl
  have f : countFence (acts0 n) (curCtx (acts0 n)) = acts0 n := by unfold countFence; rfl
  rw [e]
  unfold laRelease
  rw [f, release_quiet rfl rfl rfl rfl]
  exact seq_quiet rfl rfl
theorem acts0_none (n : Nat) : openAct (acts0 n) c0.core = none := by
  unfold openAct
  refine List.find?_eq_none.2 ?_
  intro a h
  have e : a = act0 .committed := List.eq_of_mem_replicate h
  subst e
  simp [act0]
theorem test_meets_Activities_begin_full : ∃ s, Guard s 0 ∧ Clean s 6 ∧ openAct (laRelease (issued s) (curCtx (issued s))) s.cur.core = none ∧
    4096 ≤ (laRelease (issued s) (curCtx (issued s))).pkg.acts.length := by
  refine ⟨acts0 4096, rfl, rfl, ?_, ?_⟩ <;> rw [acts0_released]
  · exact acts0_none 4096
  · exact Nat.le_of_eq (List.length_replicate (n := 4096) (a := act0 .committed)).symm
theorem test_meets_Activities_step : ∃ s act, Guard s 0 ∧ Clean s 6 ∧ Clean s 7 ∧ (xv s 6).toNat < 2 ^ 56 ∧
    checkArgs s (isSuper (curCtx s)) 6 (xv s 7) = .ok () ∧ openAct (laReleased s) s.cur.core = some act ∧ act.steps ≠ 65535 ∧
    (dieOf (laReleased s) s.cur.core.die).las.length < lasSize (dieOf (laReleased s) s.cur.core.die) :=
  ⟨acting .opened (xs 7 0x20000 vm), _, rfl, rfl, rfl, by decide, rfl, rfl, by decide, by decide⟩
theorem test_meets_Activities_none : ∃ s, Guard s 0 ∧ openAct (laReleased s) s.cur.core = none := ⟨vm, rfl, by decide⟩
theorem test_meets_Activities_lactl : ∃ s act, Guard s 0 ∧ Super s ∧ Clean s 6 ∧ Clean s 7 ∧ actOf (laReleased s) (xv s 6) = some act ∧
    some act.job = jobAt s s.cur.core ∧ act.phase = .frozen ∧ (xv s 7).toNat ≤ 2 :=
  ⟨acting .frozen (xs 6 1 (xs 7 2 vm)), _, rfl, rfl, rfl, rfl, rfl, rfl, rfl, by decide⟩
theorem test_meets_ControlRegisters_1 : ∃ (s : State) (r : BitVec 11), Guard s 0 ∧ crAssigned r = true ∧ (crPriv r = true → Super s) ∧ Clean s 6 ∧
    crReadOnly r (isSuper (curCtx s)) = true := ⟨r0, 0x040, rfl, by decide, fun _ => rfl, rfl, by decide⟩
theorem test_meets_ControlRegisters_2 : ∃ (s w : State), Guard s 0 ∧ crAssigned 0x014 = true ∧ Super s ∧ Clean s 6 ∧
    crReadOnly 0x014 (isSuper (curCtx s)) = false ∧ writeCr (issued s) 0x014 (xv s 6) = some w :=
  ⟨xs 6 0x30000 r0, _, rfl, by decide, rfl, rfl, by decide, rfl⟩
theorem test_meets_ControlRegisters_3 : ∃ s, Guard s 0 ∧ Super s ∧ Clean s 6 ∧ crReadOnly 0x012 (isSuper (curCtx s)) = false ∧
    writeCr (issued s) 0x012 (xv s 6) = none ∧ NotInTrap s := ⟨xs 6 2 r0, rfl, rfl, rfl, by decide, by decide, rfl⟩
theorem test_meets_Status_good : ∃ s, Guard s 0 ∧ Super s ∧ Clean s 6 ∧ (xv s 6 &&& 0xFFFFFFFFFF00FF80) = 0 ∧ (xv s 6 >>> 3) &&& 3 ≤ 1 :=
  ⟨xs 6 0x4A r0, rfl, rfl, rfl, by decide, by decide⟩
theorem test_meets_Status_bad : ∃ s, Guard s 0 ∧ Super s ∧ Clean s 6 ∧ NotInTrap s ∧
    ¬ ((xv s 6 &&& 0xFFFFFFFFFF00FF80) = 0 ∧ (xv s 6 >>> 3) &&& 3 ≤ 1) := ⟨xs 6 0x10 r0, rfl, rfl, rfl, rfl, by decide⟩
theorem test_meets_Traps_1 : ∃ s, Guard s 0 ∧ NotInTrap s := ⟨r0, rfl, rfl⟩
theorem test_meets_Traps_2 : ∃ s, Guard s 0 ∧ ¬ NotInTrap s ∧ (curCore s).unit ≠ none ∧ (curCore s).removal = none :=
  ⟨inTrap vm, rfl, by unfold NotInTrap; decide, by decide, rfl⟩
theorem test_meets_Nesting_1 : ∃ i g d a o n f s, loadForm i = some (g, d, a, o, n, f) ∧ Guard s g ∧ Clean s a ∧ ¬ NotInTrap s ∧
    ¬ InSysWin (addrOf s a o n) ∧ plainXl s (isSuper (curCtx s)) .load (addrOf s a o n) n = .error 0x04 ∧ (curCtx s).nest = false :=
  ⟨.ld 5 6 3 0 0, 0, 5, 6, _, _, _, inTrap (xs 6 0x80000000 vm), rfl, rfl, rfl, by unfold NotInTrap; decide, by unfold InSysWin; decide, rfl, rfl⟩
theorem test_meets_Nesting_2 : ∃ i g d a o n f s, loadForm i = some (g, d, a, o, n, f) ∧ Guard s g ∧ Clean s a ∧ ¬ NotInTrap s ∧
    ¬ InSysWin (addrOf s a o n) ∧ plainXl s (isSuper (curCtx s)) .load (addrOf s a o n) n = .error 0x04 ∧ (curCtx s).nest = true ∧
    (curCore s).unit ≠ none ∧ (curCore s).removal = none :=
  ⟨.ld 5 6 3 0 0, 0, 5, 6, _, _, _, cx (fun c => { c with nest := true }) (inTrap (xs 6 0x80000000 vm)), rfl, rfl, rfl,
    by unfold NotInTrap; decide, by unfold InSysWin; decide, rfl, rfl, by decide, rfl⟩
theorem test_meets_TrapReturn_1 : ∃ s, Guard s 0 ∧ NotInTrap s := ⟨r0, rfl, rfl⟩
theorem test_meets_TrapReturn_2 : ∃ s, Guard s 0 ∧ ¬ NotInTrap s ∧ Super s ∧ (curCtx s).tsave &&& 0xFFFFFFFFFF00FF80 = 0 ∧
    (tsPm (curCtx s).tsave).toNat ≤ 1 ∧ (tsPpm (curCtx s).tsave).toNat ≤ 1 ∧ (curCtx s).stopped = none :=
  ⟨inTrap r0, rfl, by unfold NotInTrap; decide, rfl, by decide, by decide, by decide, rfl⟩
/-- A handler of entry 7 of the vector queue, to be resumed. -/
def engineHandler (e : Word) : State := cx (fun c => { c with tentry := e, stopped := some ⟨.vx, 7⟩, tsave := 0x40 }) (inTrap r0)
theorem test_meets_TrapReturn_3 : ∃ s i, ¬ NotInTrap s ∧ Super s ∧ (curCtx s).tsave &&& 0xFFFFFFFFFF00FF80 = 0 ∧
    (curCtx s).stopped = some i ∧ bitsAt (curCtx s).tentry 16 5 = engCode i.eng ∧ (curCtx s).tentry.setWidth 16 = i.index :=
  ⟨engineHandler 0x30007, _, by unfold NotInTrap; decide, rfl, by decide, rfl, by decide, by decide⟩
theorem test_meets_TrapReturn_4 : ∃ s i, ¬ NotInTrap s ∧ (curCtx s).stopped = some i ∧ bitsAt (curCtx s).tentry 16 5 = engCode i.eng ∧
    (curCtx s).tentry.setWidth 16 ≠ i.index ∧ (curCtx s).tentry.setWidth 16 ≠ i.index + 1 :=
  ⟨engineHandler 0x30009, _, by unfold NotInTrap; decide, rfl, by decide, by decide, by decide⟩
theorem test_meets_Wfe : ∃ s, Guard s 0 ∧ (curCtx s).latch = true := ⟨cx (fun c => { c with latch := true }) r0, rfl, rfl⟩
theorem test_meets_Cancel_super : ∃ s, Guard s 0 ∧ Clean s 6 ∧ Super s := ⟨r0, rfl, rfl, rfl⟩
theorem test_meets_Cancel_own : ∃ s, Guard s 0 ∧ Clean s 6 ∧ ¬ Super s ∧ ∃ u, (curCore s).unit = some u ∧ xv s 6 = u.lid.setWidth 64 :=
  ⟨user vm, rfl, rfl, by unfold Super; decide, _, rfl, by decide⟩
theorem test_meets_AccessTraps_prot : ∃ s, Guard s 0 ∧ Clean s 6 ∧ NotInTrap s ∧ 2 ^ 56 ≤ (addrOf s 6 0 8).toNat :=
  ⟨xs 6 0x0100000000000000 vm, rfl, rfl, rfl, by decide⟩
theorem test_meets_AccessTraps_align : ∃ s, (addrOf s 6 0 8).toNat < 2 ^ 56 ∧ ¬ InSysWin (addrOf s 6 0 8) ∧ (addrOf s 6 0 8).toNat % 8 ≠ 0 :=
  ⟨xs 6 0x20004 vm, by decide, by unfold InSysWin; decide, by decide⟩
theorem test_meets_AccessTraps_page : ∃ s, (addrOf s 6 0 8).toNat < 2 ^ 56 ∧ ¬ InSysWin (addrOf s 6 0 8) ∧ (addrOf s 6 0 8).toNat % 8 = 0 ∧
    walk s s.cur.core (addrOf s 6 0 8).toNat = none := ⟨xs 6 0x80000000 vm, by decide, by unfold InSysWin; decide, by decide, by decide⟩
/-- A page that only the supervisor may use. -/
def vmSuper : State := physPut vm textTable 8 0x17B
theorem test_meets_AccessTraps_denied : ∃ s l, (addrOf s 6 0 8).toNat < 2 ^ 56 ∧ ¬ InSysWin (addrOf s 6 0 8) ∧ (addrOf s 6 0 8).toNat % 8 = 0 ∧
    walk s s.cur.core (addrOf s 6 0 8).toNat = some l ∧ leafPermits l .load (isSuper (curCtx s)) = false :=
  ⟨user (xs 6 0x20000 vmSuper), _, by decide, by unfold InSysWin; decide, by decide, rfl, by decide⟩
theorem test_meets_Illegal : ∃ i s, ¬ encodingOk s i ∧ NotInTrap s := ⟨.enq 0 1 2 0 0, r0, by unfold encodingOk; decide, rfl⟩
theorem test_meets_Privileged : ∃ s, Guard s 0 ∧ ¬ Super s ∧ NotInTrap s := ⟨user r0, rfl, by unfold Super; decide, rfl⟩
theorem test_meets_Poisoned : ∃ i g l r s, consumed i = some (g, l) ∧ Guard s g ∧ NotInTrap s ∧ l.find? (fun n => (xr s n).poison) = some r :=
  ⟨.st 5 6 0 0 0, 0, _, 6, xp 6 r0, rfl, rfl, rfl, by decide⟩
theorem test_meets_Waiting_kwait : ∃ i g w v s, waitForm i = some (g, w, v) ∧ Guard s g ∧ w s ∧ (curCtx s).wait = none ∧
    preempting s s.cur.core = false :=
  ⟨.kwait 6 31 0, 0, _, _, xs 6 1 r0, rfl, rfl, ⟨rfl, by decide, by decide⟩, rfl, by decide⟩
theorem test_meets_Waiting_rrecv : ∃ i g w v s, waitForm i = some (g, w, v) ∧ Guard s g ∧ w s ∧ (curCtx s).wait = none :=
  ⟨.rrecv 6 0 0, 0, _, _, r0, rfl, rfl, ⟨rfl, rfl, by decide⟩, rfl⟩
theorem test_meets_Waiting_cwait : ∃ i g w v s, waitForm i = some (g, w, v) ∧ Guard s g ∧ w s ∧ (curCtx s).wait = none :=
  ⟨.cwait 7 0, 0, _, _, cl (fun c => { c with barriers := [(7, { g := 0, t := [(0, 1)] })] }) r0, rfl, rfl, by decide, rfl⟩
theorem test_meets_Waiting_waitv : ∃ s x, Guard s 0 ∧ Clean s 6 ∧ Clean s 7 ∧ cohXl s (isSuper (curCtx s)) false (xv s 6) 8 = .ok x ∧
    physMark s x.pa 8 = false ∧ physNat s x.pa 8 < (xv s 7).toNat ∧ (curCtx s).wait = none ∧ preempting s s.cur.core = false :=
  ⟨xs 7 1 (xs 6 0x20000 vm), _, rfl, rfl, rfl, rfl, by decide, by decide, rfl, by decide⟩
theorem test_meets_Waiting_enq : ∃ i g w v s, waitForm i = some (g, w, v) ∧ Guard s g ∧ w s ∧ (curCtx s).wait = none :=
  ⟨.enq 3 6 7 0 0, 0, _, _, stored (List.replicate 256 { w := 0, modes := {} }), rfl, rfl,
    ⟨.vx, rfl, rfl, fun _ => rfl, by decide⟩, rfl⟩
theorem test_meets_Waiting_wfe : ∃ i g w v s, waitForm i = some (g, w, v) ∧ Guard s g ∧ w s ∧ (curCtx s).wait = none :=
  ⟨.wfe 0, 0, _, _, r0, rfl, rfl, ⟨rfl, rfl⟩, rfl⟩
theorem test_meets_PsetRule : ∃ s, Guard s 0 ∧ ¬ Clean s 6 ∧ NotInTrap s := ⟨xp 6 r0, rfl, by unfold Clean; decide, rfl⟩
theorem test_meets_SelRule : ∃ s, Guard s 0 ∧ Clean s 6 := ⟨r0, rfl, rfl⟩

/-! Witnesses of the statements about engines. -/

/-- One word at the head of a queue, and the parameter stack. -/
def engQ (e : Eng) (w : BitVec 16) (st : List Word) (s : State) : State :=
  { qu e (fun q => { q with words := [{ w := w, modes := {} }], set := { q.set with stack := st } }) s with curEng := e }
theorem test_meets_ControlWords : ∃ i n push f s, controlForm i = some (n, push, f) ∧ (headQueue s s.curEng).stop = none ∧
    (headQueue s s.curEng).entry = none ∧ n ≤ (headQueue s s.curEng).set.stack.length ∧ (push = true → (headQueue s s.curEng).set.stack.length < 8) ∧
    (headQueue s s.curEng).set.marks = 0 ∧ ((headQueue s s.curEng).wordAt.1 = s.cyc.toNat → (headQueue s s.curEng).wordAt.2 < 4) :=
  ⟨.overW, 2, true, _, qu .vx (fun q => { q with wordAt := (0, 3) }) (engQ .vx 0 (List.replicate 7 0) r0), rfl, rfl, rfl, by decide, by decide,
    rfl, by decide⟩
theorem test_meets_ControlWords_short : ∃ i n push f s w, controlForm i = some (n, push, f) ∧ encode i = .w16 w ∧ (headQueue s s.curEng).stop = none ∧
    (headQueue s s.curEng).entry = none ∧ (headQueue s s.curEng).set.stack.length < n :=
  ⟨.rot, 3, false, _, engQ .cp 0 [1, 2] r0, _, rfl, rfl, rfl, rfl, by decide⟩
theorem test_meets_ControlWords_deep : ∃ i n push f s w, controlForm i = some (n, push, f) ∧ encode i = .w16 w ∧ (headQueue s s.curEng).stop = none ∧
    (headQueue s s.curEng).entry = none ∧ n ≤ (headQueue s s.curEng).set.stack.length ∧ push = true ∧ 8 ≤ (headQueue s s.curEng).set.stack.length :=
  ⟨.lit 5, 0, true, _, engQ .mx 0 (List.replicate 8 0) r0, _, rfl, rfl, rfl, rfl, by decide, rfl, by decide⟩
/-- VADD of registers 1 and 2 into 3. -/
def vadds : State := engQ .vx 0x4200 [0x213] r0
theorem canStart_vadd : CanStart vadds vaddSpec 0 where
  running := ⟨rfl, rfl, rfl⟩
  depth := by decide
  clean := rfl
  words := .inl rfl
  noSlot := rfl
  waitks := ⟨(fun _ h => nomatch h), rfl⟩
  tokens := by decide
  tiles := by decide
  lastEnd := by decide
  held := rfl
  free := fun _ _ h => nomatch h
  array := fun h => absurd h (by decide)
  power := .inl ⟨rfl, by decide, by decide⟩
theorem starts_vadd : Starts vadds vaddSpec 0 := ⟨canStart_vadd, rfl, rfl⟩
theorem test_meets_LaunchStarts : ∃ e op mk L f s, specOf e op = some (mk, L) ∧ CanStart s L f ∧ (entryRun s L f).nullified = false ∧
    L.check (considered s L) s.cur.core (entryAt s L f) = none ∧ ∃ u fl, L.run (begun s L f) s.cur.core (entryRun s L f) = .done u fl :=
  ⟨.vx, 4, _, vaddSpec, 0, vadds, rfl, canStart_vadd, rfl, rfl, _, _, rfl⟩
def vnulls : State := qu .vx (fun q => { q with set := { q.set with latch := false } }) vadds
theorem canStart_vnulls : CanStart vnulls vaddSpec 0b10 :=
  ⟨⟨rfl, rfl, rfl⟩, by decide, rfl, .inl rfl, rfl, ⟨(fun _ h => nomatch h), rfl⟩, by decide, by decide, by decide, rfl,
    (fun _ _ h => nomatch h), fun h => absurd h (by decide), .inl ⟨rfl, by decide, by decide⟩⟩
theorem test_meets_LaunchStarts_nullified : ∃ s f, CanStart s vaddSpec f ∧ (entryRun s vaddSpec f).nullified = true ∧
    vaddSpec.check (considered s vaddSpec) s.cur.core (entryAt s vaddSpec f) = none := ⟨vnulls, 0b10, canStart_vnulls, rfl, rfl⟩
/-- R282: TY 2 is not a type of VADD. -/
def vbad : State := engQ .vx 0x4200 [0x20213] r0
theorem canStart_vbad : CanStart vbad vaddSpec 0 :=
  ⟨⟨rfl, rfl, rfl⟩, by decide, rfl, .inl rfl, rfl, ⟨(fun _ h => nomatch h), rfl⟩, by decide, by decide, by decide, rfl,
    (fun _ _ h => nomatch h), fun h => absurd h (by decide), .inl ⟨rfl, by decide, by decide⟩⟩
theorem test_meets_LaunchHolds_check : ∃ s f sub, CanStart s vaddSpec f ∧ (entryAt s vaddSpec f).nullified = false ∧
    vaddSpec.check (considered s vaddSpec) s.cur.core (entryAt s vaddSpec f) = some (.engerr sub) := ⟨vbad, 0, 11, canStart_vbad, rfl, rfl⟩
theorem test_meets_LaunchHolds_short : ∃ s, (headQueue s .vx).stop = none ∧ (headQueue s .vx).entry = none ∧
    (headQueue s .vx).set.stack.length < vaddSpec.pops := ⟨engQ .vx 0x4200 [] r0, rfl, rfl, by decide⟩
/-- A WAITK that asks for 1 unit of semaphore 3 has gone by. -/
def waitingK : State := qu .vx (fun q => { q with pos := 1, waitks := [(3, 1)] }) vadds
theorem test_meets_LaunchHolds_waits : ∃ s, (headQueue s .vx).stop = none ∧ (headQueue s .vx).entry = none ∧
    vaddSpec.pops ≤ (headQueue s .vx).set.stack.length ∧ marked (headQueue s .vx) vaddSpec.pops = false ∧ (headQueue s .vx).slot = none ∧
    ∃ k ∈ (headQueue s .vx).waitks, (semOf s s.cur.core k.1).count.toNat < k.2.toNat :=
  ⟨waitingK, rfl, rfl, by decide, rfl, rfl, (3, 1), .head _, by decide⟩
theorem test_meets_VectorElements : ∃ i L f n g s, elementForm i = some (L, f, n, g) ∧ Starts s L f := ⟨.vadd 0, _, 0, 2, _, vadds, rfl, starts_vadd⟩
theorem test_meets_VectorElements_1 : ∃ i L f s, registerWord i = some (L, f) ∧ Starts s L f := ⟨.vadd 0, _, 0, vadds, rfl, starts_vadd⟩
theorem test_meets_VectorElements_iota : ∃ f s, Starts s viotaSpec f :=
  ⟨0, engQ .vx 0x4D80 [0xFFFF00010001] r0, ⟨⟨rfl, rfl, rfl⟩, by decide, rfl, .inl rfl, rfl, ⟨(fun _ h => nomatch h), rfl⟩, by decide, by decide, by decide, rfl,
    (fun _ _ h => nomatch h), fun h => absurd h (by decide), .inl ⟨rfl, by decide, by decide⟩⟩, rfl, rfl⟩
/-- MX words of the core that holds the lease; the bank is dirty. -/
def mxs (w : BitVec 16) (st : List Word) : State := engQ .mx w st (leased true)
theorem canStart_mzero : CanStart (mxs 0x4080 [3]) mzeroSpec 0 :=
  ⟨⟨rfl, rfl, rfl⟩, by decide, rfl, .inl rfl, rfl, ⟨(fun _ h => nomatch h), rfl⟩, by decide, by decide, by decide, rfl, fun h => absurd rfl h,
    fun _ => ⟨by decide, (fun _ h => nomatch h), by decide, by decide, rfl, rfl⟩, .inl ⟨rfl, by decide, by decide⟩⟩
theorem canStart_mpark : CanStart (mxs 0x4200 []) mparkSpec 0 :=
  ⟨⟨rfl, rfl, rfl⟩, by decide, rfl, .inl rfl, rfl, ⟨(fun _ h => nomatch h), rfl⟩, by decide, by decide, by decide, rfl, fun h => absurd rfl h,
    fun _ => ⟨by decide, (fun _ h => nomatch h), by decide, by decide, rfl, rfl⟩, .inl ⟨rfl, by decide, by decide⟩⟩
theorem canStart_munpark : CanStart (mxs 0x4280 []) munparkSpec 0 :=
  ⟨⟨rfl, rfl, rfl⟩, by decide, rfl, .inl rfl, rfl, ⟨(fun _ h => nomatch h), rfl⟩, by decide, by decide, by decide, rfl, fun h => absurd rfl h,
    fun _ => ⟨by decide, (fun _ h => nomatch h), by decide, by decide, rfl, rfl⟩, .inl ⟨rfl, by decide, by decide⟩⟩
theorem test_meets_EngineState_mx : ∃ i L f s, stashWord i = some (L, f) ∧ L.eng = .mx ∧ Starts s L f ∧ (curClus s).array.verdictFail = 0 ∧ NoMaps s :=
  ⟨.mzero 0, _, 0, _, rfl, rfl, ⟨canStart_mzero, rfl, rfl⟩, rfl, noMaps_of (by decide)⟩
theorem test_meets_EngineState_park : (∃ s, Starts s mparkSpec 0 ∧ (curClus s).array.verdictFail = 0) ∧ ∃ s, Starts s munparkSpec 0 :=
  ⟨⟨_, ⟨canStart_mpark, rfl, rfl⟩, rfl⟩, _, canStart_munpark, rfl, rfl⟩
theorem canStart_rttab : CanStart (engQ .rw 0x4380 [255] r0) rttabSpec 0 :=
  ⟨⟨rfl, rfl, rfl⟩, by decide, rfl, .inl rfl, rfl, ⟨(fun _ h => nomatch h), rfl⟩, by decide, by decide, by decide, rfl,
    (fun _ _ h => nomatch h), fun h => absurd h (by decide), .inl ⟨rfl, by decide, by decide⟩⟩
theorem test_meets_EngineState_rttab : ∃ s, Starts s rttabSpec 0 := ⟨_, canStart_rttab, rfl, rfl⟩
/-- R305: 64 bytes of the core's own stash, overlapping. -/
def cpys : State := engQ .cp 0x4000 [64, 0x4000000000000020, 0x4000000000000000] vm
theorem canStart_cpy : CanStart cpys cpySpec 0 :=
  ⟨⟨rfl, rfl, rfl⟩, by decide, rfl, .inl rfl, rfl, ⟨(fun _ h => nomatch h), rfl⟩, by decide, by decide, by decide, rfl,
    (fun _ _ h => nomatch h), fun h => absurd h (by decide), .inl ⟨rfl, by decide, by decide⟩⟩
theorem test_meets_EngineState_cpy : ∃ s, Starts s cpySpec 0 ∧ s.pace = 0 ∧ adSpc ((headQueue s .cp).set.stack.getD 2 0) = 1 ∧
    adSpc ((headQueue s .cp).set.stack.getD 1 0) = 1 ∧ stashRank (adAddr ((headQueue s .cp).set.stack.getD 2 0)) = s.cur.core.rank ∧
    stashRank (adAddr ((headQueue s .cp).set.stack.getD 1 0)) = s.cur.core.rank ∧ (curCore s).maps = [] :=
  ⟨cpys, ⟨canStart_cpy, rfl, rfl⟩, rfl, by decide, by decide, by decide, by decide, rfl⟩

/-! Words that read and write a stash or memory, and those that stay in progress. -/

/-- Tile 3, of 4 rows of 4 FP32 elements, bound. -/
def tiled (st : TileSt) (s : State) : State :=
  co (fun c => { c with tiles := [(3, { base := 0x1000, pitch := 8, fmt := 1, cols := 3, rows := 3, bound := true, st := st })] }) s
def stzs : State := engQ .st 0x4180 [3] (tiled .empty vm)
theorem starts_stz : Starts stzs stzSpec 0 := ⟨⟨⟨rfl, rfl, rfl⟩, by decide, rfl, .inl rfl, rfl, ⟨(fun _ h => nomatch h), rfl⟩, by decide, by decide, by decide, rfl,
    (fun _ _ h => nomatch h), fun h => absurd h (by decide), .inl ⟨rfl, by decide, by decide⟩⟩, rfl, rfl⟩
theorem test_meets_VectorElements_2 : ∃ i L f s, stashWord i = some (L, f) ∧ L.eng ≠ .mx ∧ Starts s L f ∧ NoMaps s :=
  ⟨.stZ 0, _, 0, stzs, rfl, by decide, starts_stz, noMaps_of (by decide)⟩
/-- 20: the lower triangle of A in bank 0 of the leased array. -/
def matrixA : SMap (BitVec 32) :=
  [(0, 0x40800000), (128, 0x40000000), (129, 0x40A00000), (256, 0x40000000), (257, 0x40400000), (258, 0x40000000),
   (384, 0x40000000), (385, 0x3F800000), (386, 0x40000000), (387, 0x40A00000)]
def chols (frec : Word) : State :=
  cl (fun c => { c with leaseHolder := some 0, array := { c.array with bank0 := { w := matrixA, dirty := true } } }) (engQ .mx 0x4800 [3, frec] vm)
theorem starts_chol (frec : Word) (h : frec = 0x30000 ∨ frec = 0x80030000) : Starts (chols frec) mcholSpec 0 := by
  rcases h with rfl | rfl <;> exact ⟨⟨⟨rfl, rfl, rfl⟩, by decide, rfl, .inl rfl, rfl, ⟨(fun _ h => nomatch h), rfl⟩, by decide, by decide, by decide, rfl, fun h => absurd rfl h,
    fun _ => ⟨by decide, (fun _ h => nomatch h), by decide, by decide, rfl, rfl⟩, .inl ⟨rfl, by decide, by decide⟩⟩, rfl, rfl⟩
theorem test_meets_EngineState_step : ∃ i k L f s, stepWord i = some (k, L, f) ∧ Starts s L f ∧ (curClus s).array.verdictFail = 0 ∧
    (op (opsOf s L) 0).getLsbD 31 = false ∧ (entryAt s L f).modes.brkt = false :=
  ⟨.mchol 0, _, _, 0, chols 0x30000, rfl, starts_chol _ (.inl rfl), rfl, by decide, rfl⟩
theorem test_meets_LaunchHolds_step : ∃ i k L f s, stepWord i = some (k, L, f) ∧ Starts s L f ∧ (curClus s).array.verdictFail = 0 ∧
    (op (opsOf s L) 0).getLsbD 31 = true := ⟨.mchol 0, _, _, 0, chols 0x80030000, rfl, starts_chol _ (.inr rfl), rfl, by decide⟩
/-- An entry in progress at cycle n. -/
def handed (e : Eng) (en : Entry) (n : Word) (s : State) : State := { qu e (fun q => { q with entry := some en }) s with cyc := n }
def cholEntry : Entry := { entryAt (chols 0x80030000) mcholSpec 0 with prog := 3 }
def cholHand : State := handed .mx cholEntry 10000 (chols 0x80030000)
theorem test_meets_LaunchHolds_step_on : ∃ i k L f s en, stepWord i = some (k, L, f) ∧ InHand s L en ∧ en.prog ≠ 0 ∧
    en.startAt + facOcc k (fcN (op en.ops 1)) (fcJ0 (op en.ops 1)) (en.prog - 1) ≤ s.cyc.toNat ∧ en.modes.brkt = false ∧ NoMaps s :=
  ⟨.mchol 0, _, _, 0, cholHand, cholEntry, rfl, ⟨rfl, ⟨rfl, rfl⟩, ⟨rfl, rfl⟩, fun _ => ⟨by decide, rfl⟩⟩, by decide, by decide, rfl,
    noMaps_of (by decide)⟩
/-- R248: a drain of bank 0 that adds one FP32 row of 4 into tile 3. -/
def drains : State := engQ .mx 0x4180 [0x8300A, 3, 0] (tiled .ready (leased true))
theorem starts_drain : Starts drains mdrainSpec 0 := ⟨⟨⟨rfl, rfl, rfl⟩, by decide, rfl, .inl rfl, rfl, ⟨(fun _ h => nomatch h), rfl⟩, by decide, by decide, by decide, rfl, fun h => absurd rfl h,
    fun _ => ⟨by decide, (fun _ h => nomatch h), by decide, by decide, rfl, rfl⟩, .inl ⟨rfl, by decide, by decide⟩⟩, rfl, rfl⟩
theorem test_meets_LaunchHolds_drain : ∃ s, Starts s mdrainSpec 0 ∧ dcAcc (op (opsOf s mdrainSpec) 2) = true ∧
    dcDest (op (opsOf s mdrainSpec) 2) ≠ 0 := ⟨drains, starts_drain, by decide, by decide⟩
/-- A drain of the entry that has read bank 0 and has its rows still to commit, at cycle 8. -/
def lateRun (en : Entry) : Running :=
  { index := en.index, opc := 3, startAt := 0, doneAt := 8, completeAt := 8, weight := 8, flags := 0, pushes := [], sigks := [], tiles := [],
    banks := [0], late := some ⟨en, {}⟩ }
def lateState (en : Entry) (s : State) : State :=
  { qu .mx (fun q => { q with words := [], running := [lateRun en] }) s with cyc := 8, curEng := .mx }
def drainEntry : Entry := entryAt drains mdrainSpec 0
theorem test_meets_LaunchHolds_drain_on : ∃ s r l, s.curEng = .mx ∧ s.cur.kind = feederOf .mx ∧ (queueOf s s.cur.core .mx).running = [r] ∧
    r.late = some l ∧ (queueOf s s.cur.core .mx).stop = none ∧ (queueOf s s.cur.core .mx).redo = false ∧
    (queueOf s s.cur.core .mx).redoFrom = none ∧ (curCore s).removal = none ∧ (curClus s).array.verdictFail = 0 ∧
    l.en.prog < dcM (op l.en.ops 2) ∧ verdictAt l.en (dcM (op l.en.ops 2)) + dcM (op l.en.ops 2) ≤ s.cyc.toNat + 1 ∧
    r.completeAt ≤ s.cyc.toNat ∧ pushBlocked (curCore s) .mx r = false ∧ dcDest (op l.en.ops 2) = 1 ∧ NoMaps s ∧ NoDirty s :=
  ⟨lateState drainEntry drains, lateRun drainEntry, ⟨drainEntry, {}⟩, rfl, rfl, rfl, rfl, rfl, rfl, rfl, rfl, rfl, by decide, by decide, by decide,
    by decide, by decide, noMaps_of (by decide), noDirty_of rfl rfl⟩
theorem test_meets_LaunchStarts_stash : ∃ i L f s ok, memoryWord (begun s L f) (entryAt s L f).modes.super (opsOf s L) i = some (L, f, ok) ∧
    Starts s L f ∧ s.pace = 0 ∧ NoMaps s ∧ NoDirty s ∧ ok :=
  ⟨.cpy 0, _, 0, cpys, _, rfl, ⟨canStart_cpy, rfl, rfl⟩, rfl, noMaps_of (by decide), noDirty_of rfl rfl, .inl (by decide), .inl (by decide)⟩

/-- The first GiB, cached in both TLBs. -/
def leaf0 : Leaf := { pa := 0, size := 2 ^ 30, va := 0, cls := 2, fmt := 0, geom := 0, scl := 0, w0 := 0x1FB, entry := textTable }
def vmTlb : State :=
  cl (fun c => { c with tlb := [⟨asidOf vm k0, leaf0⟩] }) (co (fun c => { c with tlb := [⟨asidOf vm k0, leaf0⟩] }) vm)
/-- What a page needs: its leaf in both TLBs and in tables that the walk finds, outside the bytes of `out`. -/
theorem engXl_of {out : Nat → Prop} {s : State} {sup : Bool} {k : Acc} {fmt : BitVec 4} {va : Nat} {l : Leaf}
    (hw : (dieOf s s.cur.core.die).walks = []) (hr : rootOf s s.cur.core % 2 ^ 21 = 0)
    (hv : ∀ e ∈ visited s va 4 1 (rootOf s s.cur.core), ∀ j, j < 8 → ¬ out (e + j))
    (hl : (walkFrom s [] (asidOf s s.cur.core) va 4 1 (rootOf s s.cur.core)).1 = some l)
    (ht : tlbFind (engL1 s) s s.cur.core va = some ⟨asidOf s s.cur.core, l⟩)
    (hva : (decide (2 ^ 56 ≤ va) || isSysWin va) = false)
    (hp : (!leafPermits l k sup || !paAllowed s s.cur.core l.cls (l.pa + (va - l.va))) = false)
    (hf : leafFmtOk l fmt = true) (u : State) (h : Later out s u) :
    engXl u s.cur.core sup k fmt va = .ok { pa := l.pa + (va - l.va), leaf := l } := by
  have ht' : teamOf u s.cur.core = teamOf s s.cur.core := by unfold teamOf; rw [(h.clusters _).1]
  have ha : asidOf u s.cur.core = asidOf s s.cur.core := by unfold asidOf; rw [ht']
  have hro : rootOf u s.cur.core = rootOf s s.cur.core := by unfold rootOf; rw [ht']
  have hpo : partOf u s.cur.core = partOf s s.cur.core := by unfold partOf; rw [ht']
  have hwf : walkFrom u [] (asidOf s s.cur.core) va 4 1 (rootOf s s.cur.core) =
      walkFrom s [] (asidOf s s.cur.core) va 4 1 (rootOf s s.cur.core) :=
    walkFrom_congr _ _ _ _ _ fun e he => h.mem e (hv e he)
  have hwt : (walkTeam u s.cur.core va).1 = some l := by
    unfold walkTeam
    dsimp only
    have hin {x y : Option Leaf × List PtrEnt} : (if rootOf s s.cur.core % 2 ^ 21 ≠ 0 then x else y) = y := if_neg (fun n => n hr)
    rw [hro, ha, (h.dies _).1, hw, List.filter_nil, hwf, hin, if_pos (by rw [hl]; rfl), hl]
  have hl1 : engL1 u = engL1 s := by unfold engL1; rw [h.cur.2]
  have htl : tlbFind (engL1 s) u s.cur.core va = some ⟨asidOf s s.cur.core, l⟩ := by
    unfold tlbFind at ht ⊢
    rw [h.cores, (h.clusters _).2, ha, ht]
  have hwk : walkBy (engL1 s) u s.cur.core va = some l := by
    unfold walkBy
    rw [htl]
    dsimp only
    split
    · rfl
    · exact hwt
  have hpa : paAllowed u s.cur.core l.cls (l.pa + (va - l.va)) = paAllowed s s.cur.core l.cls (l.pa + (va - l.va)) := by
    unfold paAllowed paReached
    simp only [hpo, h.pkg.1, h.pkg.2.2.2, h.las, (h.dies _).2]
  unfold engXl Machine.translateBy
  rw [hl1, hva, hwk]
  simp [hpa, hp, hf]

theorem later_refl (out : Nat → Prop) (s : State) : Later out s s :=
  ⟨⟨rfl, rfl⟩, fun _ => rfl, fun _ => ⟨rfl, rfl⟩, fun _ => ⟨rfl, rfl⟩, fun _ => rfl, ⟨rfl, rfl, rfl, fun _ => rfl⟩, fun _ _ => rfl⟩

/-- R230: one word of 8 bytes at 0x20000 for q.lx. -/
def ldrs : State := engQ .ld 0x4200 [1, 0x20000] vmTlb
theorem starts_ldr : Starts ldrs ldrSpec 0 := ⟨⟨⟨rfl, rfl, rfl⟩, by decide, rfl, .inl rfl, rfl, ⟨(fun _ h => nomatch h), rfl⟩, by decide, by decide, by decide, rfl,
    (fun _ _ h => nomatch h), fun h => absurd h (by decide), .inl ⟨rfl, by decide, by decide⟩⟩, rfl, rfl⟩
theorem test_meets_LaunchHolds_ldr : ∃ s, Starts s ldrSpec 0 := ⟨_, starts_ldr⟩
def ldrEntry : Entry := entryAt ldrs ldrSpec 0
def ldrHand : State := handed .ld ldrEntry 1 ldrs
theorem test_meets_LaunchHolds_ldr_on : ∃ s en, InHand s ldrSpec en ∧ en.startAt < s.cyc.toNat ∧
    ringLevel s s.cur.core 0 + ((op en.ops 1).toNat - en.prog) ≤ 64 ∧ NoMaps s ∧ NoDirty s ∧
    RangeOk noOut s en.modes.super .load 0 ((op en.ops 0).toNat + 8 * en.prog) (8 * ((op en.ops 1).toNat - en.prog)) := by
  refine ⟨ldrHand, ldrEntry, ⟨rfl, ⟨rfl, rfl⟩, ⟨rfl, rfl⟩, fun h => absurd h (by decide)⟩, by decide, by decide, noMaps_of (by decide),
    noDirty_of rfl rfl, fun a h1 h2 => ?_⟩
  have e1 : (op ldrEntry.ops 0).toNat + 8 * ldrEntry.prog = 0x20000 := rfl
  have e2 : 8 * ((op ldrEntry.ops 1).toNat - ldrEntry.prog) = 8 := rfl
  rw [e1] at h1 h2
  rw [e2] at h2
  obtain ⟨j, rfl⟩ : ∃ j : Fin 8, a = 0x20000 + j.val := ⟨⟨a - 0x20000, by omega⟩, by simp; omega⟩
  have hc : Cached ldrHand leaf0 := by unfold Cached; decide
  refine ⟨_, engXl_of (l := leaf0) rfl rfl (fun _ _ _ _ h => h) ?_ ?_ ?_ ?_ rfl, hc, fun h => nomatch h⟩ <;> revert j <;> decide
/-- R251: a drain of one FP32 row of 4 into the private page at 0x20000. -/
def vmOwn : State := physPut vm textTable 8 0x1F3
def leafOwn : Leaf := { leaf0 with cls := 0, w0 := 0x1F3 }
def drainsM : State :=
  engQ .mx 0x4180 [0x8300C, 0x20000, 16] (cl (fun c => { c with tlb := [⟨asidOf vm k0, leafOwn⟩], leaseHolder := some 0 })
    (co (fun c => { c with tlb := [⟨asidOf vm k0, leafOwn⟩] }) vmOwn))
def drainEntryM : Entry := entryAt drainsM mdrainSpec 0
def drainHandM : State := lateState drainEntryM drainsM
theorem drainHandM_xl (out : Nat → Prop) (k : Acc) (hk : k ≠ .fetch) (j : Fin 16)
    (hv : ∀ e ∈ visited drainHandM (0x20000 + j.val) 4 1 (rootOf drainHandM k0), ∀ i, i < 8 → ¬ out (e + i)) :
    ∀ u, Later out drainHandM u → engXl u k0 false k 1 (0x20000 + j.val) = .ok ⟨0x20000 + j.val, leafOwn⟩ := by
  intro u h
  have e : leafOwn.pa + (0x20000 + j.val - leafOwn.va) = 0x20000 + j.val := by simp [leafOwn, leaf0]
  refine (engXl_of (l := leafOwn) (s := drainHandM) (fmt := 1) rfl rfl hv ?_ ?_ ?_ ?_ (by decide) u h).trans (by rw [e])
  · clear hv; revert j; decide
  · clear hv; revert j; decide
  · clear hv; revert j; decide
  · cases k with
    | fetch => exact absurd rfl hk
    | load => clear hv; revert j; decide
    | store => clear hv; revert j; decide
theorem test_meets_LaunchHolds_drain_memory : ∃ s r l en, s.curEng = .mx ∧ (queueOf s s.cur.core .mx).running = [r] ∧ r.late = some l ∧
    l.en = en ∧ (curClus s).array.verdictFail = 0 ∧ NoMaps s ∧ NoDirty s ∧ dcDest (op en.ops 2) = 2 ∧ dcFmt (op en.ops 2) = 1 ∧
    RegionOk (regionOut s en.modes.super (drainRegion en.ops)) s en.modes.super .load (drainRegion en.ops) ∧
    RegionOk (regionOut s en.modes.super (drainRegion en.ops)) s en.modes.super .store (drainRegion en.ops) ∧
    ∀ i a x, i < (drainRegion en.ops).rows → (drainRegion en.ops).va + i * (drainRegion en.ops).pitch ≤ a →
      a < (drainRegion en.ops).va + i * (drainRegion en.ops).pitch + regionRow (drainRegion en.ops) →
      engXl s s.cur.core en.modes.super .store 1 a = .ok x → x.leaf.cls ≠ 1 := by
  have hrow : regionRow (drainRegion drainEntryM.ops) = 16 := by decide
  have at0 : ∀ i a, i < (drainRegion drainEntryM.ops).rows → (drainRegion drainEntryM.ops).va + i * (drainRegion drainEntryM.ops).pitch ≤ a →
      a < (drainRegion drainEntryM.ops).va + i * (drainRegion drainEntryM.ops).pitch + regionRow (drainRegion drainEntryM.ops) →
      ∃ j : Fin 16, a = 0x20000 + j.val := by
    intro i a hi h1 h2
    have hi0 : i = 0 := Nat.lt_one_iff.1 hi
    have hva : (drainRegion drainEntryM.ops).va = 0x20000 := rfl
    rw [hrow] at h2
    subst hi0
    rw [hva] at h1 h2
    exact ⟨⟨a - 0x20000, by omega⟩, by simp; omega⟩
  have direct : ∀ j : Fin 16, ∀ x, engXl drainHandM k0 false .store 1 (0x20000 + j.val) = .ok x → x = ⟨0x20000 + j.val, leafOwn⟩ := by
    intro j x hx
    have := hx.symm.trans (drainHandM_xl noOut .store (by decide) j (fun _ _ _ _ h => h) _ (later_refl _ _))
    injection this
  have hout : ∀ a, regionOut drainHandM false (drainRegion drainEntryM.ops) a → a < 0x20000 + 32 := by
    rintro a ⟨i, hi, b, x, hb, hb', hx, hlo, hhi⟩
    obtain ⟨j, rfl⟩ := at0 i b hi hb hb'
    rw [direct j x hx, hrow] at hhi
    have := j.isLt
    simp at hhi
    omega
  have hfar : ∀ j : Fin 16, ∀ e ∈ visited drainHandM (0x20000 + j.val) 4 1 (rootOf drainHandM k0), 0x20040 ≤ e := by decide
  have hc : Cached drainHandM leafOwn := by unfold Cached; decide
  have hok : ∀ k : Acc, k ≠ .fetch → RegionOk (regionOut drainHandM false (drainRegion drainEntryM.ops)) drainHandM false k (drainRegion drainEntryM.ops) := by
    intro k hk i hi
    rw [if_neg (by decide)]
    intro a h1 h2
    obtain ⟨j, rfl⟩ := at0 i a hi h1 h2
    refine ⟨_, drainHandM_xl _ k hk j fun e he n hn h => ?_, hc, fun _ => (by decide : natBit leafOwn.w0 8 = true)⟩
    have := hfar j e he
    have := hout _ h
    omega
  refine ⟨drainHandM, lateRun drainEntryM, ⟨drainEntryM, {}⟩, drainEntryM, rfl, rfl, rfl, rfl, rfl, noMaps_of (by decide), noDirty_of rfl rfl,
    by decide, by decide, hok _ (by decide), hok _ (by decide),
    fun i a x hi h1 h2 hx => ?_⟩
  obtain ⟨j, rfl⟩ := at0 i a hi h1 h2
  rw [direct j x hx]
  exact (by decide : leafOwn.cls ≠ 1)
/-- R305: one byte at 0x20000 filled. -/
def fills0 : State := engQ .cp 0x4480 [1, 0xAB, 0x20000] vmTlb
theorem starts_fill : Starts fills0 cfillSpec 0 := ⟨⟨⟨rfl, rfl, rfl⟩, by decide, rfl, .inl rfl, rfl, ⟨(fun _ h => nomatch h), rfl⟩, by decide, by decide, by decide, rfl,
    (fun _ _ h => nomatch h), fun h => absurd h (by decide), .inl ⟨rfl, by decide, by decide⟩⟩, rfl, rfl⟩
theorem test_meets_LaunchStarts_memory : ∃ i L f s ok, memoryWord (begun s L f) (entryAt s L f).modes.super (opsOf s L) i = some (L, f, ok) ∧
    Starts s L f ∧ s.pace = 0 ∧ NoMaps s ∧ NoDirty s ∧ ok := by
  refine ⟨.cfill 0, _, 0, fills0, _, rfl, starts_fill, rfl, noMaps_of (by decide), noDirty_of rfl rfl, .inr fun j _ a h1 h2 => ?_⟩
  have ha : a = 0x20000 := Nat.le_antisymm (Nat.le_of_lt_succ h2) h1
  subst ha
  have hc : Cached (begun fills0 cfillSpec 0) leaf0 := by unfold Cached; decide
  have hx : ∀ out, (∀ e ∈ visited (begun fills0 cfillSpec 0) 0x20000 4 1 (rootOf (begun fills0 cfillSpec 0) k0), ∀ j, j < 8 → ¬ out (e + j)) →
      ∀ u, Later out (begun fills0 cfillSpec 0) u → engXl u k0 false .store 15 0x20000 = .ok ⟨0x20000, leaf0⟩ :=
    fun out hv => engXl_of (l := leaf0) rfl rfl hv rfl rfl rfl rfl rfl
  refine ⟨_, hx _ ?_, hc, fun _ => rfl⟩
  rintro e he k hk ⟨_, i, hi, b, x, hb, hb', hbx, hlo, hhi⟩
  have hb0 : b = 0x20000 := Nat.le_antisymm (Nat.le_of_lt_succ hb') hb
  subst hb0
  have h1 := hx noOut (fun _ _ _ _ h => h) _ (later_refl _ _)
  have h2 : x.pa = 0x20000 := by
    have := hbx.symm.trans h1
    injection this with this
    rw [this]
  have h3 : ∀ e ∈ visited (begun fills0 cfillSpec 0) 0x20000 4 1 (rootOf (begun fills0 cfillSpec 0) k0), 0x20001 ≤ e := by decide
  have h4 := h3 e he
  have h5 : e + k < x.pa + 1 := hhi
  omega

/-! Witnesses of the statements about events. -/

theorem test_meets_WaitEvents_1 : ∃ ev c f s v i, endsWait ev = some (c, f) ∧ (ctxOf s c).wait = some v ∧ f v.what = some i ∧ Acts s c ∧ semFirst s c = true :=
  ⟨.kwaitRelease c0, c0, _, waits (.kwait 31 6) vm, _, _, rfl, rfl, rfl, ⟨rfl, rfl, rfl, by decide⟩, by decide⟩
theorem test_meets_WaitEvents_ftake : ∃ ev c f s v i, endsWait ev = some (c, f) ∧ (ctxOf s c).wait = some v ∧ f v.what = some i ∧ Acts s c ∧ semFirst s c = true :=
  ⟨.futureWaitRelease c0, c0, _, waits (.ftake 5 6) vm, _, _, rfl, rfl, rfl, ⟨rfl, rfl, rfl, by decide⟩, by decide⟩
/-- A wait of context c0 that its event would end. -/
def Over (s : State) : Prop := ∃ v, (ctxOf s c0).wait = some v ∧ Acts s c0 ∧ semFirst s c0 = true ∧ waitOver (asMover s c0) v.what
theorem test_meets_WaitEvents_rings : Over (waits (.rsend 1 6) vm) ∧ Over (waits (.rrecv 0 6) (co (fun c => { c with rings := [(0, [⟨7, true⟩])] }) vm)) :=
  ⟨⟨_, rfl, ⟨rfl, rfl, rfl, by decide⟩, by decide, rfl, by decide⟩, _, rfl, ⟨rfl, rfl, rfl, by decide⟩, by decide, rfl, by decide⟩
theorem test_meets_WaitEvents_semaphore : Over (waits (.kwait 31 6) vm) := ⟨_, rfl, ⟨rfl, rfl, rfl, by decide⟩, by decide, rfl, by decide, by decide⟩
theorem test_meets_WaitEvents_barrier : Over (waits (.cwait 7) vm) :=
  ⟨_, rfl, ⟨rfl, rfl, rfl, by decide⟩, by decide, by simp only [waitOver]; decide⟩
theorem test_meets_WaitEvents_tile : Over (waits (.twait false 63) vm) := ⟨_, rfl, ⟨rfl, rfl, rfl, by decide⟩, by decide, rfl⟩
theorem test_meets_WaitEvents_waitv : Over (waits (.waitv 7 6) (xs 6 0x10000 vm)) :=
  ⟨_, rfl, ⟨rfl, rfl, rfl, by decide⟩, by decide, rfl, rfl, _, rfl, by decide, by decide⟩
theorem test_meets_WaitEvents_futures : Over (waits (.fget 5 6) (cell 1)) ∧ Over (waits (.ftake 5 6) (cell 257)) :=
  ⟨⟨_, rfl, ⟨rfl, rfl, rfl, by decide⟩, by decide, rfl, _, rfl, by decide, .inl (by decide)⟩,
    _, rfl, ⟨rfl, rfl, rfl, by decide⟩, by decide, rfl, _, rfl, by decide, .inr (by decide), by decide⟩
theorem test_meets_WaitEvents_fences : Over (waits (.fence 2 9) vm) ∧ Over (waits (.fence 4 11) tiered) :=
  ⟨⟨_, rfl, ⟨rfl, rfl, rfl, by decide⟩, by decide, by decide, .inr (by decide), fun h => absurd h (by decide)⟩,
    _, rfl, ⟨rfl, rfl, rfl, by decide⟩, by decide, by decide, .inr (by decide), fun _ => ⟨rfl, by decide⟩⟩
theorem test_meets_WaitEvents_queues : Over (waits (.enq 3 6 7 7) vm) ∧ Over (waits (.efence 3) vm) :=
  ⟨⟨_, rfl, ⟨rfl, rfl, rfl, by decide⟩, by decide, _, rfl, rfl, fun _ => rfl, by decide⟩,
    _, rfl, ⟨rfl, rfl, rfl, by decide⟩, by decide, _, rfl, by decide⟩
theorem test_meets_WaitEvents_script : Over (waits (.enqs 3 6 7 340) (xs 6 0x10000 (xs 7 356 vm))) :=
  ⟨_, rfl, ⟨rfl, rfl, rfl, by decide⟩, by decide, _, rfl, rfl, rfl, by decide, by decide⟩
theorem test_meets_WaitEvents_lease : Over (waits .lrel vm) := ⟨_, rfl, ⟨rfl, rfl, rfl, by decide⟩, by decide, rfl, fun h => absurd h (by decide)⟩
theorem test_meets_WaitEvents_chinsw : Over (waits (.chinsw 1 63 6 7) (churned { cap := 1 } vm)) :=
  ⟨_, rfl, ⟨rfl, rfl, rfl, by decide⟩, by decide, rfl, rfl, by decide, by decide, by decide⟩
theorem test_meets_WaitEvents_wfe : Over (waits .wfe (cx (fun c => { c with latch := true }) vm)) :=
  ⟨_, rfl, ⟨rfl, rfl, rfl, by decide⟩, by decide, rfl⟩
def asked (restore : Bool) : State :=
  cl (fun c => { c with rate := 36, pacq := [{ rank := 0, level := 36, kind := .exec, restore := restore }] }) (waits (.pacq 36) vm)
theorem test_meets_WaitEvents_2 : ∃ s r l v, (clusOf s cl0).pacq = r :: l ∧ r.restore = false ∧ grantable s (coreAt cl0 r.rank) r.level = true ∧
    (ctxOf s ⟨coreAt cl0 r.rank, r.kind⟩).wait = some v ∧ (∃ x, v.what = .pacq x ∧ pacqOk x = true) ∧ Acts s ⟨coreAt cl0 r.rank, r.kind⟩ :=
  ⟨asked false, _, _, _, rfl, rfl, by decide, rfl, ⟨_, rfl, by decide⟩, rfl, rfl, rfl, by decide⟩
theorem test_meets_WaitEvents_3 : ∃ s r l, (clusOf s cl0).pacq = r :: l ∧ r.restore = true ∧ grantable s (coreAt cl0 r.rank) r.level = true :=
  ⟨asked true, _, _, rfl, rfl, by decide⟩
theorem test_meets_TrapEvents_1 : ∃ s, Acts s c0 ∧ tsInh (ctxOf s c0).tstat = false ∧ tsIe (ctxOf s c0).tstat = true ∧ (ctxOf s c0).intp &&& 3 ≠ 0 ∧
    (ctxOf s c0).intpAt ≠ s.cyc.toNat + 1 ∧ (ctxOf s c0).wait = none ∧ pendingEng s c0 = none :=
  ⟨cx (fun c => { c with tstat := c.tstat ||| 0x20, intp := 2 }) vm, ⟨rfl, rfl, rfl, by decide⟩, by decide, by decide, by decide, by decide, rfl, rfl⟩
def stopped : State := qu .vx (fun q => { q with stop := some { cause := 0x0F, tval := 5, index := 65535, since := 0 } }) vm
theorem test_meets_TrapEvents_2 : ∃ s e st, (ctxOf s c0).run ≠ .off ∧ (coreOf s c0.core).removal = none ∧ (ctxOf s c0).held = false ∧
    (∀ t, teamOf s c0.core = some t → t.restoring = false) ∧ tsInh (ctxOf s c0).tstat = false ∧ (ctxOf s c0).wait = none ∧
    pendingEng s c0 = some (e, st) := ⟨stopped, _, _, by decide, rfl, rfl, by decide, by decide, rfl, rfl⟩
def wraps (s : State) : State := co (fun c => { c with ecnt := [(7, 0xFFFFFFFFFFFF)], esel := [(7, 0x801)] }) s
theorem test_meets_TrapEvents_3 : ∃ s, mget 0 (coreOf s k0).ecnt 7 = 0xFFFFFFFFFFFF ∧ bitsAt (mget 0 (coreOf s k0).esel 7) 0 8 ≠ 0 ∧
    (mget 0 (coreOf s k0).esel 7).getLsbD 10 = false ∧ (mget 0 (coreOf s k0).esel 7).getLsbD 11 = true ∧
    (coreOf s k0).unit.isSome = true := ⟨wraps vm, rfl, by decide, by decide, by decide, rfl⟩
theorem test_meets_TrapEvents_away : ∃ s k v x, mget 0 (coreOf s k0).ecnt 7 = 0xFFFFFFFFFFFF ∧ bitsAt (mget 0 (coreOf s k0).esel 7) 0 8 ≠ 0 ∧
    (mget 0 (coreOf s k0).esel 7).getLsbD 10 = false ∧ (mget 0 (coreOf s k0).esel 7).getLsbD 11 = true ∧
    (coreOf s k0).unit = none ∧ s.pkg.saved = [(k, v)] ∧ v.home = clusKey (CoreId.cl k0) ∧ v.cores[k0.rank]? = some x :=
  ⟨{ wraps r0 with pkg := { r0.pkg with saved := [(0, { team := {}, cores := [{}], barriers := [], mcwin := [] })] } }, _, _, _, rfl, by decide, by decide, by decide,
    rfl, rfl, by decide, rfl⟩
def runs0 : Running := { index := 0, opc := 4, startAt := 0, doneAt := 0, completeAt := 0, weight := 4, flags := 0x1000000, pushes := [.st],
                         sigks := [31], tiles := [(⟨0, 0, 0⟩, 63, .filled)], banks := [] }
theorem test_meets_EngineEvents_1 : ∃ s r l, (queueOf s k0 .vx).running = r :: l ∧ r.completeAt ≤ s.cyc.toNat ∧ (queueOf s k0 .vx).stop = none ∧
    (∀ b ∈ r.banks, (clusOf s (CoreId.cl k0)).array.verdictFail.getLsbD b = false) ∧ pushBlocked (coreOf s k0) .vx r = false :=
  ⟨qu .vx (fun q => { q with running := [runs0] }) vm, _, _, rfl, by decide, rfl, by decide, by decide⟩
theorem test_meets_EngineEvents_2 : ∃ s x w mk L, (queueOf s k0 .vx).charge = some x ∧
    (queueOf s k0 .vx).words[(queueOf s k0 .vx).pos]? = some w ∧ (coreOf s k0).removal = none ∧ w.w.extractLsb' 14 2 = 1 ∧
    specOf .vx (w.w.extractLsb' 7 7).toNat = some (mk, L) :=
  ⟨qu .vx (fun q => { q with charge := some (0, 0) }) vadds, _, _, _, _, rfl, rfl, rfl, by decide, rfl⟩
theorem test_meets_EngineEvents_3 : ∃ s n, (clusOf s cl0).ramp ≠ 0 ∧ n = (s.cyc.toNat - (clusOf s cl0).rampAt) / (clusOf s cl0).ramp.toNat ∧ n ≠ 0 ∧
    (clusOf s cl0).rate.toNat + n ≤ (clusOf s cl0).tgt.toNat :=
  ⟨{ cl (fun c => { c with tgt := 116, rate := 115 }) r0 with cyc := 127 }, 1, by decide, by decide, by decide, by decide⟩
/-- Ranks 0 and 3 ask for the array; rank 3 held it last, so rank 0 is next. -/
theorem test_meets_LeaseEvents_1 : ∃ s, (clusOf s cl0).leaseHolder = none ∧ (clusOf s cl0).peTests = [] ∧
    0 = ((clusOf s cl0).lastHolder + 1 + 0) % 4 ∧ 0 ∈ leaseAsks s cl0 :=
  ⟨cl (fun c => { c with leaseReqs := [3, 0] }) r0, rfl, rfl, by decide, by decide⟩
theorem test_meets_LeaseEvents_2 : ∃ s r, (clusOf s cl0).leaseHolder = some r ∧ (64 ≤ (clusOf s cl0).leaseLaunches) ∧
    (coreOf s (coreAt cl0 r)).qMx.running = [] ∧ (coreOf s (coreAt cl0 r)).qMx.entry = none :=
  ⟨cl (fun c => { c with leaseLaunches := 64 }) (leased true), 0, rfl, by decide, rfl, rfl⟩
theorem test_meets_LeaseEvents_3 : ∃ s r st, (clusOf s cl0).leaseHolder = some r ∧ (coreOf s (coreAt cl0 r)).qMx.stop = some st ∧
    Nat.max (clusOf s cl0).leaseAt st.since + 4096 ≤ s.cyc.toNat :=
  ⟨{ qu .mx (fun q => { q with stop := some { cause := 0x0F, tval := 5, index := 0, since := 0 } }) (leased true) with cyc := 4096 },
    0, _, rfl, rfl, by decide⟩
/-- A job whose control block is at 0x40000 and a launch descriptor at 0x30000: one unit of one core. -/
def jobbed : State :=
  let m := physPut (physPut (physPut (physPut (physPut (physPut vm 0x30000 2 1) 0x30002 1 1) 0x30008 8 0x10000) 0x30010 8 0x10000) 0x30018 8 0x10000)
    0x40010 8 textRoot
  modDie { m with pkg := { m.pkg with jobs := [{ id := 0, part := 0, super := false, jcb := 0x40000 }],
                                      launches := [{ lid := 0, job := 0, grid := 1, size := 1, counter := 0x50000 }] } } 0
    fun d => { d with remap := [(0, 0x8000000000000000)] }
def idle (s : State) : State := cl (fun c => { c with team := none }) s
/-- The record in slot 1: its job's block, its descriptor. -/
def slot0 (st : SlotSt) (w0 : Word) : Slot := { w := mset 0 (mset 0 (mset 0 [] 3 0x30000) 4 0x40000) 0 w0, st := st }
def staged (w0 : Word) : State := cl (fun c => { c with slot1 := slot0 .staged w0 }) (idle jobbed)
theorem test_meets_TeamEvents_1 : ∃ s, (slotAt s cl0 1).st = .free ∧ (clusOf s cl0).power = .run ∧ (clusOf s cl0).busySince = none ∧
    recordOk s cl0 (setSlotWord (slotAt s cl0 1) 0 0x8000000000000000) = true ∧
    (mget ({} : Tier) s.pkg.tiers (jcbPart s (recJcb (setSlotWord (slotAt s cl0 1) 0 0x8000000000000000)))).isSealed = false :=
  ⟨cl (fun c => { c with slot1 := slot0 .free 0 }) (idle jobbed), rfl, rfl, rfl, by decide, rfl⟩
theorem test_meets_TeamEvents_2 : ∃ s, (slotAt s cl0 1).st = .staged := ⟨staged 0x8000000000000000, rfl⟩
theorem test_meets_TeamEvents_3 : ∃ s b d, (clusOf s cl0).team = none ∧ (clusOf s cl0).power = .run ∧ bestStaged s cl0 = some b ∧
    (slotAt s cl0 b.1).stagedAt < s.cyc.toNat ∧ recRes (slotAt s cl0 b.1) = false ∧ recKind (slotAt s cl0 b.1) ≠ 1 ∧
    readDesc s (jcbRoot s (recJcb (slotAt s cl0 b.1))) (recDesc (slotAt s cl0 b.1)) = some d :=
  ⟨{ staged 0x8000000000000000 with cyc := 1 }, _, _, rfl, rfl, rfl, by decide, by decide, by decide, rfl⟩
def savedTeam : Saved := { team := {}, cores := [], barriers := [], mcwin := [] }
theorem test_meets_TeamEvents_4 : ∃ s b, (clusOf s cl0).team = none ∧ (clusOf s cl0).power = .run ∧ bestStaged s cl0 = some b ∧
    (slotAt s cl0 b.1).stagedAt < s.cyc.toNat ∧
    recRes (slotAt s cl0 b.1) = true ∧ ∃ e ∈ s.pkg.saved, e.1 = recSave (slotAt s cl0 b.1) :=
  ⟨{ staged 0x8400000000000000 with pkg := { (staged 0).pkg with saved := [(0, savedTeam)] }, cyc := 1 }, _, rfl, rfl, rfl, by decide, by decide, _, .head _, by decide⟩
theorem test_meets_TeamEvents_new : ∃ s b, bestStaged s cl0 = some b ∧ (slotAt s cl0 b.1).stagedAt = s.cyc.toNat :=
  ⟨staged 0x8000000000000000, _, rfl, by decide⟩
/-- R414: the rate moves by one every RAMP cycles toward TARGET. -/
theorem test_ramp : (rampNow 10 { ramp := 10, tgt := 116 }).rate = 1 ∧ (rampNow 9 { ramp := 10, tgt := 116 }).rate = 0 := by decide
def teamed (f : Team → Team) (s : State) : State := cl (fun c => { c with team := c.team.map f }) s
theorem test_meets_TeamEvents_5 : ∃ s x, (clusOf s cl0).team = some x ∧ x.restoring = true ∧ ∀ r ∈ (clusOf s cl0).pacq, r.restore = false :=
  ⟨teamed (fun t => { t with restoring := true }) vm, _, rfl, rfl, by decide⟩
theorem test_meets_TeamEvents_6 : ∃ s x w, (clusOf s cl0).team = some x ∧ x.due = some w ∧ x.preempt = none :=
  ⟨teamed (fun t => { t with due := some .wait }) vm, _, _, rfl, rfl, rfl⟩
def leaving (n : Nat) : State := { teamed (fun t => { t with preempt := some { since := 0, why := .slice } }) vm with cyc := BitVec.ofNat 64 n }
theorem test_meets_TeamEvents_7 : ∃ s x p, teamOf s c0.core = some x ∧ x.preempt = some p ∧ p.since + 16384 ≤ s.cyc.toNat ∧
    (ctxOf s c0).run = .running ∧ (ctxOf s c0).wait = none := ⟨leaving 16384, _, _, rfl, rfl, by decide, rfl, rfl⟩
theorem test_meets_TeamEvents_8 : ∃ s x, (clusOf s cl0).team = some x ∧ x.sliceEnd ≤ s.cyc.toNat ∧ x.sliceDone = false ∧
    x.restoring = false := ⟨vm, _, rfl, by decide, rfl, rfl⟩
theorem test_meets_TeamEvents_9 : ∃ s x, overdue s c0 = true ∧ teamOf s c0.core = some x :=
  ⟨{ waits (.kwait 3 6) vm with cyc := 20001 }, _, by decide, rfl⟩
theorem test_meets_TeamEvents_10 : ∃ s x, (clusOf s cl0).team = some x ∧ x.budgeted = true ∧ (coreOf s (coreAt cl0 0)).ctxX.run = .running ∧
    (coreOf s (coreAt cl0 0)).ctxX.wait = none ∧ tsInh (coreOf s (coreAt cl0 0)).ctxX.tstat = false :=
  ⟨teamed (fun t => { t with budgeted := true }) vm, _, rfl, rfl, rfl, rfl, by decide⟩
theorem test_meets_TeamEvents_11 : ∃ s x p, (clusOf s cl0).team = some x ∧ x.preempt = some p ∧ x.slot < 2 ∧ p.why ≠ .retire ∧
    ∀ r, r < x.size → coreStopped (coreOf s (coreAt cl0 r)) = true :=
  ⟨cx (fun c => { c with run := .ended }) (leaving 1), _, _, rfl, rfl, by decide, by decide, by decide⟩

theorem test_meets_UnitEvents_1 : ∃ s u, (coreOf s k0).unit = some u ∧ u.comp = none ∧ unitDone s k0 = true :=
  ⟨cx (fun c => { c with run := .ended }) vm, _, rfl, rfl, by decide⟩
theorem test_meets_UnitEvents_2 : ∃ s u q, (coreOf s k0).unit = some u ∧ u.comp = some q ∧ u.removed = false ∧ u.cancelled = false ∧
    (readX (coreOf s k0).ctxX 10).val = 0 ∧ unitDone s k0 = true :=
  ⟨cx (fun c => { c with run := .ended }) (co (fun c => { c with unit := some { comp := some 9 } }) vm), _, _, rfl, rfl, rfl, rfl, rfl, by decide⟩
theorem test_meets_UnitEvents_3 : ∃ s u, (coreOf s k0).unit = some u ∧ (coreOf s k0).removal = none := ⟨vm, _, rfl, rfl⟩
theorem test_meets_UnitEvents_4 : ∃ s u x p, (coreOf s k0).unit = some u ∧ (coreOf s k0).removal = none ∧ teamOf s k0 = some x ∧
    x.preempt = some p ∧ p.since + 131072 ≤ s.cyc.toNat ∧ coreStopped (coreOf s k0) = false :=
  ⟨leaving 131072, _, _, _, rfl, rfl, rfl, rfl, by decide, by decide⟩
theorem test_meets_UnitEvents_5 : ∃ s u r, (coreOf s k0).unit = some u ∧ u.comp = none ∧ (coreOf s k0).removal = some r ∧ r.since + 2048 ≤ s.cyc.toNat ∧
    egressHeld s k0 = false ∧ accessHeld s k0 = false :=
  ⟨{ co (fun c => { c with removal := some { links := [], overflow := false, since := 0 } }) vm with cyc := 2048 }, _, _, rfl, rfl, rfl, by decide, by decide,
    by decide⟩
def compRec : LaRec := { seq := 3, laid := 1, entry := 0x30000, args := [], step := 1, job := 0, lcid := 0, sw := 0x20000 }
def abandoning : State :=
  modDie { idle jobbed with pkg := { jobbed.pkg with acts := [act0 .abandoning] } } 0 fun d => { d with las := [compRec] }
theorem test_meets_UnitEvents_6 : ∃ s j r d, jobOf s 0 = some j ∧ nextComp s 0 = some r ∧ idleCluster s k0 = true ∧
    partHas s j.part (CoreId.cl k0) = true ∧ readDesc s (jcbRoot s j.jcb) r.entry = some d ∧ d.grid = 1 ∧ d.team = 1 ∧ d.det = false :=
  ⟨abandoning, _, _, _, rfl, rfl, by decide, by decide, rfl, rfl, rfl, rfl⟩
def boundQ : State :=
  churned { bind := true, templ := 0x30000, recs := [(1023, rec0 .waiting)] } (idle jobbed)
theorem test_meets_UnitEvents_7 : ∃ s job j k d, (churnOf s 63).owner = some job ∧ churnOldest (churnOf s 63) = some k ∧ jobOf s job = some j ∧
    (churnOf s 63).en = true ∧ (churnOf s 63).bind = true ∧ j.cancelled = false ∧ (churnOf s 63).inFlight ≤ (churnOf s 63).conc ∧
    (churnOf s 63).asked = [] ∧ idleCluster s k0 = true ∧ partHas s j.part (CoreId.cl k0) = true ∧ readDesc s (jcbRoot s j.jcb) (churnOf s 63).templ = some d :=
  ⟨boundQ, _, _, _, _, rfl, rfl, rfl, rfl, rfl, rfl, by decide, rfl, by decide, by decide, rfl⟩
theorem test_meets_UnitEvents_9 : ∃ s job j k, (churnOf s 63).owner = some job ∧ churnOldest (churnOf s 63) = some k ∧ jobOf s job = some j ∧
    (churnOf s 63).en = true ∧ (churnOf s 63).bind = true ∧ j.cancelled = false ∧ (churnOf s 63).inFlight ≤ (churnOf s 63).conc ∧
    idleCluster s k0 = false :=
  ⟨churned { bind := true, templ := 0x30000, recs := [(1023, rec0 .waiting)] } jobbed, _, _, _, rfl, rfl, rfl, rfl, rfl, rfl, by decide, by decide⟩
/-- A graph of one node, the sink. -/
def graphed : State := physPut (physPut (physPut jobbed 0x30100 2 1) 0x30108 8 0x60000) 0x30140 8 0x30000
theorem test_meets_UnitEvents_8 : ∃ s g, graphDue s 0x40000 0x30100 = true ∧ graphCancelled s 0x40000 = false ∧
    readGraph s 0x40000 0 (0x30100 : Word).toNat = some g :=
  ⟨graphed, _, by decide, by decide, rfl⟩
theorem test_meets_ErrorEvents_reg : ∃ n : Nat, n ≠ 0 ∧ n < 32 := ⟨31, by decide, by decide⟩
theorem test_meets_ErrorEvents_ring : ∃ s, 0 < (mget [] (coreOf s c0.core).rings 15).length :=
  ⟨co (fun c => { c with rings := [(15, [{ val := 7, poison := false }])] }) r0, by decide⟩
theorem test_meets_ErrorEvents_stash : stashLineClean (coreOf r0 c0.core) 0x1FFFFC = none := by decide
theorem test_meets_ErrorEvents_memory : ∃ s a, a < 0x6000000000 ∧ (homeOf s (a / 128)).pinned = false := ⟨r0, 0x5FFFFFFFFC, by decide, rfl⟩
theorem test_meets_ErrorEvents_context : ∃ s, (ctxOf s c0).wait = none ∧ Acts s c0 ∧ tsInh (ctxOf s c0).tstat = false :=
  ⟨vm, rfl, ⟨rfl, rfl, rfl, by decide⟩, by decide⟩
def windowed (n : Nat) : State :=
  qu .mx (fun q => { q with replays := n, window := [{ entry := entryAt vadds vaddSpec 0 }] })
    (leased true)
theorem test_meets_ErrorEvents_verdict : ∃ s r, (clusOf s cl0).leaseHolder = some r ∧ (coreOf s (coreAt cl0 r)).qMx.stop = none ∧
    (clusOf s cl0).array.verdictFail.getLsbD 0 = false ∧ (coreOf s (coreAt cl0 r)).qMx.redo = false ∧ (coreOf s (coreAt cl0 r)).qMx.redoFrom = none ∧
    (coreOf s (coreAt cl0 r)).qMx.window ≠ [] ∧ 3 ≤ (coreOf s (coreAt cl0 r)).qMx.replays :=
  ⟨windowed 3, 0, rfl, rfl, rfl, rfl, rfl, by decide, by decide⟩
theorem test_meets_ErrorEvents_selfTest : ∃ site ref ecc s, (∀ c r, site ≠ .peRow c r) ∧ (site, ref, ecc) ∈ (dieOf s (siteRec s site).die).due :=
  ⟨.context c0, 7, 3, modDie r0 0 fun d => { d with due := [(.context c0, 7, 3)] }, (fun _ _ h => nomatch h), by decide⟩
theorem test_meets_ErrorEvents_peRow : ∃ s, mget 0 (clusOf s cl0).peTests 127 ≠ 0 ∧ (clusOf s cl0).leaseHolder = none :=
  ⟨cl (fun c => { c with peTests := [(127, 3)] }) r0, by decide, rfl⟩
theorem test_meets_ErrorEvents_notDue : ∃ site s, ¬ (∃ c r, site = .peRow c r) ∧ ∀ x ∈ (dieOf s (siteRec s site).die).due, x.1 ≠ site :=
  ⟨.context c0, r0, (fun ⟨_, _, h⟩ => nomatch h), by decide⟩
def tierOf (t : Tier) : State := { vm with pkg := { vm.pkg with tiers := [(7, t)] } }
theorem test_meets_RecoveryEvents_1 : ∃ s : State, (mget ({} : Tier) s.pkg.tiers 7).done = true := ⟨tierOf { v := true }, rfl⟩
theorem test_meets_RecoveryEvents_busy : ∃ s : State, (mget ({} : Tier) s.pkg.tiers 7).done = false := ⟨tierOf { done := false }, rfl⟩
theorem test_meets_RecoveryEvents_none : ∃ s : State, (mget ({} : Tier) s.pkg.tiers 7).acting = true ∧ (mget ({} : Tier) s.pkg.tiers 7).done = false ∧
    (mget ({} : Tier) s.pkg.tiers 7).v = false := ⟨tierOf { done := false, acting := true }, rfl, rfl, rfl⟩
theorem test_meets_RecoveryEvents_sealed : ∃ s : State, (mget ({} : Tier) s.pkg.tiers 7).v = true ∧ (mget ({} : Tier) s.pkg.tiers 7).isSealed = true :=
  ⟨tierOf { v := true, done := false, acting := true, isSealed := true }, rfl, rfl⟩
theorem test_meets_RecoveryEvents_rollback : ∃ s : State, (mget ({} : Tier) s.pkg.tiers 7).v = true ∧ (mget ({} : Tier) s.pkg.tiers 7).isSealed = false ∧
    (mget ({} : Tier) s.pkg.tiers 7).doing = 1 ∧ latest (storeOf s 7) = none :=
  ⟨tierOf { v := true, done := false, acting := true, doing := 1 }, rfl, rfl, rfl, rfl⟩
theorem test_meets_RecoveryEvents_point : ∃ s : State, (mget ({} : Tier) s.pkg.tiers 7).v = true ∧ (mget ({} : Tier) s.pkg.tiers 7).isSealed = false ∧
    (mget ({} : Tier) s.pkg.tiers 7).doing = 0 ∧ partClusters s 7 = [] ∧ (mget ({} : Tier) s.pkg.tiers 7).stalled = [] :=
  ⟨tierOf { v := true, done := false, acting := true }, rfl, rfl, rfl, by decide, rfl⟩
theorem test_meets_RecoveryEvents_seal : ∃ s : State, (mget ({} : Tier) s.pkg.tiers 7).v = true ∧ (mget ({} : Tier) s.pkg.tiers 7).isSealed = false ∧
    (mget ({} : Tier) s.pkg.tiers 7).doing = 2 ∧ partClusters s 7 = [] ∧ (mget ({} : Tier) s.pkg.tiers 7).stalled = [] :=
  ⟨tierOf { v := true, done := false, acting := true, doing := 2 }, rfl, rfl, rfl, by decide, rfl⟩
/-- A tier with a point of one byte, still in the journal. -/
def pointed : State :=
  let s := tierOf { v := true, done := false, acting := true, doing := 1 }
  { s with pkg := { s.pkg with stores := [(0, { point := 1, journal := some { mem := [(0, 0xA5)] } })], parts := [(7, { v := true, hbase := 383, hlim := 384 })] } }
theorem test_meets_RecoveryEvents_back : ∃ (s : State) (i : Point), (mget ({} : Tier) s.pkg.tiers 7).v = true ∧
    (mget ({} : Tier) s.pkg.tiers 7).isSealed = false ∧ (mget ({} : Tier) s.pkg.tiers 7).doing = 1 ∧ partClusters s 7 = [] ∧
    latest (storeOf s 7) = some i ∧ i.saved = [] ∧ (∀ e ∈ i.las, e.2 = []) ∧ (storeOf s 7).persisted = [] ∧ 0 < (hbmRange s 7).2 :=
  ⟨pointed, _, rfl, rfl, rfl, by decide, rfl, rfl, (fun _ h => nomatch h), rfl, by decide⟩
/-- A log of n entries. -/
def logged (n : Nat) : State :=
  { tierOf { v := true } with pkg := { (tierOf { v := true }).pkg with stores := [(0, { log := List.replicate n ⟨0, 0, 0, 0, 0, 0, 0⟩ })] } }
theorem test_meets_RecoveryEvents_log : ∃ s : State, 1572864 < (storeOf s 7).log.length ∧ (mget ({} : Tier) s.pkg.tiers 7).v = true ∧
    (mget ({} : Tier) s.pkg.tiers 7).acting = false := by
  have e (n : Nat) : (storeOf (logged n) 7).log.length = n := List.length_replicate
  refine ⟨logged 1572865, ?_, rfl, rfl⟩
  rw [e]
  decide
def power (p : PowerSt) (f : Cluster → Cluster) : State := cl (fun c => f { c with power := p }) r0
theorem test_meets_PowerEvents_quiesce : ∃ s, (clusOf s cl0).busySince = none ∧ (clusOf s cl0).power = .run ∧ (clusOf s cl0).slot0.st = .free ∧
    (clusOf s cl0).slot1.st = .free := ⟨r0, rfl, rfl, rfl, rfl⟩
theorem test_meets_PowerEvents_drained : ∃ s, (clusOf s cl0).power = .run ∧ (clusOf s cl0).busySince ≠ none ∧ clusterDrained s cl0 = true :=
  ⟨power .run fun c => { c with busySince := some 0 }, rfl, by decide, by decide⟩
theorem test_meets_PowerEvents_retain : ∃ s, (clusOf s cl0).busySince = none ∧ (clusOf s cl0).power = .quiesced ∧ (clusOf s cl0).rdone = true ∧
    (clusOf s cl0).gate = 0x1F := ⟨power .quiesced fun c => { c with rdone := true, gate := 0x1F }, rfl, rfl, rfl, rfl⟩
theorem test_meets_PowerEvents_off : ∃ s, (clusOf s cl0).busySince = none ∧ (clusOf s cl0).power = .quiesced ∧ (clusOf s cl0).gate = 0x2F :=
  ⟨power .quiesced fun c => { c with gate := 0x2F }, rfl, rfl, rfl⟩
theorem test_meets_PowerEvents_retained : ∃ s n, (clusOf s cl0).power = .quiesced ∧ (clusOf s cl0).busySince = some n ∧ n + 4096 ≤ s.cyc.toNat ∧
    (clusOf s cl0).heldWake = false := ⟨{ power .quiesced fun c => { c with busySince := some 0 } with cyc := 4096 }, _, rfl, rfl, by decide, rfl⟩
theorem test_meets_PowerEvents_save : ∃ s, (clusOf s cl0).power = .quiesced ∧ (clusOf s cl0).saving = false ∧ (clusOf s cl0).restoring = false :=
  ⟨power .quiesced fun c => c, rfl, rfl, rfl⟩
theorem test_meets_PowerEvents_restore : ∃ s, (clusOf s cl0).power = .quiesced ∧ (clusOf s cl0).rdone = true ∧ (clusOf s cl0).saving = false :=
  ⟨power .quiesced fun c => { c with rdone := true }, rfl, rfl, rfl⟩
theorem test_meets_PowerEvents_done : (∃ s, (clusOf s cl0).saving = true) ∧ ∃ s, (clusOf s cl0).restoring = true :=
  ⟨⟨power .quiesced fun c => { c with saving := true }, rfl⟩, power .quiesced fun c => { c with restoring := true }, rfl⟩
theorem test_meets_PowerEvents_gate : ∃ (s : State) (v : Word), v.toNat < 64 ∧ bitsAt v 4 2 ≠ 3 ∧ (clusOf s cl0).power ≠ .run ∧
    (clusOf s cl0).power ≠ .waking ∧ (clusOf s cl0).gate.getLsbD 0 = true :=
  ⟨power .retained fun c => { c with gate := 1 }, 0x2F, by decide, by decide, by decide, by decide, by decide⟩
theorem test_meets_PowerEvents_wake : ∃ s, (∀ r, r < 4 → (coreOf s (coreAt cl0 r)).unit = none) ∧ (clusOf s cl0).power = .retained ∧
    (clusOf s cl0).wmask.getLsbD 0 = true := ⟨power .retained fun c => c, by decide, rfl, by decide⟩
theorem test_meets_PowerEvents_woken : ∃ s n, (clusOf s cl0).power = .waking ∧ (clusOf s cl0).busySince = some n ∧ n + 8192 ≤ s.cyc.toNat ∧
    (clusOf s cl0).rdone = false ∧ (clusOf s cl0).woken = false :=
  ⟨{ power .waking fun c => { c with busySince := some 0 } with cyc := 8192 }, _, rfl, rfl, by decide, rfl, rfl⟩
theorem test_meets_PowerEvents_restored : (∃ s n, (clusOf s cl0).power = .waking ∧ (clusOf s cl0).busySince = some n ∧ n + 8192 ≤ s.cyc.toNat ∧
    (clusOf s cl0).rdone = true ∧ (clusOf s cl0).woken = false) ∧ ∃ s n, (clusOf s cl0).power = .waking ∧ (clusOf s cl0).busySince = some n ∧
    n + 8192 ≤ s.cyc.toNat ∧ (clusOf s cl0).restoring = false ∧ (clusOf s cl0).woken = true :=
  ⟨⟨{ power .waking fun c => { c with busySince := some 0, rdone := true } with cyc := 8192 }, _, rfl, rfl, by decide, rfl, rfl⟩,
    { power .waking fun c => { c with busySince := some 0, woken := true } with cyc := 8192 }, _, rfl, rfl, by decide, rfl, rfl⟩
theorem test_meets_PowerEvents_staged : ∃ (k : Nat) (w0 : Word) (s : State), k < 2 ∧ w0.getLsbD 63 = true ∧
    ((clusOf s cl0).power = .retained ∨ (clusOf s cl0).power = .off) ∧ (clusOf s cl0).wmask.getLsbD 2 = true :=
  ⟨1, 0x8000000000000000, power .off fun c => { c with wmask := 7 }, by decide, by decide, .inr rfl, rfl⟩
/-- R313: a CWAKE of rank 2 of a cluster that is RETAINED, by a supervisor. -/
def cwakes : State :=
  qu .cp (fun q => { q with words := [{ w := 0x4600, modes := { super := true } }] })
    (engQ .cp 0x4600 [0x8000000400000000] (power .retained fun c => { c with wmask := 2 }))
theorem test_meets_PowerEvents_cwake : ∃ f s, Starts s cwakeSpec f ∧
    ((headQueue s .cp).set.stack.getD 0 0).getLsbD 63 = true ∧ 0 < cwMask ((headQueue s .cp).set.stack.getD 0 0) ∧
    (clusOf s ⟨bitsAt ((headQueue s .cp).set.stack.getD 0 0) 20 2, bitsAt ((headQueue s .cp).set.stack.getD 0 0) 24 5⟩).power = .retained ∧
    (clusOf s ⟨bitsAt ((headQueue s .cp).set.stack.getD 0 0) 20 2, bitsAt ((headQueue s .cp).set.stack.getD 0 0) 24 5⟩).wmask.getLsbD 1 = true :=
  ⟨0, cwakes, ⟨⟨⟨rfl, rfl, rfl⟩, by decide, rfl, .inl rfl, rfl, ⟨(fun _ h => nomatch h), rfl⟩, by decide, by decide, by decide, rfl,
    (fun _ _ h => nomatch h), fun h => absurd h (by decide), .inl ⟨rfl, by decide, by decide⟩⟩, rfl, rfl⟩, by decide, by decide, by decide, by decide⟩
theorem test_meets_PowerEvents_bucket : ∃ v : Word, v &&& 0x0000FF00FF00FF00 = 0 ∧ bitsAt v 32 8 ≤ 116 ∧ bitsAt v 48 16 ≠ 0 :=
  ⟨0x0001007400000000, by decide, by decide, by decide⟩
theorem test_meets_RegisterEvents_clint : ∃ (s : State) (v : Word) (x : Team) (kind : CtxKind), (clusOf s cl0).team = some x ∧ v.toNat < 2 ^ 12 ∧ bitsAt v 8 2 < x.size ∧
    bitsAt v 10 2 = ctxCode kind := ⟨vm, 0x4FF, _, .exec, rfl, by decide, by decide, by decide⟩
theorem test_meets_RegisterEvents_tlbi : (∃ s, (dieOf s 3).tlbDone = true) ∧ ∃ s cmd, (dieOf s 3).tlbCmd = some cmd :=
  ⟨⟨r0, rfl⟩, modDie r0 3 fun d => { d with tlbCmd := some (1, 65535, 0) }, _, rfl⟩
/-- A partition of one GiB, and the tier of another, of 3 GiB at the start of the host window. -/
def tierFree : State :=
  { r0 with pkg := { r0.pkg with parts := [(0, { v := true, hbase := 0, hlim := 1 })], tiers := [(1, { v := true, base := 0, size := 0xC0000 })] } }
theorem test_meets_RegisterEvents_tierTaken : ∃ (s : State) (w0 w1 : Word), partBound s 0 = false ∧ w0.getLsbD 63 = true ∧
    (2 * ((mget ({} : Partition) s.pkg.parts 0).hlim.toNat - (mget ({} : Partition) s.pkg.parts 0).hbase.toNat) + 1) * 2 ^ 18 ≤ bitsAt w1 12 28 ∧
    bitsAt w0 12 28 + bitsAt w1 12 28 ≤ 2 ^ 28 ∧ (mget ({} : Tier) s.pkg.tiers 1).v = true ∧
    (mget ({} : Tier) s.pkg.tiers 1).base.toNat + (mget ({} : Tier) s.pkg.tiers 1).size.toNat ≤ bitsAt w0 12 28 :=
  ⟨tierFree, 0x80000000C0000000, 0xC0000000, by decide, by decide, by decide, by decide, rfl, by decide⟩
theorem test_meets_RegisterEvents_tierOver : ∃ (s : State) (w0 w1 : Word), partBound s 0 = false ∧ w0.getLsbD 63 = true ∧
    (mget ({} : Tier) s.pkg.tiers 1).v = true ∧ (mget ({} : Tier) s.pkg.tiers 1).base.toNat < bitsAt w0 12 28 + bitsAt w1 12 28 ∧
    bitsAt w0 12 28 < (mget ({} : Tier) s.pkg.tiers 1).base.toNat + (mget ({} : Tier) s.pkg.tiers 1).size.toNat :=
  ⟨tierFree, 0x80000000BFFFF000, 0xC0000000, by decide, by decide, rfl, by decide, by decide⟩
theorem test_meets_RegisterEvents_base : ringBaseOk 0x100000 = true := by decide
theorem test_meets_RegisterEvents_partition : ∃ (s : State) (w0 w2 : Word), partBound s 7 = false ∧
    (let p : Partition := { v := w0.getLsbD 63, vclo := w0.setWidth 32, vchi := 0, peers := w2.extractLsb' 48 16,
                            hlim := w2.extractLsb' 32 9, hbase := w2.setWidth 9, floor := 0 }
     (∀ q, q < 8 → q ≠ 7 → partClash p (mget {} s.pkg.parts q) = false) ∧ p.hlim.toNat ≤ 384 ∧ p.hbase.toNat < p.hlim.toNat) :=
  ⟨r0, 0x8000000000000001, 0x000001800000017F, by decide, by decide, by decide, by decide⟩
theorem test_meets_RegisterEvents_tier : ∃ (s : State) (w0 : Word), partBound s 7 = false ∧ w0.getLsbD 63 = false := ⟨r0, 0x1000, by decide, by decide⟩
def linked (f : Link2 → Link2) : State := { r0 with pkg := { r0.pkg with bootStage := 2, link := f r0.pkg.link } }
theorem test_meets_LinkEvents_doorbell : ∃ (s : State) (tail : BitVec 16), linkUp s = true ∧ tail.toNat < ringSize s.pkg.subbase ∧ s.pkg.subHead = tail ∧
    s.pkg.link.heldIn = [] :=
  ⟨linked id, 0, by decide, by decide, rfl, rfl⟩
/-- One record on the submission ring, with a job or without one. -/
theorem test_meets_LinkEvents_record : ∃ (s : State) (tail : BitVec 16), linkUp s = true ∧ tail.toNat < ringSize s.pkg.subbase ∧
    tail.toNat = (s.pkg.subHead.toNat + 1) % ringSize s.pkg.subbase ∧ s.pkg.link.heldIn = [] ∧
    subBad s (readSub s (ringBase s.pkg.subbase + 64 * s.pkg.subHead.toNat)) = true := ⟨linked id, 1, by decide, by decide, by decide, rfl, by decide⟩
def submitted (jobs : List Job) : State :=
  { linked id with mem := [(0, 5)], pkg := { (linked id).pkg with parts := [(0, { v := true })], jobs := jobs } }
theorem test_meets_LinkEvents_job : ∃ (s : State) (tail : BitVec 16), linkUp s = true ∧ tail.toNat < ringSize s.pkg.subbase ∧
    tail.toNat = (s.pkg.subHead.toNat + 1) % ringSize s.pkg.subbase ∧ s.pkg.link.heldIn = [] ∧
    subBad s (readSub s (ringBase s.pkg.subbase + 64 * s.pkg.subHead.toNat)) = false ∧
    jobOf s (BitVec.ofNat 32 (readSub s (ringBase s.pkg.subbase + 64 * s.pkg.subHead.toNat)).job) = none :=
  ⟨submitted [], 1, by decide, by decide, by decide, rfl, by decide, by decide⟩
theorem test_meets_LinkEvents_twice : ∃ (s : State) (tail : BitVec 16), linkUp s = true ∧ tail.toNat < ringSize s.pkg.subbase ∧
    tail.toNat = (s.pkg.subHead.toNat + 1) % ringSize s.pkg.subbase ∧ s.pkg.link.heldIn = [] ∧
    subBad s (readSub s (ringBase s.pkg.subbase + 64 * s.pkg.subHead.toNat)) = false ∧
    (jobOf s (BitVec.ofNat 32 (readSub s (ringBase s.pkg.subbase + 64 * s.pkg.subHead.toNat)).job)).isSome = true :=
  ⟨submitted [{ id := 5, part := 0, super := false, jcb := 0 }], 1, by decide, by decide, by decide, rfl, by decide, by decide⟩
theorem test_meets_LinkEvents_completion : ∃ (s : State) (port : Nat) (tag : BitVec 12) (a : Nat) (rest : List (Nat × BitVec 12 × Nat)),
    s.pkg.link.reads = (port, tag, a) :: rest ∧ s.pkg.link.readsHeld = [] := ⟨linked fun l => { l with reads := [(16, 0xFFF, 0x40)] }, _, _, _, _, rfl, rfl⟩
theorem test_meets_LinkEvents_peer : ∃ (s : State) (port : Nat) (addr : BitVec 52), port < 16 ∧ linkUp s = true ∧ addr.toNat + [(1 : Byte)].length ≤ 0x6000000000 :=
  ⟨linked id, 15, 0x5FFFFFFFFF, by decide, by decide, by decide⟩
theorem test_meets_LinkEvents_tail : ∃ (s : State) (jcb : Nat), linkUp s = true ∧ jcb + 256 ≤ 0x6000000000 ∧ (∀ e ∈ s.pkg.link.pendingRecords, e.1 ≠ jcb) ∧
    s.pkg.link.heldIn = [] := ⟨linked id, 0x5FFFFFFF00, by decide, by decide, by decide, rfl⟩
theorem test_meets_LinkEvents_write : ∃ (s : State) (seq : BitVec 16) (addr : BitVec 52), linkUp s = true ∧ seq = s.pkg.link.nextIn ∧
    s.pkg.link.heldIn = [] ∧ addr.toNat + [(1 : Byte)].length ≤ 0x6000000000 ∧ NoTail s addr.toNat 1 :=
  ⟨linked id, 0, 0x5FFFFFFFFF, by decide, rfl, rfl, by decide, fun _ h => nomatch h⟩
theorem test_meets_LinkEvents_interrupt : ∃ s m l, s.pkg.link.intrs = m :: l ∧ linkUp s = true :=
  ⟨linked fun l => { l with intrs := [[1]] }, _, _, rfl, by decide⟩
theorem test_meets_LinkEvents_ack : ∃ (s : State) (tag : BitVec 12) (dest off : Nat) (psn : Bool) (bytes : List Byte)
    (rest : List (BitVec 12 × Leaving)), (∀ p, p < 8 → (mget ({} : Tier) s.pkg.tiers p).stalled = []) ∧
    s.pkg.link.heldOut = (tag, .peer dest off psn bytes) :: rest ∧ s.pkg.link.acked = [] :=
  ⟨linked fun l => { l with heldOut := [(0xFFF, .peer 15 0 true [1]), (0, .placed)] }, 0xFFF, _, _, _, _, _, by decide, rfl, rfl⟩
theorem test_meets_LinkEvents_reroute : ∃ (s : State) (a b : Nat), a ≠ b ∧ 4 ≤ mget 0 (dieOf s (Nat.min a b)).lanesUsed (Nat.max a b) :=
  ⟨modDie r0 0 fun d => { d with lanesUsed := [(3, 4)] }, 3, 0, by decide, by decide⟩
theorem test_meets_BootEvents : (∃ s : State, s.pkg.bootStage = 0) ∧ ∃ s : State, s.pkg.bootStage = 2 ∧ s.pkg.measurements.length < 32 :=
  ⟨⟨r0, rfl⟩, linked id, rfl, by decide⟩

/-! Witnesses of the statements about the step. -/

theorem issues_vm : Issues vm c0 [] :=
  ⟨rfl, by decide, ⟨rfl, rfl, rfl, by decide⟩, rfl, rfl, rfl, rfl, fun h => absurd h (by decide)⟩
theorem test_meets_StepRunsDecoded_1 : ∃ s rest x i, Issues s c0 rest ∧
    Machine.translate (issuing s c0 rest) c0.core (isSuper (ctxOf (issuing s c0 rest) c0)) .fetch (ctxOf (issuing s c0 rest) c0).pc.toNat = .ok x ∧
    decode32 (BitVec.ofNat 32 (leNat (fetchBytes (fillTlb (issuing s c0 rest) c0.core x.leaf) c0.core x.pa 4).1)) = .ok i ∧
    FromMemory (issuing s c0 rest) x.pa 4 :=
  ⟨vm, [], _, _, issues_vm, rfl, rfl, by decide, by decide, rfl, rfl, fun _ _ _ => notUnwritten rfl rfl rfl _⟩
def vmWord : State := State.reset.withFetchWord 16 0x4200
theorem test_meets_StepRunsDecoded_2 : ∃ s rest w i, Runs s k0 .vx rest ∧ (queueOf (taking s k0 .vx rest) k0 .vx).words[(queueOf (taking s k0 .vx rest) k0 .vx).pos]? = some w ∧
    decode16 .vx w.w = .ok i ∧ (queueOf s k0 .vx).pos = 0 ∧ refuseEntry (modQueue (taking s k0 .vx rest) k0 .vx beginEntry) k0 .vx = none ∧
    w.poisonAt = none ∧ (engSemAhead (modQueue (taking s k0 .vx rest) k0 .vx beginEntry) k0 .vx = false ∧
      engTileAhead (modQueue (taking s k0 .vx rest) k0 .vx beginEntry) k0 .vx = false) :=
  ⟨vmWord, [], _, _, ⟨rfl, by decide, ⟨by decide, by decide⟩, ⟨rfl, rfl⟩, ⟨_, .head _, by decide⟩⟩, rfl, rfl, rfl, by decide, rfl, by decide, by decide⟩
theorem test_meets_StepRunsDecoded_3 : ∃ (s : State) (i : Instr) (rest : List Move), s.agenda = .event i :: rest ∧ encode i = .event ∧ WellFormed i = true :=
  ⟨{ r0 with agenda := [.event (.leaseGrant ⟨3, 24⟩)] }, _, _, rfl, rfl, by decide⟩
def vmZero : State := State.reset.withFetchWord 32 0
theorem test_meets_StepTraps_1 : ∃ s rest x err, Issues s c0 rest ∧ tsInh (ctxOf (issuing s c0 rest) c0).tstat = false ∧
    Machine.translate (issuing s c0 rest) c0.core (isSuper (ctxOf (issuing s c0 rest) c0)) .fetch (ctxOf (issuing s c0 rest) c0).pc.toNat = .ok x ∧
    decode32 (BitVec.ofNat 32 (leNat (fetchBytes (fillTlb (issuing s c0 rest) c0.core x.leaf) c0.core x.pa 4).1)) = .error err :=
  ⟨vmZero, [], _, _, ⟨rfl, by decide, ⟨rfl, rfl, rfl, by decide⟩, rfl, rfl, rfl, rfl, fun h => absurd h (by decide)⟩, by decide, rfl, rfl⟩
def vmFar : State := cx (fun c => { c with pc := 0x80000000 }) vm
theorem test_meets_StepTraps_2 : ∃ s rest cause, Issues s c0 rest ∧ tsInh (ctxOf (issuing s c0 rest) c0).tstat = false ∧
    Machine.translate (issuing s c0 rest) c0.core (isSuper (ctxOf (issuing s c0 rest) c0)) .fetch (ctxOf (issuing s c0 rest) c0).pc.toNat = .error cause :=
  ⟨vmFar, [], _, ⟨rfl, by decide, ⟨rfl, rfl, rfl, by decide⟩, rfl, rfl, rfl, rfl, fun h => absurd h (by decide)⟩, by decide, rfl⟩
theorem test_meets_MemoryCanonicalKept : ∃ s t, MemCanonical s ∧ step s = .next t := ⟨vm, _, ⟨by decide, by decide, fun _ h => nomatch h⟩, rfl⟩

/-! One step on a small state. Values are the spec's own (its section is named) or worked by hand from its rule. -/

def after (i : Instr) (s : State) : State := match exec i s with | .next t => t | _ => s
/-- x5 after an instruction with x6 and x7. -/
def alu (i : Instr) (a b : Word) : Word := xv (after i (xs 6 a (xs 7 b r0))) 5
theorem test_add_wraps : alu (.add 5 6 7 0) 0xFFFFFFFFFFFFFFFF 1 = 0 ∧ alu (.sub 5 6 7 0) 0 1 = 0xFFFFFFFFFFFFFFFF := by decide
theorem test_x0_takes_nothing : xv (after (.add 0 6 7 0) (xs 6 1 (xs 7 1 r0))) 0 = 0 ∧
    (curCtx (after (.add 0 6 7 0) (xs 6 1 (xs 7 1 looped)))).pc = 0x10004 := by decide
/-- R92: a shift uses bits [5:0] of its count. -/
theorem test_shift_by_65 : alu (.shl 5 6 7 0) 1 65 = 2 ∧ alu (.sar 5 6 7 0) 0x8000000000000000 63 = 0xFFFFFFFFFFFFFFFF ∧
    alu (.rol 5 6 7 0) 0x8000000000000001 1 = 3 := by decide
theorem test_signed_compare : alu (.min 5 6 7 0) 0xFFFFFFFFFFFFFFFF 1 = 0xFFFFFFFFFFFFFFFF ∧ alu (.minu 5 6 7 0) 0xFFFFFFFFFFFFFFFF 1 = 1 ∧
    alu (.andn 5 6 7 0) 0xF0 0x30 = 0xC0 := by decide
theorem test_counts_of_zero : alu (.clz 5 6 0) 0 0 = 64 ∧ alu (.ctz 5 6 0) 0 0 = 64 ∧ alu (.popc 5 6 0) 0xFF00 0 = 8 := by decide
theorem test_extend : alu (.sextB 5 6 0) 0x180 0 = 0xFFFFFFFFFFFFFF80 ∧ alu (.zextH 5 6 0) 0x18000 0 = 0x8000 ∧
    alu (.sextW 5 6 0) 0x80000000 0 = 0xFFFFFFFF80000000 ∧ alu (.shadd3 5 6 7 0) 3 1 = 25 := by decide
theorem test_immediates : alu (.addi 5 6 (-1) 0) 0 0 = 0xFFFFFFFFFFFFFFFF ∧ alu (.andi 5 6 (-2) 0) 7 0 = 6 ∧ alu (.shri 5 6 63 0) 0x8000000000000000 0 = 1 := by
  decide
/-- R95: the table of LI and LIH. -/
theorem test_li_lih : alu (.li 5 0x561 0) 0 0 = 0x561 ∧ xv (after (.lih 5 0 0) (xs 5 0x561 r0)) 5 = 0x15840000 := by decide
theorem test_mul_high : alu (.mulh 5 6 7 0) 0xFFFFFFFFFFFFFFFF 2 = 0xFFFFFFFFFFFFFFFF ∧ alu (.mulhu 5 6 7 0) 0xFFFFFFFFFFFFFFFF 2 = 1 := by decide
/-- R96: division by 0, and of the most negative number by -1. -/
theorem test_division_corners : alu (.div 5 6 7 0) 7 0 = 0xFFFFFFFFFFFFFFFF ∧ alu (.rem 5 6 7 0) 7 0 = 7 ∧
    alu (.div 5 6 7 0) 0x8000000000000000 0xFFFFFFFFFFFFFFFF = 0x8000000000000000 ∧
    alu (.rem 5 6 7 0) 0x8000000000000000 0xFFFFFFFFFFFFFFFF = 0 := by decide
theorem test_division_truncates : alu (.div 5 6 7 0) 0xFFFFFFFFFFFFFFF9 2 = 0xFFFFFFFFFFFFFFFD ∧
    alu (.rem 5 6 7 0) 0xFFFFFFFFFFFFFFF9 2 = 0xFFFFFFFFFFFFFFFF := by decide
/-- R91: the OR of the poison bits; SEL carries that of the source it takes. -/
theorem test_poison_spreads : (xr (after (.add 5 6 7 0) (xp 7 r0)) 5).poison = true ∧ (xr (after (.sel 5 6 7 0 0) (xp 7 r0)) 5).poison = false := by
  decide
theorem test_compare_predicates : readP (curCtx (after (.cmp 1 6 7 3 0) (xs 6 1 (xs 7 2 r0)))) 1 = false ∧
    readP (curCtx (after (.cmpi 1 6 2 (-1) 0) (xs 6 0xFFFFFFFFFFFFFFFE r0))) 1 = true := by decide
/-- R22: an instruction whose guard is 0 only advances. -/
theorem test_nullified : xv (after (.li 5 7 3) looped) 5 = 0 ∧ (curCtx (after (.li 5 7 3) looped)).pc = 0x10004 := by decide
/-- 09: FCVT.f.i of 7 is 7.0, times 0.5 is 3.5; 3.5 + 6.5 = 10. -/
theorem test_fp_sums : alu (.fcvtFI 5 6 0) 7 0 = 0x40E00000 ∧ alu (.fmul 5 6 7 0) 0x40E00000 0x3F000000 = 0x40600000 ∧
    alu (.fadd 5 6 7 0) 0x40600000 0x40D00000 = 0x41200000 := by decide
/-- R115, R85: 1 / 3 by RNE is 0x3EAAAAAB and inexact; the root of -1 is the canonical NaN with NV. -/
theorem test_fp_inexact : alu (.fdiv 5 6 7 0) 0x3F800000 0x40400000 = 0x3EAAAAAB ∧ alu (.fsqrt 5 6 0) 0xBF800000 0 = 0x7FC00000 := by decide
theorem test_fp_to_integer : alu (.fcvtIF 5 6 0) 0x7FC00000 0 = 0 ∧ alu (.fcvtIF 5 6 0) 0x7F800000 0 = 0x7FFFFFFFFFFFFFFF ∧
    alu (.fcvtIuF 5 6 0) 0xBF800000 0 = 0 := by decide
theorem test_fp_min_max_sign : alu (.fsgnN 5 6 7 0) 0x3F800000 0 = 0xBF800000 ∧ alu (.fmin 5 6 7 0) 0x3F800000 0xBF800000 = 0xBF800000 := by decide
/-- R8: a branch target keeps its low 56 bits; an address of 0 ends the context (R142). -/
theorem test_branch : (curCtx (after (.br 1 0 0 0) looped)).pc = 0x10010 ∧ (curCtx (after (.br 2 0 0 0) looped)).run = .ended := by decide
/-- R108: the loop of the table arms with LC 6 and p4 = 1, p5 = p6 = 0. -/
theorem test_loop_swp : (readLc (curCtx (after (.loopSwp 1 1 9 2 0) (xs 9 4 looped))) 1).lc = 6 ∧
    (curCtx (after (.loopSwp 1 1 9 2 0) (xs 9 4 looped))).p &&& 0x70 = 0x10 := by decide
/-- R107: an instruction that ends at END of an armed loop goes to its START, or on when LC reaches 0. -/
theorem test_loop_end : (curCtx (after (.addi 1 1 1 0) (ending 2))).pc = 0xFFF0 ∧ (curCtx (after (.addi 1 1 1 0) (ending 1))).pc = 0x10004 := by
  decide
/-- Little-endian (R4): bytes of a word in memory; a byte load is zero-extended by LDU and sign-extended by LD. -/
theorem test_load_bytes : xv (after (.lduB 5 6 1 0) (cell 0x8180)) 5 = 0 ∧ xv (after (.lduB 5 6 9 0) (cell 0x8180)) 5 = 0x81 ∧
    xv (after (.ld 5 6 0 8 0) (cell 0x8180)) 5 = 0xFFFFFFFFFFFFFF80 := by decide
theorem test_store_bytes : physBytes (after (.st 7 6 1 2 0) (xs 7 0xAABBCCDD (cell 0))) 0x20004 2 = [0xDD, 0xCC] ∧
    physNat (after (.st 7 6 1 2 0) (xs 7 0xAABBCCDD (cell 0))) 0x20008 8 = 0 := by decide
theorem test_stash : stashBytes (curCore (after (.sts 7 6 2 1 0) (xs 6 8 (xs 7 0x11223344 vm)))) 12 4 = [0x44, 0x33, 0x22, 0x11] := by decide
/-- R192: the old value is the result; memory takes the sum. -/
theorem test_amo_add : xv (after (.amoAdd 5 8 7 1 0) (xs 8 0x20008 (xs 7 3 (cell 5)))) 5 = 5 ∧
    physNat (after (.amoAdd 5 8 7 1 0) (xs 8 0x20008 (xs 7 3 (cell 5)))) 0x20008 8 = 8 := by decide
/-- R196: FSETV fills the future and sets FULL. -/
theorem test_future_set : physNat (after (.fsetv 6 7 0) (xs 7 9 (cell 0))) 0x20000 8 = 9 ∧
    physNat (after (.fsetv 6 7 0) (xs 7 9 (cell 0))) 0x20008 8 &&& 1 = 1 := by decide
/-- R134: KSIG adds to a semaphore; KWAIT takes. -/
theorem test_semaphore : (semOf (after (.ksig 6 3 0) (xs 6 2 r0)) k0 3).count = 2 ∧
    (semOf (after (.kwait 6 3 0) (after (.ksig 6 3 0) (xs 6 2 r0))) k0 3).count = 2 := by decide
/-- R130: a ring of one sender and one receiver, in order. -/
theorem test_ring : ringOf (after (.rsend 6 1 0) (xs 6 7 r0)) k0 1 = [⟨7, false⟩] := by decide
/-- R136: the last arrival of a team of two ends the generation; the first does not. -/
theorem test_barrier : (settleBarrier 2 (fun _ => false) { a := 3, g := 7 }) = { a := 0, g := 8 } ∧
    (settleBarrier 2 (fun _ => false) { a := 2, g := 7 }) = { a := 2, g := 7 } := by decide
/-- R205: the words of an ENQ, from the least significant 16 bits of the first register. -/
theorem test_enq : ((queueOf (after (.enq 3 6 7 1 0) (xs 6 0x4200C001 vm)) k0 .vx).words.map (·.w)) = [0xC001, 0x4200] := by decide
/-- R27: TRAP 17 saves the status and enters TVEC + 64 * 0x08 (USER), TVAL 17. -/
theorem test_trap : (curCtx (after (.trap 17 0) (cx (fun c => { c with tvec := 0x30000 }) vm))).tval = 17 ∧
    (curCtx (after (.trap 17 0) (cx (fun c => { c with tvec := 0x30000 }) vm))).tepc = 0x10000 := by decide
theorem test_tret : (curCtx (after (.tret 0) (cx (fun c => { c with tepc := 0x30000, tsave := 0x22 }) (inTrap r0)))).pc = 0x30000 ∧
    (curCtx (after (.tret 0) (cx (fun c => { c with tepc := 0x30000, tsave := 0x22 }) (inTrap r0)))).tstat = 0x22 := by decide
theorem test_crw : (curCtx (after (.crw 5 6 0x014 0) (xs 6 0x30000 r0))).tvec = 0x30000 ∧ xv (after (.crr 5 0x041 0) r0) 5 = 0 := by decide
/-- 25: QUIESCE of cluster 5 through the system window. -/
theorem test_quiesce : (clusOf (after (.st 7 6 3 0 0) (xs 6 0x00FF000000006140 (xs 7 1 vm))) ⟨0, 5⟩).req = 1 := by decide
/-- 16: insert key 0 payload 0x00F0, then 0x0F00: one record of slot 0 with 0x0FF0, NINS 2, GEN 1. -/
def cached : State := churned { cap := 16, opr := 11, psz := 0 } vm
def twice : State := after (.chins 5 8 9 63 0) (xs 9 0xF00 (after (.chins 5 8 9 63 0) (xs 9 0xF0 cached)))
theorem test_churn_folds : (churnOf twice 63).recs.map (fun r => (r.1, r.2.payload, r.2.nins, r.2.gen)) = [(0, leBytes 8 0xFF0, 2, 1)] := by decide
/-- Its header (take 1) with queue 63 for 3. -/
theorem test_churn_take : churnOldest (churnOf twice 63) = some 0 ∧ churnHeader (churnOf twice 63) 63 0 = 0x800100080002FC00 := by decide

/-- 20: MCHOL of A breaks down in column 2, the first two columns being done. -/
def broken : State := after (.mchol 0) (chols 0x30000)
set_option exponentiation.threshold 512 in
theorem test_cholesky_breaks : (curClus broken).array.fprog = 2 ∧ (curClus broken).array.brk = 0x8000030200000000 ∧
    (curClus broken).array.grow = 0x40A000003F4CCCCD := by decide
set_option exponentiation.threshold 512 in
theorem test_cholesky_columns : ((curClus broken).array.bank0.w) =
    [(0, 0x40000000), (128, 0x3F800000), (129, 0x40000000), (256, 0x3F800000), (257, 0x3F800000),
     (384, 0x3F800000), (386, 0x3F800000), (387, 0x40800000)] := by decide
/-- 10, R86: 256.0 plus 0.25 by ABFSR at 0x00100000 with the seed 0x15840000: stamp 5 rounds up to 258.0, stamp 0 does not. -/
def grad (stamp : Nat) : State :=
  physPut (cx (fun c => { c with srseed := 0x15840000 })
    (xs 6 0x100000 (xs 7 (BitVec.ofNat 64 (stamp * 2 ^ 32 + 0x3E800000)) vm))) 0x100000 2 0x4380
theorem test_stochastic : physNat (after (.abfsr 5 6 7 0) (grad 5)) 0x100000 2 = 0x4381 ∧
    physNat (after (.abfsr 5 6 7 0) (grad 0)) 0x100000 2 = 0x4380 := by decide
/-- R283: 1.5 + 2.0 = 3.5; a poisoned source element poisons its own result only. -/
def vecs : State :=
  co (fun c => { c with vec := { c.vec with rows := 1, cols := 2, elts := [(1024, { bits := 0x3FC00000 }), (1025, { poison := true }), (2048, { bits := 0x40000000 })] } }) vadds
theorem test_vadd : vGet (curCore (after (.vadd 0) vecs)).vec 3 0 0 = { bits := 0x40600000 } ∧
    (vGet (curCore (after (.vadd 0) vecs)).vec 3 0 1).poison = true := by decide
/-- R305: CPY moves stash bytes. -/
theorem test_cpy : stashBytes (curCore (after (.cpy 0) (co (fun c => { c with stash := [(0, 5), (63, 6)] }) cpys))) 95 1 = [6] ∧
    stashBytes (curCore (after (.cpy 0) (co (fun c => { c with stash := [(0, 5), (63, 6)] }) cpys))) 32 1 = [5] := by decide
/-- R221: the array is granted to rank 0 after rank 3. -/
theorem test_grant : (clusOf (after (.leaseGrant cl0) (cl (fun c => { c with leaseReqs := [3, 0] }) r0)) cl0).leaseHolder = some 0 := by decide
/-- R427: reset puts a context in mode 1 with no program. -/
theorem test_reset : tsPm (ctxOf r0 c0).tstat = 1 ∧ (ctxOf r0 c0).run = .off ∧ physBytes r0 0 2 = [0, 0] := by decide
end Sys2Proof.Tests
end

section
/-!
SUPPORT. Rules about the state's operations that the statements on registers and on the Crier rest on: folds over a table of the
state, the translations a TLB command drops, an interrupt message on its way out, and the new targets of the clusters.
-/
namespace Sys2Proof.Proofs
open Sys2Proof.Machine Sys2Proof.Claims

/-- Bytes and marks read as before where both tables of the memory stand. -/
theorem sameBytes_of_mem {s t : State} (hm : t.mem = s.mem) (hp : t.memPoison = s.memPoison) : SameBytes s t := fun a =>
  ⟨by simp only [physBytes, hm], by simp only [physMark, hp]⟩

/-- A fold keeps what each of its steps keeps. -/
theorem foldl_keeps {σ α β : Type} (p : σ → α) (f : σ → β → σ) (h : ∀ s e, p (f s e) = p s) (l : List β) (s : σ) :
    p (l.foldl f s) = p s :=
  List.foldlRecOn l f (motive := fun t => p t = p s) rfl fun t ht e _ => (h t e).trans ht

/-- A key without an entry holds the default. -/
theorem mget_of_not_mem {α : Type} (d : α) {m : SMap α} {n : Nat} (h : n ∉ m.map Prod.fst) : mget d m n = d := by
  induction m with
  | nil => rfl
  | cons e t ih =>
    obtain ⟨hn, ht⟩ := not_or.mp (mt List.mem_cons.mpr h)
    rw [mget, if_neg hn, ih ht]

/-- What a change of a cluster keeps of every cluster, it keeps of all of them. -/
theorem modClus_keeps {α : Type} (g : Cluster → α) (f : Cluster → Cluster) (h : ∀ x, g (f x) = g x) (s : State) (c d : ClusId) :
    g (clusOf (modClus s c f) d) = g (clusOf s d) := by
  by_cases e : clusKey d = clusKey c
  · have hd : clusOf (modClus s c f) d = f (clusOf s d) := by simp [clusOf, modClus, setClus, e]
    rw [hd, h]
  · rw [modClus, clusOf_setClus_other _ _ e]

/-! R160: the translations a TLB command drops. -/

/-- A table index is that of the core it names. -/
@[simp] theorem coreKey_coreOfKey (k : Nat) : coreKey (coreOfKey k) = k := by simp only [coreKey, coreOfKey]; omega

theorem coreOf_modClus (s : State) (c : ClusId) (f : Cluster → Cluster) (d : CoreId) : coreOf (modClus s c f) d = coreOf s d := rfl

theorem coreOf_modDie (s : State) (n : Nat) (f : Die → Die) (d : CoreId) : coreOf (modDie s n f) d = coreOf s d := rfl

theorem coreOf_modCore_eq (s : State) (c d : CoreId) (f : Core → Core) :
    coreOf (modCore s c f) d = if coreKey d = coreKey c then f (coreOf s d) else coreOf s d := by
  by_cases e : coreKey d = coreKey c
  · rw [if_pos e]; simp [coreOf, modCore, setCore, e]
  · rw [if_neg e, coreOf_modCore_other s f e]

/-- A change that is the same done twice, made at every listed core. -/
theorem coreOf_foldl_modCore {β : Type} (f : Core → Core) (hf : ∀ x, f (f x) = f x) (l : List (Nat × β)) (s : State) (c : CoreId) :
    coreOf (l.foldl (fun s e => modCore s (coreOfKey e.1) f) s) c =
      if coreKey c ∈ l.map Prod.fst then f (coreOf s c) else coreOf s c := by
  induction l generalizing s with
  | nil => simp
  | cons e l ih =>
    rw [List.foldl_cons, ih, coreOf_modCore_eq, coreKey_coreOfKey, List.map_cons]
    by_cases he : coreKey c = e.1
    · simp [he, hf]
    · simp only [List.mem_cons, he, false_or, if_false]

/-- Made at every core of the table, it is made at every core, where it leaves a core that nothing has changed yet. -/
theorem coreOf_foldl_cores (f : Core → Core) (hf : ∀ x, f (f x) = f x) (h0 : f {} = {}) (s : State) (c : CoreId) :
    coreOf (s.cores.foldl (fun s e => modCore s (coreOfKey e.1) f) s) c = f (coreOf s c) := by
  rw [coreOf_foldl_modCore f hf]
  split
  next => rfl
  next h =>
    have hc : coreOf s c = {} := mget_of_not_mem _ h
    rw [hc, h0]

theorem tlbiDrop_keeps {α : Type} (p : State → α) (hcore : ∀ s c v, p (setCore s c v) = p s)
    (hclus : ∀ s c v, p (setClus s c v) = p s) (hdie : ∀ s d v, p (setDie s d v) = p s)
    (cmd : BitVec 2 × BitVec 16 × Word) (s : State) : p (tlbiDrop cmd s) = p s :=
  (foldl_keeps p _ (fun t _ => hdie t _ _) _ _).trans
    ((foldl_keeps p _ (fun t _ => hclus t _ _) _ _).trans (foldl_keeps p _ (fun t _ => hcore t _ _) _ _))

theorem tlbiDrop_sameBytes (cmd : BitVec 2 × BitVec 16 × Word) (s : State) : SameBytes s (tlbiDrop cmd s) :=
  sameBytes_of_mem (tlbiDrop_keeps State.mem (fun _ _ _ => rfl) (fun _ _ _ => rfl) (fun _ _ _ => rfl) cmd s)
    (tlbiDrop_keeps State.memPoison (fun _ _ _ => rfl) (fun _ _ _ => rfl) (fun _ _ _ => rfl) cmd s)

/-- R160: a core without the translations that the command meets. -/
def dropTlb (cmd : BitVec 2 × BitVec 16 × Word) (x : Core) : Core :=
  { x with tlb := x.tlb.filter fun e => !tlbiHits cmd e.asid e.leaf.va e.leaf.size }

theorem dropTlb_dropTlb (cmd : BitVec 2 × BitVec 16 × Word) (x : Core) : dropTlb cmd (dropTlb cmd x) = dropTlb cmd x := by
  simp [dropTlb, List.filter_filter]

theorem coreOf_tlbiDrop (cmd : BitVec 2 × BitVec 16 × Word) (s : State) (c : CoreId) :
    coreOf (tlbiDrop cmd s) c = dropTlb cmd (coreOf s c) :=
  (foldl_keeps (fun t => coreOf t c) _ (fun t _ => coreOf_modDie t _ _ c) _ _).trans
    ((foldl_keeps (fun t => coreOf t c) _ (fun t _ => coreOf_modClus t _ _ c) _ _).trans
      (coreOf_foldl_cores (dropTlb cmd) (dropTlb_dropTlb cmd) rfl s c))

/-! R360, R405: a write that leaves a partition. -/

/-- Only the links, the tiers and what the tiers keep differ. -/
def SendsOnly (s t : State) : Prop :=
  ∃ link tiers stores, t = { s with pkg := { s.pkg with link := link, tiers := tiers, stores := stores } }

theorem sendsOnly_trans {s t u : State} (h : SendsOnly s t) (k : SendsOnly t u) : SendsOnly s u := by
  obtain ⟨_, _, _, rfl⟩ := h
  obtain ⟨_, _, _, rfl⟩ := k
  exact ⟨_, _, _, rfl⟩

theorem sendHost_sendsOnly (psn : Bool) (fuel : Nat) (s : State) (off : Nat) (bs : List Byte) :
    SendsOnly s (sendHost psn fuel s off bs) := by
  induction fuel generalizing s off bs with
  | zero => exact ⟨_, _, _, rfl⟩
  | succ fuel ih =>
    cases bs with
    | nil => exact ⟨_, _, _, rfl⟩
    | cons b bs => exact sendsOnly_trans ⟨_, _, _, rfl⟩ (ih _ _ _)

theorem sendOut_sendsOnly (s : State) (w : Leaving) : SendsOnly s (sendOut s w) := by
  cases w with
  | host off psn bs => exact sendsOnly_trans (sendHost_sendsOnly psn _ s off bs) ⟨_, _, _, rfl⟩
  | peer port off psn bs => exact ⟨_, _, _, rfl⟩
  | intr bs => exact ⟨_, _, _, rfl⟩
  | placed => exact ⟨_, _, _, rfl⟩

theorem escape_sendsOnly (s : State) (part : Nat) (e : EscEntry) (w : Leaving) : SendsOnly s (escape s part e w) := by
  simp only [escape]
  split
  next => exact sendOut_sendsOnly s w
  next =>
    split
    next => exact ⟨_, _, _, rfl⟩
    next => exact ⟨_, _, _, rfl⟩

theorem queueIntr_sendsOnly (s : State) (job : BitVec 32) (kind die part : Nat) : SendsOnly s (queueIntr s job kind die part) :=
  escape_sendsOnly _ _ _ _

/-! R414, R419: the judgement of the cap. -/

/-- What the judgement of the cap keeps: the bytes, the cores, the partitions, and the clusters but for their targets. -/
structure CapKept (s t : State) : Prop where
  mem : t.mem = s.mem
  memPoison : t.memPoison = s.memPoison
  cores : t.cores = s.cores
  parts : t.pkg.parts = s.pkg.parts
  clus : ∀ c, { clusOf t c with tgt := 0, rampAt := 0 } = { clusOf s c with tgt := 0, rampAt := 0 }

theorem capKept_refl (s : State) : CapKept s s := ⟨rfl, rfl, rfl, rfl, fun _ => rfl⟩

theorem capKept_trans {s t u : State} (h : CapKept s t) (k : CapKept t u) : CapKept s u :=
  ⟨k.mem.trans h.mem, k.memPoison.trans h.memPoison, k.cores.trans h.cores, k.parts.trans h.parts, fun c => (k.clus c).trans (h.clus c)⟩

theorem capKept_of_sendsOnly {s t : State} (h : SendsOnly s t) : CapKept s t := by
  obtain ⟨_, _, _, rfl⟩ := h
  exact ⟨rfl, rfl, rfl, rfl, fun _ => rfl⟩

theorem capKept_modClus (s : State) (c : ClusId) (f : Cluster → Cluster)
    (h : ∀ x, { f x with tgt := 0, rampAt := 0 } = { x with tgt := 0, rampAt := 0 }) : CapKept s (modClus s c f) :=
  ⟨rfl, rfl, rfl, rfl, modClus_keeps (fun x => { x with tgt := 0, rampAt := 0 }) f h s c⟩

theorem newTargets_capKept (s : State) : CapKept s (newTargets s) := by
  have ticked (t : State) (n : Nat) : CapKept t { t with tick := n } := ⟨rfl, rfl, rfl, rfl, fun _ => rfl⟩
  unfold newTargets
  refine capKept_trans (List.foldlRecOn (motive := CapKept s) _ _ (capKept_refl s) ?_) (ticked _ _)
  intro t ht k _
  exact capKept_trans ht (capKept_modClus t (clusOfKey k) _ fun _ => rfl)

theorem judgeCap_capKept (s : State) : CapKept s (judgeCap s) := by
  have message (t : State) (b : Bool) : CapKept t (if b then queueIntr t 0 2 0 0xFF else t) := by
    split
    next => exact capKept_of_sendsOnly (queueIntr_sendsOnly _ _ _ _ _)
    next => exact capKept_refl t
  have bits (f : Package → Package) (h : (f s.pkg).parts = s.pkg.parts) : CapKept s (modPkg s f) := ⟨rfl, rfl, rfl, h, fun _ => rfl⟩
  exact capKept_trans (bits _ rfl) (capKept_trans (newTargets_capKept _) (capKept_trans (message _ _) (message _ _)))

end Sys2Proof.Proofs
end

section
/-!
PROOFS. The registers that the Crier and the sideband write, one lemma for each event.
-/
namespace Sys2Proof.Proofs
open Sys2Proof.Machine Sys2Proof.Claims

/-! R25: the interrupt doorbell. -/

/-- R24, R25: INTP with an interrupt of this vector pending. -/
def intpRaised (intp : Word) (vec : Nat) : Word := (intp &&& 0xFFFFFFFFFFFF00FF#64) ||| BitVec.ofNat 64 (vec * 256) ||| 1

theorem intpRaised_pending (intp : Word) (vec : Nat) : (intpRaised intp vec).getLsbD 0 = true := by
  simp [intpRaised]

theorem intpRaised_vector (intp : Word) {vec : Nat} (h : vec < 256) : bitsAt (intpRaised intp vec) 8 8 = vec := by
  have hmask : (0xFFFFFFFFFFFF00FF#64).extractLsb' 8 8 = 0#8 := by decide
  have hone : (1 : Word).extractLsb' 8 8 = 0#8 := by decide
  rw [bitsAt, intpRaised, BitVec.extractLsb'_or, BitVec.extractLsb'_or, BitVec.extractLsb'_and, hmask, hone, BitVec.and_zero,
    BitVec.zero_or, BitVec.or_zero, BitVec.extractLsb'_toNat, BitVec.toNat_ofNat, Nat.shiftRight_eq_div_pow]
  omega

/-- A doorbell that names a context of the team raises its interrupt and sets its latch. -/
theorem clintPut_named {s : State} {c : ClusId} {v : Word} {x : Team} {kind : CtxKind} (hx : (clusOf s c).team = some x)
    (hv : v.toNat < 2 ^ 12) (hr : bitsAt v 8 2 < x.size) (hk : bitsAt v 10 2 = ctxCode kind) :
    clintPut s c v = modCtx s ⟨coreAt c (bitsAt v 8 2), kind⟩ fun k =>
      { putIntp s.cyc.toNat (intpRaised k.intp (bitsAt v 0 8)) k with latch := true } := by
  have hcode : ctxCode kind ≠ 3 := by cases kind <;> decide
  have hkind : (if ctxCode kind = 0 then CtxKind.load else if ctxCode kind = 1 then .exec else .store) = kind := by
    cases kind <;> rfl
  have hnot : (decide (2 ^ 12 ≤ v.toNat) || decide (ctxCode kind = 3) || decide (x.size ≤ bitsAt v 8 2)) = false := by
    simp only [Bool.or_eq_false_iff, decide_eq_false_iff_not, Nat.not_le]
    exact ⟨⟨hv, hcode⟩, hr⟩
  simp only [clintPut, hx, hk, hkind, hnot]
  rfl

theorem clintWrite_raises {s : State} {c : ClusId} {v : Word} {x : Team} {kind : CtxKind} (hx : (clusOf s c).team = some x)
    (hv : v.toNat < 2 ^ 12) (hr : bitsAt v 8 2 < x.size) (hk : bitsAt v 10 2 = ctxCode kind) :
    ∃ t, exec (.clintWrite c v) s = .next t ∧ SameBytes s t ∧
      (let k := ctxOf t ⟨coreAt c (bitsAt v 8 2), kind⟩
       k.latch = true ∧ k.intp.getLsbD 0 = true ∧ bitsAt k.intp 8 8 = bitsAt v 0 8) := by
  refine ⟨_, congrArg Host.Outcome.next (clintPut_named hx hv hr hk), sameBytes_of_mem rfl rfl, ?_⟩
  rw [ctxOf_modCtx]
  exact ⟨rfl, intpRaised_pending _ _, intpRaised_vector _ (BitVec.isLt _)⟩

/-! R160: the TLB commands. -/

/-- R160: a write of GO without reserved bits that finds no command in progress starts one, and clears DONE. -/
theorem tlbiWrite_starts {s : State} {die : Nat} {v : Word} (hres : v &&& 0xFFFFFFFE7FFC0000#64 = 0) (hgo : v.getLsbD 31 = true)
    (hkind : bitsAt v 16 2 ≠ 3) (hd : (dieOf s die).tlbDone = true) :
    tlbiWrite s die v = setDie s die { dieOf s die with
      tlbKind := v.extractLsb' 16 2, tlbAsid := v.setWidth 16, tlbDone := false,
      tlbCmd := some (v.extractLsb' 16 2, v.setWidth 16, (dieOf s die).tlbiva) } := by
  simp only [tlbiWrite, modDie, hres, hgo, hkind, hd, bne_self_eq_false, Bool.false_eq_true, if_false, ne_eq, not_false_eq_true,
    decide_true, Bool.and_true, Bool.not_true, Bool.and_false, if_true]

/-- R160: TLBICMD with GO, a kind and an ASID. -/
def tlbiWord (kind : Nat) (asid : BitVec 16) : Word := BitVec.ofNat 64 (2 ^ 31 + kind * 2 ^ 16 + asid.toNat)

/-- Its high part holds GO and the kind, its low part the ASID. -/
theorem tlbiWord_eq_append (kind : Nat) (asid : BitVec 16) :
    tlbiWord kind asid = (BitVec.ofNat 48 (2 ^ 15 + kind) ++ asid : BitVec (48 + 16)) := by
  apply BitVec.eq_of_toNat_eq
  have ha := asid.isLt
  rw [tlbiWord, BitVec.toNat_append, ← Nat.shiftLeft_add_eq_or_of_lt ha, BitVec.toNat_ofNat, BitVec.toNat_ofNat, Nat.shiftLeft_eq]
  omega

theorem tlbiWord_asid (kind : Nat) (asid : BitVec 16) : (tlbiWord kind asid).setWidth 16 = asid := by
  rw [tlbiWord_eq_append]
  exact BitVec.setWidth_append_eq_right

theorem kind_cases {kind : Nat} (hk : kind < 3) : kind = 0 ∨ kind = 1 ∨ kind = 2 := by omega

section
variable {kind : Nat} (hk : kind < 3) (asid : BitVec 16)
include hk

theorem tlbiWord_reserved : tlbiWord kind asid &&& 0xFFFFFFFE7FFC0000#64 = 0 := by
  have hmask : 0xFFFFFFFE7FFC0000#64 = (0xFFFFFFFE7FFC#48 ++ 0#16 : BitVec (48 + 16)) := by decide
  have hhigh : BitVec.ofNat 48 (2 ^ 15 + kind) &&& 0xFFFFFFFE7FFC#48 = 0#48 := by
    obtain rfl | rfl | rfl := kind_cases hk
    all_goals decide
  rw [tlbiWord_eq_append, hmask, BitVec.and_append, hhigh, BitVec.and_zero]
  rfl

theorem tlbiWord_kind : (tlbiWord kind asid).extractLsb' 16 2 = BitVec.ofNat 2 kind := by
  rw [tlbiWord_eq_append, BitVec.extractLsb'_append_eq_of_le (by decide)]
  obtain rfl | rfl | rfl := kind_cases hk
  all_goals decide

theorem tlbiWord_go : (tlbiWord kind asid).getLsbD 31 = true := by
  rw [tlbiWord_eq_append, BitVec.getLsbD_append, if_neg (by decide)]
  obtain rfl | rfl | rfl := kind_cases hk
  all_goals decide

/-- A command that finds none in progress is recorded with its kind, its ASID and the address, and clears DONE. -/
theorem tlbiGo_starts {s : State} {die : Nat} (hd : (dieOf s die).tlbDone = true) :
    tlbiGo s die kind asid = setDie s die { dieOf s die with
      tlbKind := BitVec.ofNat 2 kind, tlbAsid := asid, tlbDone := false,
      tlbCmd := some (BitVec.ofNat 2 kind, asid, (dieOf s die).tlbiva) } := by
  have hkind : bitsAt (tlbiWord kind asid) 16 2 ≠ 3 := by
    rw [bitsAt, tlbiWord_kind hk, BitVec.toNat_ofNat]
    omega
  show tlbiWrite s die (tlbiWord kind asid) = _
  rw [tlbiWrite_starts (tlbiWord_reserved hk asid) (tlbiWord_go hk asid) hkind hd, tlbiWord_kind hk, tlbiWord_asid]

end

theorem tlbiDone_drops {s : State} {die : Nat} {cmd : BitVec 2 × BitVec 16 × Word} (h : (dieOf s die).tlbCmd = some cmd) :
    ∃ t, exec (.tlbiDone die) s = .next t ∧ SameBytes s t ∧ (dieOf t die).tlbDone = true ∧ (dieOf t die).tlbCmd = none ∧
      ∀ c, (coreOf t c).tlb = (coreOf s c).tlb.filter fun e => !tlbiHits cmd e.asid e.leaf.va e.leaf.size := by
  have hexec : exec (.tlbiDone die) s = .next (modDie (tlbiDrop cmd s) die fun d => { d with tlbDone := true, tlbCmd := none }) := by
    show execTlbiDone die s = _
    rw [execTlbiDone, h]
  refine ⟨_, hexec, tlbiDrop_sameBytes cmd s, ?_, ?_, fun c => congrArg Core.tlb (coreOf_tlbiDrop cmd s c)⟩
  · rw [dieOf_modDie]
  · rw [dieOf_modDie]

/-! R369, R400: the bases of the rings that the Crier reads and writes. -/

theorem registerWrite_subbase {v : Word} (h : ringBaseOk v = true) (s : State) :
    exec (.registerWrite 0 0x0900 v) s = .next { s with pkg := { s.pkg with subbase := v } } := by
  have huse : pageUse 0 0x0900 = .crier := by decide
  show execRegisterWrite 0 0x0900 v s = _
  simp [execRegisterWrite, huse, crierWrite, offIn, h, modPkg]

theorem registerWrite_derbase {v : Word} (h : ringBaseOk v = true) (die : Nat) (s : State) :
    exec (.registerWrite die 0x2C80 v) s = .next (setDie s die { dieOf s die with derbase := v }) := by
  have huse : pageUse die 0x2C80 = .crier := by simp [pageUse, offIn]
  show execRegisterWrite die 0x2C80 v s = _
  simp [execRegisterWrite, huse, crierWrite, h, modDie]

/-! R401: the partition table. -/

/-- An entry that clashes with no other, of HBM within the package, is taken. -/
theorem partitionTableWrite_taken {s : State} {part : Nat} {w0 w1 w2 w3 : Word} (hb : partBound s part = false)
    (hclash : ∀ q, q < 8 → q ≠ part → partClash (partFields w0 w1 w2 w3) (mget {} s.pkg.parts q) = false)
    (hlim : (partFields w0 w1 w2 w3).hlim.toNat ≤ 384)
    (hbase : (partFields w0 w1 w2 w3).hbase.toNat < (partFields w0 w1 w2 w3).hlim.toNat) :
    ∃ t, exec (.partitionTableWrite part w0 w1 w2 w3) s = .next t ∧
      CapKept (modPkg s fun k => { k with parts := mset {} k.parts part (partFields w0 w1 w2 w3) }) t := by
  have hnone : ((List.range 8).any fun q =>
      decide (q ≠ part) && partClash (partFields w0 w1 w2 w3) (mget {} s.pkg.parts q)) = false := by
    simpa using hclash
  have hexec : exec (.partitionTableWrite part w0 w1 w2 w3) s = .next
      (let s1 := modPkg s fun k => { k with parts := mset {} k.parts part (partFields w0 w1 w2 w3) }
       if floorSum s1 = floorSum s then s1 else judgeCap s1) := by
    show execPartitionTableWrite part w0 w1 w2 w3 s = _
    simp only [execPartitionTableWrite, hb, hnone, Nat.not_lt.mpr hlim, Nat.not_le.mpr hbase]
    rfl
  refine ⟨_, hexec, ?_⟩
  dsimp only
  split
  next => exact capKept_refl _
  next => exact judgeCap_capKept _

/-! R402: the safe-tier table. -/

/-- R402: the entry that a write leaves: word 3 and what the tier does stand. -/
def tierEntry (s : State) (part : Nat) (w0 w1 w2 : Word) : Tier :=
  { mget ({} : Tier) s.pkg.tiers part with
    v := w0.getLsbD 63, base := w0.extractLsb' 12 28, size := w1.extractLsb' 12 28, rate := w2.setWidth 16 }

/-- R402: the tier is too small, ends beyond the host window, or overlaps another. -/
def TierRefused (s : State) (part b n : Nat) : Prop :=
  let p := mget ({} : Partition) s.pkg.parts part
  n < (2 * (p.hlim.toNat - p.hbase.toNat) + 1) * 2 ^ 18 ∨ 2 ^ 28 < b + n ∨
    ∃ q, q < 8 ∧ q ≠ part ∧ (let u := mget ({} : Tier) s.pkg.tiers q
      u.v = true ∧ b < u.base.toNat + u.size.toNat ∧ u.base.toNat < b + n)

/-- The test of the model for an entry with V = 1. -/
def tierTest (s : State) (part : Nat) (t : Tier) : Bool :=
  let p := mget ({} : Partition) s.pkg.parts part
  let clash := (List.range 8).any fun q =>
    let u := mget ({} : Tier) s.pkg.tiers q
    q ≠ part && u.v && meets t.base.toNat (tierEnd t) u.base.toNat (tierEnd u)
  clash || decide (t.size.toNat < (2 * (p.hlim.toNat - p.hbase.toNat) + 1) * 2 ^ 18) || 2 ^ 28 < tierEnd t

theorem tierTest_iff (s : State) (part : Nat) (t : Tier) :
    tierTest s part t = true ↔ TierRefused s part t.base.toNat t.size.toNat := by
  simp only [tierTest, meets, Bool.and_eq_true, Bool.or_eq_true, List.any_eq_true, List.mem_range, decide_eq_true_eq, and_assoc]
  exact or_assoc.trans or_rotate

theorem exec_safeTierWrite (part : Nat) (w0 w1 w2 : Word) (s : State) :
    exec (.safeTierWrite part w0 w1 w2) s = .next
      (if partBound s part || ((tierEntry s part w0 w1 w2).v && tierTest s part (tierEntry s part w0 w1 w2)) then s
       else modPkg s fun k => { k with tiers := mset {} k.tiers part (tierEntry s part w0 w1 w2) }) := rfl

theorem safeTierWrite_refused {s : State} {part : Nat} {w0 w1 w2 : Word} (hv : w0.getLsbD 63 = true)
    (h : TierRefused s part (bitsAt w0 12 28) (bitsAt w1 12 28)) : exec (.safeTierWrite part w0 w1 w2) s = .next s := by
  have htest := (tierTest_iff s part (tierEntry s part w0 w1 w2)).mpr h
  have hvalid : (tierEntry s part w0 w1 w2).v = true := hv
  rw [exec_safeTierWrite, htest, hvalid, Bool.and_true, Bool.or_true, if_pos rfl]

theorem safeTierWrite_writes {s : State} {part : Nat} {w0 w1 w2 : Word} (hb : partBound s part = false)
    (h : ¬ (w0.getLsbD 63 = true ∧ TierRefused s part (bitsAt w0 12 28) (bitsAt w1 12 28))) :
    exec (.safeTierWrite part w0 w1 w2) s =
      .next (modPkg s fun k => { k with tiers := mset {} k.tiers part (tierEntry s part w0 w1 w2) }) := by
  have htest : ¬ ((tierEntry s part w0 w1 w2).v && tierTest s part (tierEntry s part w0 w1 w2)) = true := by
    rw [Bool.and_eq_true, tierTest_iff]
    exact h
  rw [exec_safeTierWrite, hb, Bool.false_or, if_neg htest]

/-- An entry that is not refused is the partition's tier; nothing else changes. -/
theorem safeTierWrite_taken {s : State} {part : Nat} {w0 w1 w2 : Word} (hb : partBound s part = false)
    (h : ¬ (w0.getLsbD 63 = true ∧ TierRefused s part (bitsAt w0 12 28) (bitsAt w1 12 28))) :
    ∃ t, exec (.safeTierWrite part w0 w1 w2) s = .next t ∧ mget {} t.pkg.tiers part = tierEntry s part w0 w1 w2 ∧
      (∀ q, q ≠ part → mget ({} : Tier) t.pkg.tiers q = mget {} s.pkg.tiers q) ∧ t.cores = s.cores ∧ SameBytes s t :=
  ⟨_, safeTierWrite_writes hb h, mget_mset_same _ _ _ _, fun _ hq => mget_mset_other _ _ _ hq, rfl, sameBytes_of_mem rfl rfl⟩

/-- Settles O49: one lemma for each register, a TLB command and its end being two. -/
theorem registerEvents : Obligations.RegisterEvents := by
  unfold Obligations.RegisterEvents
  refine ⟨?doorbell, ?tlb, ?bases, ?partition, ?undeclared, ?tier⟩
  case doorbell =>
    intro c v s x kind hx hv hr hk
    exact clintWrite_raises hx hv hr hk
  case tlb =>
    intro die asid s
    constructor
    · intro hd
      exact ⟨congrArg Host.Outcome.next (tlbiGo_starts (kind := 0) (by decide) asid hd),
        congrArg Host.Outcome.next (tlbiGo_starts (kind := 1) (by decide) asid hd),
        congrArg Host.Outcome.next (tlbiGo_starts (kind := 2) (by decide) 0 hd)⟩
    · intro cmd hcmd
      obtain ⟨t, hexec, hsame, hdone, hnone, htlb⟩ := tlbiDone_drops hcmd
      exact ⟨t, hexec, hsame, hdone, hnone, fun c _ => htlb c⟩
  case bases =>
    intro v s h
    exact ⟨registerWrite_subbase h s, fun die => registerWrite_derbase h die s⟩
  case partition =>
    intro part w0 w1 w2 w3 s hb p hclash hlim hbase
    obtain ⟨t, hexec, k⟩ := partitionTableWrite_taken hb hclash hlim hbase
    refine ⟨t, hexec, ?_, fun q hq => ?_, k.cores, k.clus, sameBytes_of_mem k.mem k.memPoison⟩
    · rw [k.parts]
      exact mget_mset_same _ _ _ _
    · rw [k.parts]
      exact mget_mset_other _ _ _ hq
  case undeclared =>
    intro part w0 w1 w2 s hb hv
    have ht := safeTierWrite_taken (w1 := w1) (w2 := w2) hb fun h => Bool.false_ne_true (hv.symm.trans h.1)
    rwa [tierEntry, hv] at ht
  case tier =>
    intro part w0 w1 w2 s hb hv
    constructor
    · intro h
      exact safeTierWrite_refused hv h
    · intro h
      have ht := safeTierWrite_taken (w2 := w2) hb fun hr => h hr.2
      rwa [tierEntry, hv] at ht

end Sys2Proof.Proofs
end

section
/-!
SUPPORT. What a fetch of a context sees: the use of a translation changes no copy of a line, so that where no copy stands the
bytes are those of memory.
-/
namespace Sys2Proof.Proofs
open Sys2Proof.Machine Sys2Proof.Claims

/-! R158, R159, R163: what the home slices and the walk unit change. -/

/-- Only the dies, the package and the count of the free values differ. -/
def SlicesOnly (s t : State) : Prop := ∃ tick dies pkg, t = { s with tick := tick, dies := dies, pkg := pkg }

theorem slicesOnly_refl (s : State) : SlicesOnly s s := ⟨_, _, _, rfl⟩

theorem slicesOnly_trans {s t u : State} (h : SlicesOnly s t) (k : SlicesOnly t u) : SlicesOnly s u := by
  obtain ⟨_, _, _, rfl⟩ := h
  obtain ⟨_, _, _, rfl⟩ := k
  exact ⟨_, _, _, rfl⟩

theorem crierWraps_slicesOnly (s : State) (base n : Nat) (wrap : Nat → Bool) : SlicesOnly s (crierWraps s base n wrap) := by
  unfold crierWraps
  split
  · exact ⟨_, _, _, rfl⟩
  · exact slicesOnly_refl s

theorem countDie_slicesOnly (s : State) (d src n : Nat) : SlicesOnly s (countDie s d src n) := by
  unfold countDie
  split
  · exact slicesOnly_refl s
  · exact slicesOnly_trans ⟨_, _, _, rfl⟩ (crierWraps_slicesOnly _ _ _ _)

theorem evictHome_slicesOnly (s : State) (key line : Nat) : SlicesOnly s (evictHome s key line) := by
  have charged (b : Bool) (die tag src n : Nat) :
      SlicesOnly s (if b then countDie (charge s die tag 2 128) die src n else s) := by
    split
    · exact slicesOnly_trans ⟨_, _, _, rfl⟩ (countDie_slicesOnly _ _ _ _)
    · exact slicesOnly_refl s
  unfold evictHome
  dsimp only
  split
  · exact slicesOnly_refl s
  · split
    · exact slicesOnly_refl s
    · exact slicesOnly_trans (charged _ _ _ _ _) ⟨_, _, _, rfl⟩

theorem touchHome_slicesOnly (s : State) (key line : Nat) (tag : Byte) (store : Bool) :
    SlicesOnly s (touchHome s key line tag store) := by
  have homed {t : State} (h : SlicesOnly s t) (f : HomeLine → HomeLine) : SlicesOnly s (modHome t line f) :=
    slicesOnly_trans h ⟨_, _, _, rfl⟩
  unfold touchHome
  dsimp only
  split
  · exact slicesOnly_refl s
  · split
    · exact homed (countDie_slicesOnly _ _ _ _) _
    · refine homed ?_ _
      exact slicesOnly_trans (slicesOnly_trans (slicesOnly_trans (evictHome_slicesOnly s key line) ⟨_, _, _, rfl⟩)
        (countDie_slicesOnly _ _ _ _)) (countDie_slicesOnly _ _ _ _)

theorem touchWalk_slicesOnly (s : State) (id : CoreId) (va : Nat) : SlicesOnly s (touchWalk s id va) := by
  unfold touchWalk
  split
  · exact slicesOnly_refl s
  · exact List.foldlRecOn (motive := SlicesOnly s) _ _ (slicesOnly_refl s)
      fun t ht _ _ => slicesOnly_trans ht (touchHome_slicesOnly _ _ _ _ _)

/-! The copies of a line. -/

/-- Memory and the copies that a core may see of a line stand: its L1, its mapped stash, the write buffer of its cluster. -/
structure CopiesKept (id : CoreId) (s t : State) : Prop where
  mem : t.mem = s.mem
  l1 : (coreOf t id).l1 = (coreOf s id).l1
  maps : (coreOf t id).maps = (coreOf s id).maps
  wbuf : (clusOf t (CoreId.cl id)).wbuf = (clusOf s (CoreId.cl id)).wbuf

theorem copiesKept_refl (id : CoreId) (s : State) : CopiesKept id s s := ⟨rfl, rfl, rfl, rfl⟩

theorem copiesKept_trans {id : CoreId} {s t u : State} (h : CopiesKept id s t) (k : CopiesKept id t u) : CopiesKept id s u :=
  ⟨k.mem.trans h.mem, k.l1.trans h.l1, k.maps.trans h.maps, k.wbuf.trans h.wbuf⟩

theorem copiesKept_of_slicesOnly (id : CoreId) {s t : State} (h : SlicesOnly s t) : CopiesKept id s t := by
  obtain ⟨_, _, _, rfl⟩ := h
  exact ⟨rfl, rfl, rfl, rfl⟩

theorem count_copiesKept (s : State) (id : CoreId) (src n : Nat) (su : Bool) : CopiesKept id s (count s id src n su) := by
  have h := count_only s id src n su
  obtain ⟨_, _, _, _, _, _, hcore⟩ := h.here
  exact ⟨(congrArg State.mem h.rest :), (congrArg Core.l1 hcore :), (congrArg Core.maps hcore :),
    (congrArg (fun u => (clusOf u (CoreId.cl id)).wbuf) h.rest :)⟩

theorem lookUp_copiesKept (l1 : Bool) (s : State) (id : CoreId) (va : Nat) : CopiesKept id s (lookUp l1 s id va) := by
  have counted (b : Bool) (su : Bool) : CopiesKept id s (if b then count s id 0x44 1 su else s) := by
    split
    · exact count_copiesKept s id _ _ _
    · exact copiesKept_refl id s
  unfold lookUp
  dsimp only
  split
  · exact copiesKept_refl id s
  · split
    · exact counted _ _
    · exact copiesKept_trans (copiesKept_trans (counted _ _) (count_copiesKept _ id _ _ _))
        (copiesKept_of_slicesOnly id (touchWalk_slicesOnly _ _ _))

/-- R159: the use of a translation changes the tables of translations, the counters and the home slices, and no copy of a line. -/
theorem fillTlb_copiesKept (s : State) (id : CoreId) (l : Leaf) : CopiesKept id s (fillTlb s id l) := by
  have cached (t : State) (f : Core → List TlbEnt) (g : Cluster → List TlbEnt) :
      CopiesKept id t (modClus (modCore t id fun c => { c with tlb := f c }) (CoreId.cl id) fun c => { c with tlb := g c }) :=
    ⟨rfl, by rw [coreOf_modClus, coreOf_modCore], by rw [coreOf_modClus, coreOf_modCore], by rw [clusOf_modClus]; rfl⟩
  unfold fillTlb fillTlbBy
  dsimp only
  split
  · exact copiesKept_refl id s
  · exact copiesKept_trans (lookUp_copiesKept true s id l.va)
      (copiesKept_trans (cached _ (fun c => putTlb 64 _ _ c.tlb) (fun c => putTlb 2048 _ _ c.tlb))
        (copiesKept_of_slicesOnly id ⟨_, _, _, rfl⟩))

/-! R162, R169, R179: a line without a copy is that of memory. -/

theorem mget_mem {α : Type} (d : α) (m : SMap α) (n : Nat) : mget d m n = d ∨ (n, mget d m n) ∈ m := by
  induction m with
  | nil => exact .inl rfl
  | cons e t ih =>
    rw [mget]
    split
    next h => exact .inr (h ▸ List.mem_cons_self)
    next => exact ih.imp_right (List.mem_cons_of_mem _)

theorem mget_mslice {α : Type} (d : α) (m : SMap α) {lo n k : Nat} (h : lo ≤ k ∧ k < lo + n) :
    mget d (mslice m lo n) k = mget d m k := by
  induction m with
  | nil => rfl
  | cons e t ih =>
    rw [mslice] at ih ⊢
    rw [List.filter_cons, mget]
    by_cases hk : k = e.1
    · have hin : (lo ≤ e.1 && e.1 < lo + n) = true := by simpa [← hk] using h
      rw [if_pos hin, mget, if_pos hk, if_pos hk]
    · rw [if_neg hk, ← ih]
      split
      · rw [mget, if_neg hk]
      · rfl

/-- A byte that is not dirty in the other copy stands. -/
theorem mget_patchBytes_clean (dst src : SMap Byte) {dirty : SMap Nat} {a : Nat} (h : ∀ d ∈ dirty, d.1 ≠ a) :
    mget 0 (patchBytes dst src dirty) a = mget 0 dst a := by
  unfold patchBytes
  exact List.foldlRecOn (motive := fun m => mget 0 m a = mget 0 dst a) dirty _ rfl
    fun m hm e he => (mget_mset_other 0 m _ (h e he).symm).trans hm

theorem getBytes_congr {m m' : SMap Byte} {a n : Nat} (h : ∀ b, a ≤ b → b < a + n → mget 0 m b = mget 0 m' b) :
    getBytes m a n = getBytes m' a n := by
  induction n generalizing a with
  | zero => rfl
  | succ n ih =>
    rw [getBytes, getBytes, h a (Nat.le_refl a) (by omega), ih fun b hb hn => h b (by omega) (by omega)]

/-- What a core sees of a line that it neither holds nor maps: memory, with what its cluster's write buffer holds. -/
theorem seenBytes_unheld {s : State} {id : CoreId} {pa : Nat} (n : Nat) (hl : (l1Of s id (pa / 128)).held = false)
    (hm : mappedAt (coreOf s id) (pa / 128) = []) (hk : paKind (128 * (pa / 128)) = .hbm) :
    seenBytes s id pa n = getBytes (patchBytes (mslice s.mem (128 * (pa / 128)) 128)
      (mget {} (clusOf s (CoreId.cl id)).wbuf (pa / 128)).bytes (mget {} (clusOf s (CoreId.cl id)).wbuf (pa / 128)).dirty) pa n := by
  simp only [seenBytes, hl, fillImage, hm, homeImage, hk, if_true, Bool.false_eq_true, if_false, List.foldl_nil]

/-- Bytes of memory without a copy are seen as memory has them, also in a later state with the same copies. -/
theorem seenBytes_fromMemory {s t : State} {pa n : Nat} (h : FromMemory s pa n) (k : CopiesKept s.cur.core s t) :
    seenBytes t s.cur.core pa n = physBytes s pa n := by
  obtain ⟨hkind, hfit, hl1, hmap, hclean⟩ := h
  have hheld : (l1Of t s.cur.core (pa / 128)).held = false := by
    rw [l1Of, k.l1]
    exact congrArg L1Line.held hl1
  have hunmapped : mappedAt (coreOf t s.cur.core) (pa / 128) = [] := by
    rw [mappedAt, k.maps]
    exact hmap
  rw [seenBytes_unheld n hheld hunmapped hkind, k.mem, k.wbuf, physBytes]
  refine getBytes_congr fun b hb hn => ?_
  have hdirty : ∀ d ∈ (mget {} (curClus s).wbuf (pa / 128)).dirty, d.1 ≠ b := by
    intro d hd hdb
    obtain hnone | hsome := mget_mem {} (curClus s).wbuf (pa / 128)
    · rw [hnone] at hd
      exact absurd hd List.not_mem_nil
    · exact hclean b (by omega) (by omega) (.inr (.inl ⟨_, hsome, d, hd, hdb⟩))
  exact (mget_patchBytes_clean _ _ hdirty).trans (mget_mslice 0 s.mem (by omega))

/-- R21: a fetch of bytes without a copy takes them from memory. -/
theorem fetchBytes_fromMemory {s : State} {id : CoreId} {pa n : Nat} (hid : s.cur.core = id) (l : Leaf) (h : FromMemory s pa n) :
    (fetchBytes (fillTlb s id l) id pa n).1 = physBytes s pa n := by
  subst hid
  exact seenBytes_fromMemory h (fillTlb_copiesKept s _ l)

end Sys2Proof.Proofs
end

section
/-!
PROOFS. A step runs the instruction that it decodes: what the next move comes to for a context, an engine and an event.
-/
namespace Sys2Proof.Proofs
open Sys2Proof.Machine Sys2Proof.Claims

/-- No instruction's meaning ends in a fault or a refusal: each arm of the dispatch answers a next state. -/
theorem exec_next (i : Instr) (s : State) : ∃ t, exec i s = .next t := by
  cases i <;> exact ⟨_, rfl⟩

/-- An instruction that a move comes to is executed, and then cycles pass. -/
theorem runTodo_run (i : Instr) (s : State) : ∃ t, exec i s = .next t ∧ runTodo (.run i s) = .next (passTime t) := by
  obtain ⟨t, ht⟩ := exec_next i s
  exact ⟨t, ht, by rw [runTodo, ht]⟩

/-- R1: a step with a move of the package at the head of its agenda makes that move, in the order of its cycle. -/
theorem step_agenda {s : State} {m : Move} {rest : List Move} (h : s.agenda = m :: rest) (hm : moveOk m = true) :
    step s = runTodo (todo (inTurn s m rest) m) := by
  simp only [step, nextMove, h, hm, if_true]
  rfl

/-- The step is exec of what the move at the head of the agenda comes to. -/
theorem step_runs {s u : State} {m : Move} {rest : List Move} {i : Instr} (h : s.agenda = m :: rest) (hm : moveOk m = true)
    (hi : todo (inTurn s m rest) m = .run i u) : ∃ t, exec i u = .next t ∧ step s = .next (passTime t) := by
  rw [step_agenda h hm, hi]
  exact runTodo_run i u

/-! R21, R326: a context. -/

/-- R326: a context lives where its core is not being removed, and neither it nor its team is held. -/
theorem ctxLive_of {s : State} {c : CtxId} (hrem : (coreOf s c.core).removal = none) (hheld : (ctxOf s c).held = false)
    (hteam : ∀ t, teamOf s c.core = some t → t.restoring = false) : ctxLive s c = true := by
  have hrest : (match teamOf s c.core with | some t => !t.restoring | none => true) = true := by
    cases ht : teamOf s c.core with
    | none => rfl
    | some t => simp [hteam t ht]
  simp only [ctxLive, hrem, hheld, Option.isNone_none, Bool.not_false, Bool.true_and]
  exact hrest

theorem ctxLive_of_acts {s : State} {c : CtxId} (h : Acts s c) : ctxLive s c = true := by
  obtain ⟨-, hrem, hheld, hteam⟩ := h
  exact ctxLive_of hrem hheld hteam

/-- R23: no interrupt is due inside a handler. -/
theorem intrDue_inh {s : State} {c : CtxId} (h : tsInh (ctxOf s c).tstat = true) : intrDue s c = false := by
  simp [intrDue, atBoundary, h]

/-- R23: an interrupt is due only where it is enabled, is pending and became so in an earlier cycle. -/
theorem intrDue_pending {s : State} {c : CtxId} (h : intrDue s c = true) :
    tsIe (ctxOf s c).tstat = true ∧ (ctxOf s c).intp &&& 3 ≠ 0 ∧ (ctxOf s c).intpAt ≠ s.cyc.toNat + 1 := by
  simp only [intrDue, Bool.and_eq_true, bne_iff_ne, decide_eq_true_eq] at h
  obtain ⟨⟨⟨⟨-, hie⟩, hpend⟩, hat⟩, -⟩ := h
  exact ⟨hie, hpend, hat⟩

/-- R326: a context that lives, has power and runs fetches, where no trap, interrupt or wait comes first. -/
theorem ctxMove_fetches {s : State} {c : CtxId} (hlive : ctxLive { s with cur := c } c = true)
    (hpower : powered { s with cur := c } c.core = true) (hbudget : budgetNow { s with cur := c } c = false)
    (hengine : engDue { s with cur := c } c = false) (hintr : intrDue { s with cur := c } c = false)
    (hrun : (ctxOf { s with cur := c } c).run = .running) (hwait : (ctxOf { s with cur := c } c).wait = none) :
    ctxMove s c = fetchCtx { s with cur := c } c := by
  simp [ctxMove, hlive, hpower, hbudget, hengine, hintr, hrun, hwait]

/-- R326: where nothing comes before its next instruction, the move of a context is a fetch. -/
theorem ctxMove_issues {s : State} {c : CtxId} {rest : List Move} (h : Issues s c rest) :
    ctxMove (inTurn s (.ctx c) rest) c = fetchCtx (issuing s c rest) c := by
  have hbudget : budgetNow (issuing s c rest) c = false := by simp [budgetNow, h.budget]
  have hengine : engDue (issuing s c rest) c = false := by simp [engDue, h.engines]
  have hintr : intrDue (issuing s c rest) c = false := by
    refine Bool.eq_false_iff.mpr fun hdue => ?_
    obtain ⟨hie, hpend, hat⟩ := intrDue_pending hdue
    exact Bool.false_ne_true ((intrDue_inh (h.interrupts hie hpend hat)).symm.trans hdue)
  exact ctxMove_fetches (ctxLive_of_acts h.acts) h.powered hbudget hengine hintr h.acts.1 h.wait

/-- R21, R55: a fetch that finds a translation and a word with a meaning runs it. -/
theorem fetchCtx_decodes {s : State} {c : CtxId} {x : Xl} {i : Instr}
    (hx : translate s c.core (isSuper (ctxOf s c)) .fetch (ctxOf s c).pc.toNat = .ok x)
    (hi : decode32 (BitVec.ofNat 32 (leNat (fetchBytes (fillTlb s c.core x.leaf) c.core x.pa 4).1)) = .ok i) :
    fetchCtx s c = .run i (fetchBytes (fillTlb s c.core x.leaf) c.core x.pa 4).2 := by
  simp only [fetchCtx, hx, hi]

/-- R174: only a TTSET has engine words before it. -/
theorem beforeTtset_other {i : Instr} (h : ∀ d a b n g, i ≠ .ttset d a b n g) (s : State) : beforeTtset i s = s := by
  unfold beforeTtset
  split
  · exact absurd rfl (h _ _ _ _ _)
  · rfl

/-! R212, R335: an engine. -/

theorem beginEntry_words (q : Queue) : (beginEntry q).words = q.words := by unfold beginEntry; split <;> rfl
theorem beginEntry_pos (q : Queue) : (beginEntry q).pos = q.pos := by unfold beginEntry; split <;> rfl

/-- The state in which the engine takes a word: at the first of an entry, its registers are kept for a fresh start. -/
def begun (s : State) (c : CoreId) (e : Eng) : State := if (queueOf s c e).pos = 0 then modQueue s c e beginEntry else s

theorem queueOf_begun (s : State) (c : CoreId) (e : Eng) :
    (queueOf (begun s c e) c e).words = (queueOf s c e).words ∧ (queueOf (begun s c e) c e).pos = (queueOf s c e).pos := by
  unfold begun
  split
  · rw [queueOf_modQueue]
    exact ⟨beginEntry_words _, beginEntry_pos _⟩
  · exact ⟨rfl, rfl⟩

/-- R212: an engine that works, inside of no entry and with a whole entry in its queue, takes the word at its head. -/
theorem engMove_runs {s : State} {c : CoreId} {e : Eng} {rest : List Move} (h : Runs s c e rest) :
    engMove (inTurn s (.eng c e) rest) c e = engHead (taking s c e rest) c e := by
  obtain ⟨hworks, hpreempt⟩ := h.works
  obtain ⟨hreplay, hentry⟩ := h.queue
  have hlaunch : (queueOf (taking s c e rest) c e).words.any (fun w => isLaunch w.w) = true := by
    simpa [isLaunch] using h.launch
  unfold taking at hworks hpreempt hreplay hentry hlaunch ⊢
  simp [engMove, hworks, hreplay, hentry, hpreempt, hlaunch]

/-- R205, R212: an entry that passes its checks goes on to its next word. -/
theorem engHead_begun {s : State} {c : CoreId} {e : Eng}
    (h : (queueOf s c e).pos = 0 → refuseEntry (begun s c e) c e = none) : engHead s c e = nextWord (begun s c e) c e := by
  unfold engHead
  by_cases hpos : (queueOf s c e).pos = 0
  · have hbegun : begun s c e = modQueue s c e beginEntry := if_pos hpos
    have hpass := h hpos
    rw [hbegun] at hpass ⊢
    simp only [hpos, hpass]
    rfl
  · have hbegun : begun s c e = s := if_neg hpos
    simp [hbegun, hpos]

/-- R135, R174, R212: a clean word that gives way to no other engine runs as it decodes. -/
theorem nextWord_decodes {s : State} {c : CoreId} {e : Eng} {w : QWord} {i : Instr}
    (hw : (queueOf s c e).words[(queueOf s c e).pos]? = some w) (hi : decode16 e w.w = .ok i) (hp : w.poisonAt = none)
    (ha : w.w.extractLsb' 14 2 = 1 → engSemAhead s c e = false ∧ engTileAhead s c e = false) : nextWord s c e = .run i s := by
  have hahead : (isLaunch w.w && (engSemAhead s c e || engTileAhead s c e)) = false := by
    by_cases hl : w.w.extractLsb' 14 2 = 1
    · obtain ⟨hsem, htile⟩ := ha hl
      simp [hsem, htile]
    · have hnot : isLaunch w.w = false := decide_eq_false hl
      rw [hnot, Bool.false_and]
  simp [nextWord, hw, hp, hahead, hi]

/-- Settles O52: the move at the head of the agenda comes to the instruction, by one lemma for each kind of mover. -/
theorem stepRunsDecoded : Obligations.StepRunsDecoded := by
  unfold Obligations.StepRunsDecoded
  refine ⟨?context, ?engine, ?event⟩
  case context =>
    intro s c rest x i h v hx r hi
    have htodo : todo (inTurn s (.ctx c) rest) (.ctx c) = .run i (beforeTtset i r.2) := by
      rw [todo, ctxMove_issues h, fetchCtx_decodes hx hi]
    refine ⟨step_runs h.agenda h.inPackage htodo, fun hother => beforeTtset_other hother r.2, fun hmem => ?_⟩
    exact fetchBytes_fromMemory rfl x.leaf hmem
  case engine =>
    intro s c e rest w i h v hw hi u hpass hp hahead
    have hwu : (queueOf u c e).words[(queueOf u c e).pos]? = some w := by
      obtain ⟨hwords, hpos⟩ := queueOf_begun v c e
      rwa [← hwords, ← hpos] at hw
    have htodo : todo (inTurn s (.eng c e) rest) (.eng c e) = .run i u := by
      rw [todo, engMove_runs h, engHead_begun hpass]
      exact nextWord_decodes hwu hi hp hahead
    exact step_runs h.agenda h.inPackage htodo
  case event =>
    intro s i rest h hcode hwf
    have hok : moveOk (.event i) = true := by simp [moveOk, isEvent, hcode, hwf]
    exact step_runs h hok rfl

end Sys2Proof.Proofs
end

section
/-!
SUPPORT. What taking a trap does to the machine: the status of R15 field by field, the frame of the context that enters its handler,
and what of its core stands.
-/
namespace Sys2Proof.Proofs
open Sys2Proof.Machine Sys2Proof.Claims

/-! R15: the fields of a packed status. -/

section
variable (inh : Bool) (pm ppm : BitVec 2) (ie pie : Bool) (cause : BitVec 8)

/-- Bit k of a status is that of the field it lies in. -/
theorem getLsbD_tsPack {k : Nat} (hk : k < 64) : (tsPack inh pm ppm ie pie cause).getLsbD k =
    (decide (k = 0) && inh || decide (1 ≤ k) && pm.getLsbD (k - 1) || decide (3 ≤ k) && ppm.getLsbD (k - 3) ||
      decide (k = 5) && ie || decide (k = 6) && pie || decide (16 ≤ k) && cause.getLsbD (k - 16)) := by
  have flag (b : Bool) (j : Nat) : ((if b then 2 ^ j else 0 : Nat) : Word).getLsbD k = (decide (k = j) && b) := by
    cases b
    · simp
    · rw [if_pos rfl, BitVec.natCast_eq_ofNat, BitVec.getLsbD_ofNat, Nat.testBit_two_pow]
      simp [hk, eq_comm]
  have field {w : Nat} (v : BitVec w) (j : Nat) : (v.setWidth 64 <<< j).getLsbD k = (decide (j ≤ k) && v.getLsbD (k - j)) := by
    have hlt : k - j < 64 := by omega
    simp only [BitVec.getLsbD_shiftLeft, BitVec.getLsbD_setWidth, hk, hlt, decide_true, Bool.true_and, ← Nat.not_le, decide_not,
      Bool.not_not]
  have hinh : ((if inh then 1 else 0 : Nat) : Word).getLsbD k = (decide (k = 0) && inh) := flag inh 0
  have hie : ((if ie then 0x20 else 0 : Nat) : Word).getLsbD k = (decide (k = 5) && ie) := flag ie 5
  have hpie : ((if pie then 0x40 else 0 : Nat) : Word).getLsbD k = (decide (k = 6) && pie) := flag pie 6
  simp only [tsPack, BitVec.getLsbD_or, field, hinh, hie, hpie]

theorem tsInh_tsPack : tsInh (tsPack inh pm ppm ie pie cause) = inh := by
  rw [tsInh, getLsbD_tsPack _ _ _ _ _ _ (by decide)]
  simp

theorem tsIe_tsPack : tsIe (tsPack inh pm ppm ie pie cause) = ie := by
  rw [tsIe, getLsbD_tsPack _ _ _ _ _ _ (by decide)]
  simp

theorem tsPie_tsPack : tsPie (tsPack inh pm ppm ie pie cause) = pie := by
  rw [tsPie, getLsbD_tsPack _ _ _ _ _ _ (by decide)]
  simp

theorem tsPm_tsPack : tsPm (tsPack inh pm ppm ie pie cause) = pm := by
  apply BitVec.eq_of_getLsbD_eq
  intro i hi
  obtain rfl | rfl : i = 0 ∨ i = 1 := by omega
  all_goals
    rw [tsPm, BitVec.getLsbD_extractLsb', getLsbD_tsPack _ _ _ _ _ _ (by decide)]
    simp

theorem tsPpm_tsPack : tsPpm (tsPack inh pm ppm ie pie cause) = ppm := by
  apply BitVec.eq_of_getLsbD_eq
  intro i hi
  obtain rfl | rfl : i = 0 ∨ i = 1 := by omega
  all_goals
    rw [tsPpm, BitVec.getLsbD_extractLsb', getLsbD_tsPack _ _ _ _ _ _ (by decide)]
    simp

theorem tsCause_tsPack : tsCause (tsPack inh pm ppm ie pie cause) = cause := by
  apply BitVec.eq_of_getLsbD_eq
  intro i hi
  have hpm : pm.getLsbD (16 + i - 1) = false := BitVec.getLsbD_of_ge _ _ (by omega)
  have hppm : ppm.getLsbD (16 + i - 3) = false := BitVec.getLsbD_of_ge _ _ (by omega)
  have hie : 16 + i ≠ 5 := by omega
  have hpie : 16 + i ≠ 6 := by omega
  rw [tsCause, BitVec.getLsbD_extractLsb', getLsbD_tsPack _ _ _ _ _ _ (by omega), hpm, hppm]
  simp [hi, hie, hpie]

end

/-- R329: the handler of a cause stands 64 bytes for each cause above the vector. -/
theorem ofNat_vectorOffset (cause : BitVec 8) : BitVec.ofNat 64 (cause.toNat * 64) = cause.setWidth 64 * 64 := by
  apply BitVec.eq_of_toNat_eq
  simp

/-! R27, R329: the first trap of a context that is in its program. -/

/-- The context as it enters its handler; under a pre-emption request it stops there (R335). -/
def inHandler (s : State) (c : CtxId) (cause : BitVec 8) (tval epc : Word) (stopped : Option StopId) (k : Ctx) : Ctx :=
  { enterTrap s.cyc.toNat cause tval epc stopped k with held := k.held || preempting s c.core }

section
variable {s : State} {c : CtxId} {cause : BitVec 8} {tval epc : Word} {stopped : Option StopId}

/-- A trap of a context outside its handler is counted, and the context enters its handler; nothing else happens. -/
theorem takeTrap_enters (h : tsInh (ctxOf s c).tstat = false) : ∃ u, CountsOnly c.core s u ∧
    takeTrap s c cause tval epc stopped = modCtx u c (inHandler s c cause tval epc stopped) := by
  have counted (su : Bool) : CountsOnly c.core s (if c.kind = .store then s else count s c.core 0x33 1 su) := by
    split
    · exact CountsOnly_refl _ s
    · exact count_only s c.core 0x33 1 su
  refine ⟨_, counted (isSuper (ctxOf s c)), ?_⟩
  simp only [takeTrap, h, Bool.not_false, if_true]
  rfl

/-- What counting leaves of a context. -/
theorem ctxOf_counted {u : State} (h : CountsOnly c.core s u) :
    ∃ i j l, ctxOf u c = { ctxOf s c with intp := i, intpAt := j, latch := l } := ctxIn_counted h.here c.kind

theorem countsOnly_sameBytes {core : CoreId} {u : State} (h : CountsOnly core s u) : SameBytes s u :=
  sameBytes_of_mem (congrArg State.mem h.rest :) (congrArg State.memPoison h.rest :)

theorem takeTrap_sameBytes (h : tsInh (ctxOf s c).tstat = false) : SameBytes s (takeTrap s c cause tval epc stopped) := by
  obtain ⟨u, hu, ht⟩ := takeTrap_enters h
  rw [ht]
  exact (countsOnly_sameBytes hu :)

theorem takeTrap_cur (h : tsInh (ctxOf s c).tstat = false) : (takeTrap s c cause tval epc stopped).cur = s.cur := by
  obtain ⟨u, hu, ht⟩ := takeTrap_enters h
  rw [ht]
  exact (CountsOnly_cur hu :)

theorem ctxOf_takeTrap (h : tsInh (ctxOf s c).tstat = false) : ∃ i j l, ctxOf (takeTrap s c cause tval epc stopped) c =
    inHandler s c cause tval epc stopped { ctxOf s c with intp := i, intpAt := j, latch := l } := by
  obtain ⟨u, hu, ht⟩ := takeTrap_enters h
  obtain ⟨i, j, l, hctx⟩ := ctxOf_counted hu
  exact ⟨i, j, l, by rw [ht, ctxOf_modCtx, hctx]⟩

theorem queueOf_modCtx (u : State) (c : CtxId) (f : Ctx → Ctx) (e : Eng) :
    queueOf (modCtx u c f) c.core e = queueOf u c.core e := by
  simp [queueOf, modCtx, setCtx]

theorem ctxOf_modQueue (u : State) (c : CtxId) (e : Eng) (f : Queue → Queue) : ctxOf (modQueue u c.core e f) c = ctxOf u c := by
  simp [ctxOf, modQueue, setQueue]

theorem queueOf_counted {core : CoreId} {u : State} (h : CountsOnly core s u) (e : Eng) : queueOf u core e = queueOf s core e := by
  obtain ⟨_, _, _, _, _, _, hcore⟩ := h.here
  rw [queueOf, hcore]
  cases e <;> rfl

theorem queueOf_takeTrap (h : tsInh (ctxOf s c).tstat = false) (e : Eng) :
    queueOf (takeTrap s c cause tval epc stopped) c.core e = queueOf s c.core e := by
  obtain ⟨u, hu, ht⟩ := takeTrap_enters h
  rw [ht, queueOf_modCtx, queueOf_counted hu]

end

/-! The frame of a change of one context. -/

theorem coreKept_setCtxIn (k : CtxKind) (c : Core) (v : Ctx) : coreKept (setCtxIn k c v) = coreKept c := by cases k <;> rfl

theorem coreKept_counted {a b : Core} (h : CountedFrom a b) : coreKept b = coreKept a := by
  obtain ⟨_, _, _, _, _, _, rfl⟩ := h
  rfl

theorem ctxQuiet_counted {a b : Core} (h : CountedFrom a b) (k : CtxKind) : ctxQuiet (ctxIn k b) = ctxQuiet (ctxIn k a) := by
  obtain ⟨i, j, l, hctx⟩ := ctxIn_counted h k
  rw [hctx]
  rfl

theorem coreOf_of_key (s : State) {c d : CoreId} (h : coreKey d = coreKey c) : coreOf s d = coreOf s c :=
  congrArg (fun n => mget ({} : Core) s.cores n) h

/-- Counting at a core and a change of one of its contexts leave all but that context, up to what `mc` leaves out of it. -/
theorem kept_modCtx {s u : State} {c : CtxId} {f : Ctx → Ctx} {mc : Ctx → Ctx} (h : CountsOnly c.core s u)
    (hf : ∀ k, mc (ctxKept (f k)) = mc (ctxKept k)) : Kept id id mc (asMover s c) (asMover (modCtx u c f) c) := by
  have hthere (d : CoreId) (hd : coreKey d ≠ coreKey c.core) : coreOf (modCtx u c f) d = coreOf s d :=
    (coreOf_setCore_other u _ hd).trans (h.others d hd)
  have hhere : coreOf (modCtx u c f) c.core = setCtxIn c.kind (coreOf u c.core) (f (ctxOf u c)) := coreOf_setCore _ _ _
  refine ⟨?shell, h.saved, fun d hd => congrArg coreKept (hthere d hd), ?core, ?quiet, ?ctx⟩
  case shell => exact (congrArg (fun x : State => { x with cur := c }) h.rest :)
  case core =>
    change coreKept (coreOf (modCtx u c f) c.core) = coreKept (coreOf s c.core)
    rw [hhere, coreKept_setCtxIn, coreKept_counted h.here]
  case quiet =>
    intro d k hne
    change ctxQuiet (ctxIn k (coreOf (modCtx u c f) d)) = ctxQuiet (ctxIn k (coreOf s d))
    by_cases hd : coreKey d = coreKey c.core
    · have hk : k ≠ c.kind := hne.resolve_left fun hn => hn hd
      rw [coreOf_of_key _ hd, coreOf_of_key _ hd, hhere, ctxIn_setCtxIn_other _ _ hk, ctxQuiet_counted h.here]
    · rw [hthere d hd]
  case ctx =>
    obtain ⟨i, j, l, hctx⟩ := ctxOf_counted h
    change mc (ctxKept (ctxOf (modCtx u c f) c)) = mc (ctxKept (ctxOf s c))
    rw [ctxOf_modCtx, hf, hctx]
    rfl

/-- R27, R329: A TRAP of a context that is in its program ENTERS ITS HANDLER. -/
theorem takeTrap_entersTrap {s : State} {c : CtxId} (cause : BitVec 8) (tval : Word) (h : tsInh (ctxOf s c).tstat = false) :
    EntersTrap id id (asMover s c) (asMover (takeTrap s c cause tval (ctxOf s c).pc none) c) cause tval := by
  obtain ⟨u, hu, ht⟩ := takeTrap_enters h (cause := cause) (tval := tval) (epc := (ctxOf s c).pc) (stopped := none)
  obtain ⟨i, j, l, hctx⟩ := ctxOf_takeTrap h (cause := cause) (tval := tval) (epc := (ctxOf s c).pc) (stopped := none)
  have hkept : Kept id id (fun k => { k with tsave := 0, tstat := 0, tepc := 0, tval := 0, stopped := none, entryCycle := 0, crdep := [] })
      (asMover s c) (asMover (takeTrap s c cause tval (ctxOf s c).pc none) c) := by
    rw [ht]
    exact kept_modCtx hu fun _ => rfl
  have hd : curCtx (asMover (takeTrap s c cause tval (ctxOf s c).pc none) c) = inHandler s c cause tval (ctxOf s c).pc none
      { ctxOf s c with intp := i, intpAt := j, latch := l } := hctx
  unfold EntersTrap KeepsX
  rw [hd]
  exact ⟨rfl, tsInh_tsPack .., tsPm_tsPack .., tsPpm_tsPack .., tsIe_tsPack .., tsPie_tsPack .., tsCause_tsPack .., rfl, rfl,
    congrArg (fun v => maskPc ((ctxOf s c).tvec + v)) (ofNat_vectorOffset cause), rfl, rfl, rfl, fun _ => rfl, rfl, rfl, hkept⟩

end Sys2Proof.Proofs
end

section
/-!
PROOFS. Interrupts, engine traps and the wraps of the counters: one lemma for each event.
-/
namespace Sys2Proof.Proofs
open Sys2Proof.Machine Sys2Proof.Claims

/-! R23: an interrupt. -/

/-- A context that may act and does not wait is at an instruction boundary outside its handler. -/
theorem atBoundary_idle {s : State} {c : CtxId} (hlive : ctxLive s c = true) (hinh : tsInh (ctxOf s c).tstat = false)
    (hwait : (ctxOf s c).wait = none) (waits : Wait → Bool) : atBoundary s c waits = true := by
  simp [atBoundary, hlive, hinh, hwait]

theorem interrupt_enters {s : State} {c : CtxId} (hacts : Acts s c) (hinh : tsInh (ctxOf s c).tstat = false)
    (hie : tsIe (ctxOf s c).tstat = true) (hpend : (ctxOf s c).intp &&& 3 ≠ 0) (hat : (ctxOf s c).intpAt ≠ s.cyc.toNat + 1)
    (hwait : (ctxOf s c).wait = none) (heng : pendingEng s c = none) :
    exec (.interrupt c) s = .next (takeTrap s c cINTERRUPT (ctxOf s c).intp (ctxOf s c).pc none) := by
  have hbound := atBoundary_idle (ctxLive_of_acts hacts) hinh hwait fun _ => false
  have hrun : (ctxOf s c).run = .running := hacts.1
  have hdue : intrDue s c = true := by
    simp only [intrDue, hrun, hie, hbound, bne_iff_ne.mpr hpend, decide_eq_true hat, decide_true, Bool.and_true]
  change Host.Outcome.next (deliverInterrupt s c) = _
  simp [deliverInterrupt, hdue, heng]

/-! R326, R327: the trap of an engine. -/

/-- A context without a wait abandons none. -/
theorem abandon_idle {k : Ctx} (h : k.wait = none) : abandon k = k := by
  cases k
  subst h
  rfl

/-- The state in which the feeding context takes the trap of an engine, whose queue stays stopped. -/
def trapTaken (s : State) (c : CtxId) (e : Eng) (st : Stop) : State :=
  modCtx (modQueue s c.core e fun q => { q with stop := some { st with taken := true } }) c abandon

theorem ctxOf_trapTaken {s : State} {c : CtxId} (e : Eng) (st : Stop) (h : (ctxOf s c).wait = none) :
    ctxOf (trapTaken s c e st) c = ctxOf s c := by
  rw [trapTaken, ctxOf_modCtx, ctxOf_modQueue, abandon_idle h]

theorem queueOf_trapTaken (s : State) (c : CtxId) (e : Eng) (st : Stop) :
    queueOf (trapTaken s c e st) c.core e = { queueOf s c.core e with stop := some { st with taken := true } } := by
  rw [trapTaken, queueOf_modCtx, queueOf_modQueue]

/-- TEPC of an engine trap: 0 for a context that has ended (R326). -/
def engineEpc (k : Ctx) : Word := if k.run = .ended then 0 else k.pc

theorem engineTrap_enters {s : State} {c : CtxId} {e : Eng} {st : Stop} (hlive : ctxLive s c = true) (hrun : (ctxOf s c).run ≠ .off)
    (hinh : tsInh (ctxOf s c).tstat = false) (hwait : (ctxOf s c).wait = none) (heng : pendingEng s c = some (e, st)) :
    exec (.engineTrapDelivery c) s =
      .next (takeTrap (trapTaken s c e st) c st.cause st.tval (engineEpc (ctxOf s c)) (some ⟨e, st.index⟩)) := by
  have hbound := atBoundary_idle hlive hinh hwait trapsIn
  change Host.Outcome.next (deliverEngine s c) = _
  simp [deliverEngine, hbound, hrun, heng, endReqs, hwait, trapTaken, engineEpc]

/-! R422: the wrap of a counter. -/

/-- The core with its counter n wrapped: cleared, with OVF set. -/
def wrapped (n : Nat) (c : Core) : Core := coreWrap { c with ecnt := mset 0 c.ecnt n 0 } n

theorem ecnt_wrapped (n : Nat) (c : Core) : mget 0 (wrapped n c).ecnt n = 0 := mget_mset_same _ _ _ _

theorem ovf_wrapped (n : Nat) (c : Core) : (mget 0 (wrapped n c).esel n).getLsbD 12 = true := by
  rw [wrapped, coreWrap, mget_mset_same, BitVec.getLsbD_or]
  simp

theorem ecntWrap_wraps {s : State} {c : CoreId} {n : Nat} (hn : n < 8) (hcnt : mget 0 (coreOf s c).ecnt n = 0xFFFFFFFFFFFF)
    (hsrc : bitsAt (mget 0 (coreOf s c).esel n) 0 8 ≠ 0) (hfrz : (mget 0 (coreOf s c).esel n).getLsbD 10 = false) :
    exec (.ecntWrap c n) s = .next (if (mget 0 (coreOf s c).esel n).getLsbD 11 then raiseCntov (modCore s c (wrapped n)) c
      else modCore s c (wrapped n)) := by
  refine congrArg Host.Outcome.next (if_pos ?_)
  simp only [Bool.and_eq_true]
  exact ⟨⟨⟨decide_eq_true hn, decide_eq_true hcnt⟩, decide_eq_true hsrc⟩, by rw [hfrz]; rfl⟩

/-- CNTOV leaves the counters of its core. -/
theorem raiseCntov_counters (s : State) (c : CoreId) :
    (coreOf (raiseCntov s c) c).ecnt = (coreOf s c).ecnt ∧ (coreOf (raiseCntov s c) c).esel = (coreOf s c).esel := by
  unfold raiseCntov
  split
  · rw [coreOf_modCore]
    exact ⟨rfl, rfl⟩
  · exact ⟨rfl, rfl⟩

/-- R24: where the core has a unit, CNTOV is pending in its execute context. -/
theorem raiseCntov_here {s : State} {c : CoreId} (h : (coreOf s c).unit.isSome = true) :
    raiseCntov s c = modCore s c (setCntov s.cyc.toNat) := by
  simp only [raiseCntov, h, if_true]

/-- The image of a team with CNTOV pending at the core of a rank. -/
def cntovSaved (cyc rank : Nat) (v : Saved) : Saved :=
  { v with cores := v.cores.zipIdx.map fun k => if k.2 = rank then setCntov cyc k.1 else k.1 }

/-- R24: where the team is away, CNTOV is pending in its image. -/
theorem raiseCntov_away {s : State} {c : CoreId} {k : Nat} {v : Saved} (hunit : (coreOf s c).unit = none)
    (hsaved : s.pkg.saved = [(k, v)]) (hhome : v.home = clusKey (CoreId.cl c)) :
    (raiseCntov s c).pkg.saved = [(k, cntovSaved s.cyc.toNat c.rank v)] := by
  have hlast : lastSaved s (CoreId.cl c) = some (k, v) := by simp [lastSaved, hsaved, hhome]
  simp [raiseCntov, hunit, hlast, hsaved, modPkg, cntovSaved]

theorem cntovSaved_core {cyc rank : Nat} {v : Saved} {x : Core} (h : v.cores[rank]? = some x) :
    (cntovSaved cyc rank v).cores[rank]? = some (setCntov cyc x) := by
  simp [cntovSaved, h]

/-- Settles O41: a trap enters its handler by `takeTrap_entersTrap` and `ctxOf_takeTrap`, the wrap by the lemmas about CNTOV. -/
theorem trapEvents : Obligations.TrapEvents := by
  unfold Obligations.TrapEvents
  refine ⟨?interrupt, ?engine, ?wrap⟩
  case interrupt =>
    intro c s hacts hinh hie hpend hat hwait heng
    exact ⟨_, interrupt_enters hacts hinh hie hpend hat hwait heng, takeTrap_cur hinh, takeTrap_sameBytes hinh,
      takeTrap_entersTrap _ _ hinh⟩
  case engine =>
    intro c s e st hrun hrem hheld hteam hinh hwait heng
    have hlive : ctxLive s c = true := ctxLive_of hrem hheld hteam
    have hinh' : tsInh (ctxOf (trapTaken s c e st) c).tstat = false := by rw [ctxOf_trapTaken e st hwait]; exact hinh
    obtain ⟨i, j, l, hctx⟩ := ctxOf_takeTrap hinh' (cause := st.cause) (tval := st.tval) (epc := engineEpc (ctxOf s c))
      (stopped := some ⟨e, st.index⟩)
    rw [ctxOf_trapTaken e st hwait] at hctx
    refine ⟨_, engineTrap_enters hlive hrun hinh hwait heng, (takeTrap_sameBytes hinh' :), ?_⟩
    rw [queueOf_takeTrap hinh', queueOf_trapTaken, hctx]
    exact ⟨rfl, rfl, rfl, tsCause_tsPack .., tsInh_tsPack .., tsPm_tsPack .., rfl, rfl, rfl, rfl, rfl,
      congrArg (fun v => maskPc ((ctxOf s c).tvec + v)) (ofNat_vectorOffset st.cause)⟩
  case wrap =>
    intro c n s hn hcnt hsrc hfrz
    have hexec := ecntWrap_wraps hn hcnt hsrc hfrz
    by_cases hov : (mget 0 (coreOf s c).esel n).getLsbD 11 = true
    · rw [if_pos hov] at hexec
      obtain ⟨hecnt, hesel⟩ := raiseCntov_counters (modCore s c (wrapped n)) c
      refine ⟨_, hexec, (countsOnly_sameBytes (raiseCntov_only _ c) :), ?_, ?_, fun _ => ⟨fun hunit => ?_, ?_⟩⟩
      · rw [hecnt, coreOf_modCore, ecnt_wrapped]
      · rw [hesel, coreOf_modCore, ovf_wrapped]
      · rw [raiseCntov_here (by rw [coreOf_modCore]; exact hunit), coreOf_modCore, coreOf_modCore]
        exact ⟨rfl, rfl⟩
      · intro k v x hunit hsaved hhome hx
        exact ⟨_, _, raiseCntov_away (by rw [coreOf_modCore]; exact hunit) hsaved hhome, cntovSaved_core hx, rfl⟩
    · rw [if_neg hov] at hexec
      refine ⟨_, hexec, sameBytes_of_mem rfl rfl, ?_, ?_, fun h => absurd h hov⟩
      · rw [coreOf_modCore, ecnt_wrapped]
      · rw [coreOf_modCore, ovf_wrapped]

end Sys2Proof.Proofs
end

section
/-!
PROOFS. The decoder reads the word of every well-formed instruction back: the lemmas of the instructions, put together; and the
words that the spec works out.
-/
namespace Sys2Proof.Laws.RoundTrip

/-- R55-R65: the decoder reads back the word of any instruction: the lemmas of the constructors, in the order of `Instr`. -/
theorem statement (i : Instr) : Statement i :=
  Instr.casesOn i
    add sub and or xor andn shl shr sar rol min max minu maxu clz ctz popc sextB sextH sextW zextB zextH zextW shadd1 shadd2
    shadd3 shadd4 addi andi ori xori shli shri sari li lih mul mulh mulhu div divu rem remu cmp cmpi plog pset sel fadd fsub
    fmul ffma fdiv fsqrt fmin fmax fsgnJ fsgnN fsgnX fcmpEq fcmpNe fcmpLt fcmpGe fcvtFI fcvtFIu fcvtIF fcvtIuF fcvtFB fcvtBF
    fclass ld lduB lduH lduW pref st lds sts smap sunmap sflush sinv ttset ttq twait tdesc amoAdd amoAnd amoOr amoXor amoMin
    amoMax amoMinu amoMaxu amoSwap cas afadd abfadd abfsr fsetv fsetvR fgetv ftake fenceAcq fenceRel fenceFull fencePub
    fencePers waitv rsend rrecv rpoll carrive cwait pbr pbrr br brl loop loopSwp lbrk enq enqs ebusy efence estat lease lrel
    kwait ksig kset kread chins chinsw chtake chdone chcfg labegin lastep laend laabort lactl laq pacq prel crr crw crs crc
    trap tret yield wfe cancel lit ext waitk sigk nsel mark ldT ldG ldM ldS ldR pf stT stS stCv stZ mma mzero mloadc mdrain
    mpark munpark msyrk mflags mchol mlu mtrsm mtrinv mgqr mqapply mperm mdiag vld vst vldrb vshp vadd vsub vmul vfma vdiv
    vmin vmax vabs vneg vcmp vsel vcvt vred vbcast vtrans vand vor vxor vshl vshr vexp vrcp vrsq viota vclip vscale vpoisq
    vmovs rmax rexpsum rscale rmean rvar rnorm rmask rttab cpy cpy2 cpyt gath scat cconv mcast rsts cred cfill cchk cchins
    cwake entryCompletion interrupt engineTrapDelivery ringSendComplete ringReceiveComplete kwaitRelease cwaitRelease
    twaitRelease waitvRetest futureWaitRelease fenceComplete enqSpaceAvailable efenceComplete leaseGrant lrelComplete
    leaseExhaustion leaseRevocation pacqGrant wfeWake chinswRetry chargeWaitStart bucketRampTick wthreshExpiry budgetExpiry
    sliceEnd preemptionRequest preemptionForceStop preemptionHang teamSaveComplete unitRetire bindStage bindUnbind slotStart
    graphLoad churnBoundDispatch compensationStart compensationEnd removalRequest removalRelease checkerMismatch
    eccCorrectable eccUncorrectable arrayVerdict selfTest rpctlRecoveryPoint rpctlRollback rpctlSeal recoveryRequestEnd
    escapedLogThreshold tlbiPage tlbiAsid tlbiAll tlbiDone clintWrite clpctlQuiesce clpctlRetain clpctlOff clpctlRun
    quiescedReached retainedReached clretsvSave clretsvRestore retentionSaveDone clgateWrite clwakeWrite wakeComplete
    clbktWrite pcapWrite ecntWrap registerWrite submissionDoorbell completionRingTail partitionTableWrite safeTierWrite
    readRequest readCompletion postedWrite interruptMessage durableWrite durableAcknowledgement linkRetry dieLinkReroute
    peerWriteArrival powerOnReset bootImageVerify crierTakeover attestationRequest teamRestoreComplete retentionRestoreDone
    firmwareMeasurement nop dup drop swap overW rot pred atSlot

end Sys2Proof.Laws.RoundTrip

namespace Sys2Proof.Proofs
open Sys2Proof.Machine Sys2Proof.Claims

/-- Settles O54: what `RoundTrip.statement` says of a word of 32 bits and of one of 16. -/
theorem decodeEncode : Obligations.DecodeEncode := by
  unfold Obligations.DecodeEncode
  intro i hwf
  have hback : Laws.Back i := Laws.RoundTrip.statement i hwf
  unfold Laws.Back at hback
  constructor
  · intro w hw
    rw [hw] at hback
    exact hback
  · intro w e hw hclass
    rw [hw] at hback
    exact hback e hclass

/-- Settles O55: each word of the list is decoded. -/
theorem workedWords : Obligations.WorkedWords := by
  unfold Obligations.WorkedWords
  decide

end Sys2Proof.Proofs
end

section
/-!
PROOFS. A word of an engine queue that is not a launch word: what the frame of such a word does where its checks pass, where a value
is missing from the stack and where a push has no room; and what each word does to its queue.
-/
namespace Sys2Proof.Proofs
open Sys2Proof.Machine Sys2Proof.Claims

/-! R64, R210, R212, R68: the frame of a word. -/

/-- R68: the queue of the moving engine stops at its head with ENGERR and a subcause. -/
def stoppedAt (i : Instr) (sub : Nat) (s : State) : State :=
  let q := headQueue s s.curEng
  stopHead (setQueue s s.cur.core s.curEng q) s.cur.core s.curEng cENGERR (engTval (word16 i) q.pos sub) .fresh

/-- R212: at most four words in a cycle. -/
theorem wordSlot_free {now : Nat} {q : Queue} (h : q.wordAt.1 = now → q.wordAt.2 < 4) :
    wordSlot now q = some (if q.wordAt.1 = now then (now, q.wordAt.2 + 1) else (now, 1)) := by
  unfold wordSlot
  by_cases hnow : q.wordAt.1 = now
  · simp [hnow, h hnow]
  · simp [hnow]

section
variable {s : State} {i : Instr} {need eats : Nat} {push : Bool} {act : Queue → Queue}
  (hstop : (headQueue s s.curEng).stop = none) (hentry : (headQueue s s.curEng).entry = none)
include hstop hentry

/-- The checks of a word, in their order. -/
theorem engWord_checks : engWord i need eats push act s =
    (let q := headQueue s s.curEng
     if q.set.stack.length < need then stoppedAt i 5 s
     else if push && 8 ≤ q.set.stack.length then stoppedAt i 4 s
     else if marked q eats then stopMarked (setQueue s s.cur.core s.curEng q) s.cur.core s.curEng
     else match wordSlot s.cyc.toNat q with
       | none => s
       | some w => setQueue s s.cur.core s.curEng { act q with pos := q.pos + 1, wordAt := w }) := by
  change (if (headQueue s s.curEng).stop.isSome || (headQueue s s.curEng).entry.isSome then s else _) = _
  rw [hstop, hentry]
  rfl

theorem engWord_missing (hneed : (headQueue s s.curEng).set.stack.length < need) :
    engWord i need eats push act s = stoppedAt i 5 s := by
  rw [engWord_checks hstop hentry]
  exact if_pos hneed

theorem engWord_full (hneed : need ≤ (headQueue s s.curEng).set.stack.length) (hpush : push = true)
    (hfull : 8 ≤ (headQueue s s.curEng).set.stack.length) : engWord i need eats push act s = stoppedAt i 4 s := by
  rw [engWord_checks hstop hentry]
  simp [Nat.not_lt.mpr hneed, hpush, hfull]

/-- A word that passes its checks, on a clean stack, changes its queue and steps to the next word of the entry. -/
theorem engWord_runs (hneed : need ≤ (headQueue s s.curEng).set.stack.length)
    (hroom : push = true → (headQueue s s.curEng).set.stack.length < 8) (hclean : (headQueue s s.curEng).set.marks = 0)
    (hslot : (headQueue s s.curEng).wordAt.1 = s.cyc.toNat → (headQueue s s.curEng).wordAt.2 < 4) :
    engWord i need eats push act s =
      (let q := headQueue s s.curEng
       setQueue s s.cur.core s.curEng { act q with
         pos := q.pos + 1
         wordAt := if q.wordAt.1 = s.cyc.toNat then (s.cyc.toNat, q.wordAt.2 + 1) else (s.cyc.toNat, 1) }) := by
  have hfits : (push && decide (8 ≤ (headQueue s s.curEng).set.stack.length)) = false := by
    cases hp : push
    · rfl
    · simpa using hroom hp
  have hmarked : marked (headQueue s s.curEng) eats = false := by simp [marked, hclean]
  rw [engWord_checks hstop hentry]
  simp only [Nat.not_lt.mpr hneed, hfits, hmarked, wordSlot_free hslot, Bool.false_eq_true, if_false]

end

/-! R63, R64, R210, R215: what each word does. -/

/-- A change of a clean stack. -/
theorem onStack_clean {f : List Word → List Word} {g : BitVec 8 → BitVec 8} {q : Queue} (hg : g 0 = 0)
    (hclean : q.set.marks = 0) : onStack f g q = setStack q (f q.set.stack) := by
  rw [onStack, setStack, hclean, hg, ← hclean]

/-- A word that consumes the top of a clean stack. -/
theorem popTop_clean {f : Word → Queue → Queue} {q : Queue} (hneed : 1 ≤ q.set.stack.length) (hclean : q.set.marks = 0) :
    popTop f q = f (top q 0) (setStack q (q.set.stack.drop 1)) := by
  obtain ⟨v, l, hstack⟩ := List.exists_cons_of_length_pos hneed
  rw [popTop, hstack]
  dsimp only
  rw [onStack_clean rfl hclean, top, hstack]
  rfl

/-- A stack that holds two values has them at its top, and so for three. -/
theorem exists_two_of_length {l : List Word} (h : 2 ≤ l.length) : ∃ b a t, l = b :: a :: t := by
  match l, h with
  | b :: a :: t, _ => exact ⟨b, a, t, rfl⟩

theorem exists_three_of_length {l : List Word} (h : 3 ≤ l.length) : ∃ c b a t, l = c :: b :: a :: t := by
  match l, h with
  | c :: b :: a :: t, _ => exact ⟨c, b, a, t, rfl⟩

/-- A word that is not a launch word runs in the frame of `engWord`, with the values that it needs, whether it pushes, and, where the
stack holds these and is clean, its change of the queue. -/
theorem exec_controlForm {i : Instr} {n : Nat} {push : Bool} {f : Queue → Queue} (h : controlForm i = some (n, push, f)) :
    ∃ eats act, (∀ s, exec i s = .next (engWord i n eats push act s)) ∧
      ∀ q : Queue, n ≤ q.set.stack.length → q.set.marks = 0 → act q = f q := by
  cases i with
  | lit v =>
    cases h
    exact ⟨_, _, fun _ => rfl, fun q _ hclean => onStack_clean rfl hclean⟩
  | ext v =>
    cases h
    refine ⟨_, _, fun _ => rfl, fun q hneed hclean => ?_⟩
    obtain ⟨a, l, hstack⟩ := List.exists_cons_of_length_pos hneed
    exact (onStack_clean rfl hclean).trans (congrArg (setStack q) (by simp [top, hstack]))
  | nop =>
    cases h
    exact ⟨_, _, fun _ => rfl, fun _ _ _ => rfl⟩
  | dup =>
    cases h
    refine ⟨_, _, fun _ => rfl, fun q hneed hclean => ?_⟩
    obtain ⟨a, l, hstack⟩ := List.exists_cons_of_length_pos hneed
    exact (onStack_clean rfl hclean).trans (congrArg (setStack q) (by simp [top, hstack]))
  | drop =>
    cases h
    exact ⟨_, _, fun _ => rfl, fun q _ hclean => (onStack_clean rfl hclean).trans (congrArg (setStack q) List.drop_one.symm)⟩
  | swap =>
    cases h
    refine ⟨_, _, fun _ => rfl, fun q hneed hclean => ?_⟩
    obtain ⟨b, a, l, hstack⟩ := exists_two_of_length hneed
    exact (onStack_clean rfl hclean).trans (congrArg (setStack q) (by simp [top, hstack]))
  | overW =>
    cases h
    refine ⟨_, _, fun _ => rfl, fun q hneed hclean => ?_⟩
    obtain ⟨b, a, l, hstack⟩ := exists_two_of_length hneed
    exact (onStack_clean rfl hclean).trans (congrArg (setStack q) (by simp [top, hstack]))
  | rot =>
    cases h
    refine ⟨_, _, fun _ => rfl, fun q hneed hclean => ?_⟩
    obtain ⟨c, b, a, l, hstack⟩ := exists_three_of_length hneed
    exact (onStack_clean rfl hclean).trans (congrArg (setStack q) (by simp [top, hstack]))
  | waitk k =>
    cases h
    exact ⟨_, _, fun _ => rfl, fun q hneed hclean => popTop_clean hneed hclean⟩
  | sigk k =>
    cases h
    exact ⟨_, _, fun _ => rfl, fun _ _ _ => rfl⟩
  | pred =>
    cases h
    refine ⟨_, _, fun _ => rfl, fun q hneed hclean => ?_⟩
    have hlatch : (top q 0 != 0) = decide (top q 0 ≠ 0) := by rw [bne, decide_not]; rfl
    rw [popTop_clean hneed hclean, hlatch]
    rfl
  | atSlot =>
    cases h
    exact ⟨_, _, fun _ => rfl, fun q hneed hclean => popTop_clean hneed hclean⟩
  | nsel u v =>
    cases h
    exact ⟨_, _, fun _ => rfl, fun _ _ _ => rfl⟩
  | mark m =>
    cases h
    exact ⟨_, _, fun _ => rfl, fun _ _ _ => rfl⟩
  | _ => cases h

/-! R68, R326: the stop. -/

theorem queueOf_setQueue_other (s : State) (c : CoreId) {e d : Eng} (q : Queue) (h : d ≠ e) :
    queueOf (setQueue s c e q) c d = queueOf s c d := by
  rw [queueOf, setQueue, coreOf_setCore, queueIn_setQueueIn_other _ _ h]
  rfl

/-- The stop leaves the other queues and the memory, puts its queue back at the first word of its entry, and records the trap. -/
theorem stoppedAt_stops {i : Instr} {w : BitVec 16} (hw : encode i = .w16 w) (sub : Nat) (s : State) :
    let q := headQueue s s.curEng
    let t := stoppedAt i sub s
    (∀ e, e ≠ s.curEng → queueOf t s.cur.core e = queueOf s s.cur.core e) ∧ SameBytes s t ∧
      (queueOf t s.cur.core s.curEng).words = q.words ∧ (queueOf t s.cur.core s.curEng).set = q.set0 ∧
      (queueOf t s.cur.core s.curEng).pos = 0 ∧
      (queueOf t s.cur.core s.curEng).stop = some
        { cause := 0x0F, tval := BitVec.ofNat 64 (w.toNat + q.pos % 256 * 2 ^ 16 + sub * 2 ^ 24), index := q.headIdx
          since := s.cyc.toNat } := by
  intro q t
  have hword : word16 i = w := by rw [word16, hw]
  have hother (e : Eng) (he : e ≠ s.curEng) : queueOf t s.cur.core e = queueOf s s.cur.core e := by
    refine (queueOf_setQueue_other _ _ _ he).trans (queueOf_setQueue_other s _ q he)
  have hqueue : queueOf t s.cur.core s.curEng =
      stopWith s.cyc.toNat cENGERR (engTval w q.pos sub) q.headIdx .fresh (backToStart q) := by
    change queueOf (modQueue (setQueue s s.cur.core s.curEng q) s.cur.core s.curEng _) s.cur.core s.curEng = _
    rw [queueOf_modQueue, queueOf_setQueue, hword]
    rfl
  rw [hqueue]
  exact ⟨hother, sameBytes_of_mem rfl rfl, rfl, rfl, rfl, rfl⟩

/-- Settles O35: each word runs in the frame of the words, whose checks decide. -/
theorem controlWords : Obligations.ControlWords := by
  unfold Obligations.ControlWords
  refine ⟨?runs, ?stops⟩
  case runs =>
    intro i n push f s h q hstop hentry hneed hroom hclean hslot
    obtain ⟨eats, act, hexec, hact⟩ := exec_controlForm h
    have ha : act (headQueue s s.curEng) = f (headQueue s s.curEng) := hact _ hneed hclean
    rw [hexec, engWord_runs hstop hentry hneed hroom hclean hslot]
    simp only [ha]
    rfl
  case stops =>
    intro i n push f s w h hw q hstop hentry Stops
    obtain ⟨eats, act, hexec, -⟩ := exec_controlForm h
    constructor
    · intro hmissing
      exact ⟨_, by rw [hexec, engWord_missing hstop hentry hmissing], stoppedAt_stops hw 5 s⟩
    · intro hneed hpush hfull
      exact ⟨_, by rw [hexec, engWord_full hstop hentry hneed hpush hfull], stoppedAt_stops hw 4 s⟩

end Sys2Proof.Proofs
end

section
/-!
SUPPORT. A trap taken after the issue of its instruction was counted, and what the frame of a scalar instruction does where its
encoding or its mode is refused.
-/
namespace Sys2Proof.Proofs
open Sys2Proof.Machine Sys2Proof.Claims

theorem sameBytes_trans {s t u : State} (h : SameBytes s t) (k : SameBytes t u) : SameBytes s u := fun a =>
  ⟨(k a).1.trans (h a).1, (k a).2.trans (h a).2⟩

theorem asMover_self {s : State} {c : CtxId} (h : s.cur = c) : asMover s c = s := by rw [← h]; rfl

/-- R422: what stands from after a count stands from before it. -/
theorem kept_counted {ms : State → State} {mk : Core → Core} {mc : Ctx → Ctx} {s u t : State} {c : CtxId}
    (h : CountsOnly c.core s u) (k : Kept ms mk mc (asMover u c) (asMover t c)) : Kept ms mk mc (asMover s c) (asMover t c) := by
  obtain ⟨hshell, hsaved, hcores, hcore, hquiet, hctx⟩ := k
  have hcoreOf (d : CoreId) : coreKept (coreOf u d) = coreKept (coreOf s d) ∧
      ∀ k, ctxQuiet (ctxIn k (coreOf u d)) = ctxQuiet (ctxIn k (coreOf s d)) := by
    by_cases hd : coreKey d = coreKey c.core
    · rw [coreOf_of_key u hd, coreOf_of_key s hd]
      exact ⟨coreKept_counted h.here, ctxQuiet_counted h.here⟩
    · rw [h.others d hd]
      exact ⟨rfl, fun _ => rfl⟩
  refine ⟨hshell.trans ?shell, fun hu => ?saved, fun d hd => (hcores d hd).trans (hcoreOf d).1, hcore.trans ?core,
    fun d k hne => (hquiet d k hne).trans ((hcoreOf d).2 k), hctx.trans ?ctx⟩
  case shell => exact congrArg ms (congrArg (fun x : State => { x with cur := c }) h.rest :)
  case saved =>
    have hunit : (coreOf u c.core).unit.isSome = true := by rw [CountedFrom_unit h.here]; exact hu
    exact (hsaved hunit).trans (h.saved hu)
  case core => exact congrArg mk (hcoreOf c.core).1
  case ctx =>
    obtain ⟨i, j, l, hc⟩ := ctxOf_counted h
    change mc (ctxKept (ctxOf u c)) = mc (ctxKept (ctxOf s c))
    rw [hc]
    rfl

/-- R27, R329, R422: a trap that a context takes from its program where events were counted first is, for what was before the count,
the entry of its handler. -/
theorem takeTrap_counted {s u : State} {c : CtxId} (cause : BitVec 8) (tval : Word) (hu : CountsOnly c.core s u)
    (h : tsInh (ctxOf s c).tstat = false) : SameBytes s (takeTrap u c cause tval (ctxOf s c).pc none) ∧
      EntersTrap id id (asMover s c) (asMover (takeTrap u c cause tval (ctxOf s c).pc none) c) cause tval := by
  obtain ⟨i, j, l, hctx⟩ := ctxOf_counted hu
  have hpc : (ctxOf s c).pc = (ctxOf u c).pc := by rw [hctx]
  have hinh : tsInh (ctxOf u c).tstat = false := by rw [hctx]; exact h
  have hcur : curCtx (asMover u c) = { ctxOf s c with intp := i, intpAt := j, latch := l } := hctx
  rw [hpc]
  constructor
  · exact sameBytes_trans (countsOnly_sameBytes hu) (takeTrap_sameBytes hinh)
  · have henters := takeTrap_entersTrap cause tval hinh
    unfold EntersTrap KeepsX at henters ⊢
    rw [hcur] at henters
    obtain ⟨hsave, hinh, hpm, hppm, hie, hpie, hcause, hepc, hval, hvec, hrun, hwait, hstopped, hx, hp, hlc, hkept⟩ := henters
    exact ⟨hsave, hinh, hpm, hppm, hie, hpie, hcause, hepc, hval, hvec, hrun, hwait, hstopped, hx, hp, hlc,
      kept_counted hu hkept⟩

/-- The same of the moving context: the state itself enters the handler. -/
theorem takeTrap_here {s u : State} {c : CtxId} (cause : BitVec 8) (tval : Word) (hcur : s.cur = c) (hu : CountsOnly c.core s u)
    (h : tsInh (ctxOf s c).tstat = false) : SameBytes s (takeTrap u c cause tval (ctxOf s c).pc none) ∧
      EntersTrap id id s (takeTrap u c cause tval (ctxOf s c).pc none) cause tval := by
  obtain ⟨i, j, l, hctx⟩ := ctxOf_counted hu
  have hinh : tsInh (ctxOf u c).tstat = false := by rw [hctx]; exact h
  have hmover : (takeTrap u c cause tval (ctxOf s c).pc none).cur = c := (takeTrap_cur hinh).trans ((CountsOnly_cur hu).trans hcur)
  have htrap := takeTrap_counted cause tval hu h
  rwa [asMover_self hcur, asMover_self hmover] at htrap

/-! R21, R66, R67: the frame of a scalar instruction that is refused. -/

/-- The count of an issue leaves the mover and the address of its instruction. -/
theorem countIssue_at (s : State) : (countIssue s).cur = s.cur ∧ (curCtx (countIssue s)).pc = (curCtx s).pc := by
  obtain ⟨j, k, l, hctx⟩ := curCtx_countIssue s
  exact ⟨CountsOnly_cur (countIssue_only s), by rw [hctx]⟩

section
variable {i : Instr} {g : BitVec 3} {priv : Bool} {body : State → Ctx → Res} {s : State}

theorem scalar_illegal {legal : Bool} (hlegal : legal = false) :
    scalar i g legal priv body s = takeTrap (countIssue s) s.cur cILLOP (wordOf i) (curCtx s).pc none := by
  obtain ⟨hcur, hpc⟩ := countIssue_at s
  subst hlegal
  rw [← hcur, ← hpc]
  rfl

theorem isSuper_countIssue (hs : ¬ Super s) : isSuper (curCtx (countIssue s)) = false := by
  obtain ⟨j, k, l, hctx⟩ := curCtx_countIssue s
  rw [hctx]
  exact decide_eq_false hs

/-- R67: an instruction of supervisor mode, not nullified, in user mode. -/
theorem scalar_unprivileged (hg : Guard s g) (hs : ¬ Super s) :
    scalar i g true true body s = takeTrap (countIssue s) s.cur cPRIV (wordOf i) (curCtx s).pc none := by
  obtain ⟨hcur, hpc⟩ := countIssue_at s
  obtain ⟨j, k, l, hctx⟩ := curCtx_countIssue s
  have hguard : readP (curCtx (countIssue s)) g = true := by rw [hctx]; exact hg
  rw [← hcur, ← hpc]
  simp [scalar, scalarWith, hguard, isSuper_countIssue hs]

/-- An instruction whose effect is to trap. -/
theorem scalar_traps {legal : Bool} {cause : BitVec 8} (hlegal : legal = true) (hg : Guard s g)
    (hbody : body (countIssue s) (curCtx (countIssue s)) = .trap (countIssue s) cause (wordOf i)) :
    scalar i g legal false body s = takeTrap (countIssue s) s.cur cause (wordOf i) (curCtx s).pc none := by
  obtain ⟨hcur, hpc⟩ := countIssue_at s
  rw [scalar_runs i g legal false body s hlegal hg (fun h => absurd h Bool.false_ne_true), hbody, finish, hcur, hpc]

/-- R21, R27: an instruction that does no more than count its issue and take a trap traps with nothing else changed. -/
theorem traps_counted {cause : BitVec 8} {tval : Word}
    (hexec : exec i s = .next (takeTrap (countIssue s) s.cur cause tval (curCtx s).pc none)) (h : NotInTrap s) :
    Traps i s cause tval :=
  ⟨_, hexec, takeTrap_here cause tval rfl (countIssue_only s) h⟩

end

end Sys2Proof.Proofs
end

section
/-!
PROOFS. Encodings that the context may not issue, and the instructions and registers of supervisor mode.
-/
namespace Sys2Proof.Proofs
open Sys2Proof.Machine Sys2Proof.Claims

/-- R67: the checks on an encoding are those that its instruction makes before its guard. -/
theorem exec_encodingBad {i : Instr} {s : State} (h : ¬ encodingOk s i) :
    ∃ g legal priv body, exec i s = .next (scalar i g legal priv body s) ∧ legal = false ∧ wordOf i = wordVal i := by
  cases i with
  | enq | enqs | ebusy | efence | estat | crr | crw | crs | crc =>
    exact ⟨_, _, _, _, rfl, Bool.eq_false_iff.mpr h, rfl⟩
  | lease | lrel | pref => exact ⟨_, _, _, _, rfl, decide_eq_false h, rfl⟩
  | _ => exact absurd trivial h

/-- R18: the registers of supervisor mode are assigned. -/
theorem crPriv_of_range {r : BitVec 11} (hlo : 0x10 ≤ r.toNat) (hhi : r.toNat ≤ 0x17) :
    crPriv r = true ∧ crAssigned r = true := by
  simp [crPriv, crAssigned, hlo, hhi]

/-- Settles O32: the frame of a scalar instruction refuses the encoding, or the mode. -/
theorem illegalAndPrivileged : Obligations.IllegalAndPrivileged := by
  unfold Obligations.IllegalAndPrivileged
  refine ⟨?illegal, ?lactl, ?registers⟩
  case illegal =>
    intro i s hbad h
    obtain ⟨g, legal, priv, body, hexec, hlegal, hword⟩ := exec_encodingBad hbad
    rw [scalar_illegal hlegal, hword] at hexec
    exact traps_counted hexec h
  case lactl =>
    intro d a b g s hg hs h
    exact traps_counted (congrArg Host.Outcome.next (scalar_unprivileged hg hs)) h
  case registers =>
    intro d a r g s hg hs h hlo hhi
    obtain ⟨hpriv, hassigned⟩ := crPriv_of_range hlo hhi
    have huser : (crPriv r && !isSuper (curCtx (countIssue s))) = true := by rw [hpriv, isSuper_countIssue hs]; rfl
    have traps {i : Instr} {body : State → Ctx → Res} (hexec : exec i s = .next (scalar i g (crAssigned r) false body s))
        (hbody : body (countIssue s) (curCtx (countIssue s)) = .trap (countIssue s) cPRIV (wordOf i)) : Traps i s 0x02 (wordOf i) :=
      traps_counted (hexec.trans (congrArg Host.Outcome.next (scalar_traps hassigned hg hbody))) h
    exact ⟨traps rfl (if_pos huser), traps rfl (if_pos huser), traps rfl (if_pos huser), traps rfl (if_pos huser)⟩

end Sys2Proof.Proofs
end

section
/-!
SUPPORT. What a fetch leaves of its context: the program it is in, but for what a counter sets that wraps, and the memory.
-/
namespace Sys2Proof.Proofs
open Sys2Proof.Machine Sys2Proof.Claims

/-- The mover, the memory and a context stand, but for what a wrapping counter sets of the context (R422). -/
structure ProgramKept (c : CtxId) (s t : State) : Prop where
  cur : t.cur = s.cur
  mem : t.mem = s.mem
  memPoison : t.memPoison = s.memPoison
  ctx : ctxQuiet (ctxOf t c) = ctxQuiet (ctxOf s c)

theorem programKept_refl (c : CtxId) (s : State) : ProgramKept c s s := ⟨rfl, rfl, rfl, rfl⟩

theorem programKept_trans {c : CtxId} {s t u : State} (h : ProgramKept c s t) (k : ProgramKept c t u) : ProgramKept c s u :=
  ⟨k.cur.trans h.cur, k.mem.trans h.mem, k.memPoison.trans h.memPoison, k.ctx.trans h.ctx⟩

/-- A context outside its handler stays outside. -/
theorem programKept_inh {c : CtxId} {s t : State} (h : ProgramKept c s t) (hinh : tsInh (ctxOf s c).tstat = false) :
    tsInh (ctxOf t c).tstat = false :=
  (congrArg (fun k : Ctx => tsInh k.tstat) h.ctx :).trans hinh

theorem programKept_of_slicesOnly (c : CtxId) {s t : State} (h : SlicesOnly s t) : ProgramKept c s t := by
  obtain ⟨_, _, _, rfl⟩ := h
  exact ⟨rfl, rfl, rfl, rfl⟩

theorem programKept_of_countsOnly {c : CtxId} {s t : State} (h : CountsOnly c.core s t) : ProgramKept c s t :=
  ⟨CountsOnly_cur h, (congrArg State.mem h.rest :), (congrArg State.memPoison h.rest :), ctxQuiet_counted h.here c.kind⟩

/-- R158, R167: a look-up counts misses, and then reads page entries at their home slices. -/
theorem lookUp_counts (l1 : Bool) (s : State) (id : CoreId) (va : Nat) :
    ∃ u, CountsOnly id s u ∧ SlicesOnly u (lookUp l1 s id va) := by
  have counted (b : Bool) (su : Bool) : CountsOnly id s (if b then count s id 0x44 1 su else s) := by
    split
    · exact count_only s id _ _ _
    · exact CountsOnly_refl id s
  unfold lookUp
  dsimp only
  split
  · exact ⟨s, CountsOnly_refl id s, slicesOnly_refl s⟩
  · split
    · exact ⟨_, counted _ _, slicesOnly_refl _⟩
    · exact ⟨_, CountsOnly_trans (counted _ _) (count_only _ id _ _ _), touchWalk_slicesOnly _ _ _⟩

theorem lookUp_programKept (l1 : Bool) (s : State) (c : CtxId) (va : Nat) : ProgramKept c s (lookUp l1 s c.core va) := by
  obtain ⟨u, hcounts, hslices⟩ := lookUp_counts l1 s c.core va
  exact programKept_trans (programKept_of_countsOnly hcounts) (programKept_of_slicesOnly c hslices)

theorem faulted_programKept (s : State) (c : CtxId) (cause : BitVec 8) (va : Nat) :
    ProgramKept c s (faulted true s c.core cause va) := by
  unfold faulted
  split
  · exact programKept_refl c s
  · exact lookUp_programKept true s c va

theorem fillTlb_programKept (s : State) (c : CtxId) (l : Leaf) : ProgramKept c s (fillTlb s c.core l) := by
  have cached (t : State) (f : Core → List TlbEnt) (g : Cluster → List TlbEnt) : ProgramKept c t
      (modClus (modCore t c.core fun k => { k with tlb := f k }) (CoreId.cl c.core) fun k => { k with tlb := g k }) := by
    refine ⟨rfl, rfl, rfl, ?_⟩
    rw [ctxOf, coreOf_modClus, coreOf_modCore, ctxOf]
    cases c.kind <;> rfl
  unfold fillTlb fillTlbBy
  dsimp only
  split
  · exact programKept_refl c s
  · exact programKept_trans (lookUp_programKept true s c l.va)
      (programKept_trans (cached _ (fun k => putTlb 64 _ _ k.tlb) (fun k => putTlb 2048 _ _ k.tlb))
        (programKept_of_slicesOnly c ⟨_, _, _, rfl⟩))

/-- R398: a read of the host or of a peer only sends its request. -/
theorem askBeyond_slicesOnly (s : State) (pa n : Nat) : SlicesOnly s (askBeyond s pa n) := by
  have sent (port addr count : Nat) : SlicesOnly s (sendRead s port addr count) := by
    unfold sendRead
    dsimp only
    split
    · exact ⟨_, _, _, rfl⟩
    · exact ⟨_, _, _, rfl⟩
  unfold askBeyond
  split
  · exact sent _ _ _
  · exact sent _ _ _
  · exact slicesOnly_refl s

theorem homeImage_slicesOnly (s : State) (id : CoreId) (line : Nat) : SlicesOnly s (homeImage s id line).2.2 := by
  unfold homeImage
  split
  · exact slicesOnly_refl s
  · exact slicesOnly_trans ⟨_, _, _, rfl⟩ (slicesOnly_trans (askBeyond_slicesOnly _ _ _) ⟨_, _, _, rfl⟩)

theorem fillImage_slicesOnly (s : State) (id : CoreId) (line : Nat) : SlicesOnly s (fillImage s id line).2.2 := by
  have hfold : (fillImage s id line).2.2 = (homeImage s id line).2.2 := by
    refine foldl_keeps (fun r : SMap Byte × SMap Bool × State => r.2.2) _ ?_ _ _
    exact fun _ _ => rfl
  rw [hfold]
  exact homeImage_slicesOnly s id line

theorem fetchBytes_slicesOnly (s : State) (id : CoreId) (pa n : Nat) : SlicesOnly s (fetchBytes s id pa n).2 := by
  unfold fetchBytes
  dsimp only
  split
  · exact slicesOnly_refl s
  · split
    · exact fillImage_slicesOnly s id _
    · exact slicesOnly_trans (fillImage_slicesOnly s id _) (touchHome_slicesOnly _ _ _ _ _)

/-- R21: the fetch of a context through a translation. -/
theorem fetch_programKept (s : State) (c : CtxId) (l : Leaf) (pa n : Nat) :
    ProgramKept c s (fetchBytes (fillTlb s c.core l) c.core pa n).2 :=
  programKept_trans (fillTlb_programKept s c l) (programKept_of_slicesOnly c (fetchBytes_slicesOnly _ _ _ _))

end Sys2Proof.Proofs
end

section
/-!
PROOFS. A step of a context whose word is no instruction, or whose address has no translation: the trap that its fetch takes.
-/
namespace Sys2Proof.Proofs
open Sys2Proof.Machine Sys2Proof.Claims

/-- The move at the head of the agenda that issues nothing. -/
theorem step_idles {s t : State} {m : Move} {rest : List Move} (h : s.agenda = m :: rest) (hm : moveOk m = true)
    (ht : todo (inTurn s m rest) m = .idle t) : step s = .next (passTime t) := by
  rw [step_agenda h hm, ht]
  rfl

/-- A move of a context that issues nothing. -/
theorem step_traps {s t : State} {c : CtxId} {rest : List Move} (h : Issues s c rest)
    (ht : fetchCtx (issuing s c rest) c = .idle t) : step s = .next (passTime t) :=
  step_idles h.agenda h.inPackage (by rw [todo, ctxMove_issues h, ht])

theorem fetchCtx_untranslated {s : State} {c : CtxId} {cause : BitVec 8}
    (hx : translate s c.core (isSuper (ctxOf s c)) .fetch (ctxOf s c).pc.toNat = .error cause) :
    fetchCtx s c =
      .idle (takeTrap (faulted true s c.core cause (ctxOf s c).pc.toNat) c cause (ctxOf s c).pc (ctxOf s c).pc none) := by
  simp only [fetchCtx, hx]

theorem fetchCtx_undecoded {s : State} {c : CtxId} {x : Xl} {err : DecodeErr}
    (hx : translate s c.core (isSuper (ctxOf s c)) .fetch (ctxOf s c).pc.toNat = .ok x)
    (hi : decode32 (BitVec.ofNat 32 (leNat (fetchBytes (fillTlb s c.core x.leaf) c.core x.pa 4).1)) = .error err) :
    fetchCtx s c = .idle (illegalWord (fetchBytes (fillTlb s c.core x.leaf) c.core x.pa 4).2 c
      ((BitVec.ofNat 32 (leNat (fetchBytes (fillTlb s c.core x.leaf) c.core x.pa 4).1)).setWidth 64)) := by
  simp only [fetchCtx, hx, hi]

/-- Settles O53: a fetch leaves its context in its program, from which the trap enters the handler. -/
theorem stepTraps : Obligations.StepTraps := by
  unfold Obligations.StepTraps
  intro s c rest h v hinh
  constructor
  · intro x err hx r w hi
    have hkept : ProgramKept c v r.2 := fetch_programKept v c x.leaf x.pa 4
    have hcur : r.2.cur = c := hkept.cur
    have hissue : CountsOnly c.core r.2 (countIssue r.2) := hcur ▸ countIssue_only r.2
    obtain ⟨hbytes, henters⟩ := takeTrap_here cILLOP (w.setWidth 64) hcur hissue (programKept_inh hkept hinh)
    exact ⟨_, step_traps h (fetchCtx_undecoded hx hi), henters, hbytes⟩
  · intro cause hx
    have hkept := faulted_programKept v c cause (ctxOf v c).pc.toNat
    have hcur : (faulted true v c.core cause (ctxOf v c).pc.toNat).cur = c := hkept.cur
    have hpc : (ctxOf (faulted true v c.core cause (ctxOf v c).pc.toNat) c).pc = (ctxOf v c).pc := (congrArg Ctx.pc hkept.ctx :)
    obtain ⟨hbytes, henters⟩ := takeTrap_here cause (ctxOf v c).pc hcur (CountsOnly_refl _ _) (programKept_inh hkept hinh)
    rw [hpc] at hbytes henters
    exact ⟨_, step_traps h (fetchCtx_untranslated hx), henters,
      sameBytes_trans (sameBytes_of_mem hkept.mem hkept.memPoison) hbytes⟩

end Sys2Proof.Proofs
end
